-- ==== Sys2Proof/Word.lean ====
section
/-! DEFINITION. The word types of the DV4896 and their plainest arithmetic (spec/04_numbers.md R76, R99). -/

namespace Sys2Proof

/-- A scalar register's value (R100). -/
abbrev Word := BitVec 64

/-- One byte of memory (R1). -/
abbrev Byte := BitVec 8

/-- The value of one slot of a bundle (R45). -/
abbrev SlotBits := BitVec 40

/-- A physical vector register (R102). -/
abbrev VReg := BitVec 1024

/-- A physical predicate register (R103). -/
abbrev PReg := BitVec 128

/-- A bundle index (R45, R117). -/
abbrev Pc := BitVec 40

/-- A one-bit field as a truth value. -/
abbrev Bit.on (b : BitVec 1) : Bool := b == 1

end Sys2Proof
end

