-- ==== Sys2Proof/Syntax.lean ====
section
/-! DEFINITION. Syntax: the operand formats of spec/03_bundles_and_encoding.md R51 with their fields as encoded, the
operands of the part's events, and `Instr`, one constructor per row of spec/opcode_table.json. -/

namespace Sys2Proof

/-- The seven slots of a bundle (R45), in program order (R53). -/
inductive SlotId where
  | c | s | v | w | x | t | y
  deriving DecidableEq, Repr

/-- The slot of an instruction that C and S both carry (R48). -/
inductive CS where
  | c | s
  deriving DecidableEq, Repr

/-- The slot of an instruction that V and W both carry (R48). -/
inductive VW where
  | v | w
  deriving DecidableEq, Repr

def CS.id : CS → SlotId
  | .c => .c
  | .s => .s

def VW.id : VW → SlotId
  | .v => .v
  | .w => .w

/-- Format RR of R51: scalar register form. -/
structure RR where
  sd : BitVec 5
  sa : BitVec 5
  sb : BitVec 5
  sc : BitVec 5
  fn : BitVec 4
  p : BitVec 1
  deriving DecidableEq, Repr

/-- Format RI of R51: scalar immediate form. -/
structure RI where
  sd : BitVec 5
  sa : BitVec 5
  imm : BitVec 22
  deriving DecidableEq, Repr

/-- Format MI of R51: 27-bit constant. -/
structure MI where
  sd : BitVec 5
  imm : BitVec 27
  deriving DecidableEq, Repr

/-- Format MK of R51: 16-bit insert. -/
structure MK where
  sd : BitVec 5
  pos : BitVec 2
  imm : BitVec 16
  deriving DecidableEq, Repr

/-- Format JO of R51: PC-relative jump. -/
structure JO where
  off : BitVec 27
  deriving DecidableEq, Repr

/-- Format BC of R51: compare and branch. -/
structure BC where
  sa : BitVec 5
  sb : BitVec 5
  cond : BitVec 3
  off : BitVec 19
  deriving DecidableEq, Repr

/-- Format JR of R51: register jump. -/
structure JR where
  sa : BitVec 5
  off : BitVec 22
  deriving DecidableEq, Repr

/-- Format LI of R51: loop set-up. -/
structure LI where
  sa : BitVec 5
  esc : BitVec 4
  deriving DecidableEq, Repr

/-- Format SR of R51: strand instruction. -/
structure SR where
  sd : BitVec 5
  sa : BitVec 5
  deriving DecidableEq, Repr

/-- Format TC of R51: trap code. -/
structure TC where
  code : BitVec 16
  deriving DecidableEq, Repr

/-- Format CR of R51: CSR access. -/
structure CR where
  sd : BitVec 5
  sa : BitVec 5
  csr : BitVec 12
  deriving DecidableEq, Repr

/-- Format SY of R51: system instruction. -/
structure SY where
  sd : BitVec 5
  sa : BitVec 5
  sb : BitVec 5
  sc : BitVec 5
  fn : BitVec 4
  deriving DecidableEq, Repr

/-- Format PR of R51: predicate instruction. -/
structure PR where
  pd : BitVec 4
  pa : BitVec 4
  pb : BitVec 4
  s : BitVec 5
  es : BitVec 2
  deriving DecidableEq, Repr

/-- Format LS of R51: load or store. -/
structure LS where
  reg : BitVec 5
  base : BitVec 5
  imm : BitVec 20
  order : BitVec 2
  deriving DecidableEq, Repr

/-- Format AT of R51: atomic. -/
structure AT where
  sd : BitVec 5
  sa : BitVec 5
  sb : BitVec 5
  sc : BitVec 5
  scope : BitVec 3
  order : BitVec 2
  deriving DecidableEq, Repr

/-- Format VT of R51: vector-tile access. -/
structure VT where
  v : BitVec 5
  h : BitVec 5
  a : BitVec 5
  b : BitVec 5
  es : BitVec 2
  idx : BitVec 7
  lv : BitVec 1
  deriving DecidableEq, Repr

/-- Format VE of R51: vector element instruction. -/
structure VE where
  ty : BitVec 3
  width : BitVec 2
  vd : BitVec 5
  va : BitVec 5
  vb : BitVec 5
  pg : BitVec 4
  z : BitVec 1
  la : BitVec 1
  lb : BitVec 1
  sat : BitVec 1
  ext : BitVec 4
  deriving DecidableEq, Repr

/-- Format XB of R51: crossbar instruction. -/
structure XB where
  es : BitVec 2
  vd : BitVec 5
  va : BitVec 5
  xi : BitVec 5
  pg : BitVec 4
  imm : BitVec 11
  deriving DecidableEq, Repr

/-- Format MM of R51: matrix multiply (`trb` is the field TB, `tb` the tile). -/
structure MM where
  tc : BitVec 5
  ta : BitVec 5
  tb : BitVec 5
  ck : BitVec 1
  la : BitVec 1
  lb : BitVec 1
  trb : BitVec 1
  ec : BitVec 3
  fe : BitVec 1
  flag : BitVec 5
  deriving DecidableEq, Repr

/-- Format TM of R51: tile transfer. -/
structure TM where
  h : BitVec 5
  rcd : BitVec 5
  base : BitVec 5
  lr : BitVec 1
  flag : BitVec 5
  fe : BitVec 1
  dl : BitVec 10
  deriving DecidableEq, Repr

/-- Format TA of R51: tile allocation (`rows` and `cols` hold the counts less one). -/
structure TA where
  h : BitVec 5
  lvl : BitVec 2
  fmt : BitVec 4
  rows : BitVec 9
  cols : BitVec 9
  lay : BitVec 1
  deriving DecidableEq, Repr

/-- Format TX of R51: tile transform. -/
structure TX where
  hd : BitVec 5
  ha : BitVec 5
  x : BitVec 5
  la : BitVec 1
  lx : BitVec 1
  fe : BitVec 1
  flag : BitVec 5
  fn : BitVec 9
  deriving DecidableEq, Repr

/-- Format TQ of R51: anchor instruction. -/
structure TQ where
  tc : BitVec 5
  q : BitVec 10
  deriving DecidableEq, Repr

/-- Format YF of R51: synchronisation instruction. -/
structure YF where
  sd : BitVec 5
  f : BitVec 5
  sa : BitVec 5
  rt : BitVec 1
  die : BitVec 2
  core : BitVec 6
  imm : BitVec 8
  deriving DecidableEq, Repr

/-! ### Operands of the part's events -/

/-- A core of the package: physical die and core (R4). -/
structure CoreId where
  die : Fin 4
  core : Fin 48
  deriving DecidableEq, Repr

/-- A context slot of a core (R5). -/
structure CtxId where
  core : CoreId
  slot : Fin 4
  deriving DecidableEq, Repr

/-- A flow of messages: source and destination package and die, and the class code of R310. -/
structure FlowId where
  spkg : Fin 4
  sdie : Fin 4
  dpkg : Fin 4
  ddie : Fin 4
  cls : Fin 4
  deriving DecidableEq, Repr

/-- What an access does to its bytes (R186). -/
inductive Access where
  | fetch | read | write | atomic
  deriving DecidableEq, Repr

/-- The causes of throttling (R366). -/
inductive Throttle where
  | energy | thermal | rail | slew | bandwidth
  deriving DecidableEq, Repr

/-- The event SUB of a throttling cause (R366). -/
def Throttle.sub : Throttle → BitVec 8
  | .energy => 1
  | .thermal => 2
  | .rail => 2
  | .slew => 3
  | .bandwidth => 4

/-- What moves a die's throttle ceiling (R366): a temperature or a power above its limit, or a die 5 °C below. -/
inductive Heat where
  | thermal | rail | cool
  deriving DecidableEq, Repr

/-- One member's slack report (R372): ticks per waiting core, as a fraction. -/
structure SlackRep where
  num : Nat
  den : Nat
  deriving DecidableEq, Repr

/-- What the configuration manager does for slack control (R372): it marks the flags and the members of this package of a registered box collective,
or a member reports, with the reports that members of other packages have sent. -/
inductive SlackOp where
  | mark (flags : List (CoreId × Fin 32)) (members : List (Fin 4))
  | report (others : List SlackRep)
  deriving DecidableEq, Repr

/-- What a start finds (R425, R428): the dies whose start-up self-test passes and the outcome of each check of the image. -/
structure BootInput where
  passes : BitVec 4
  /-- Which of the two copies of the boot attempt counter read valid. -/
  copies : BitVec 2
  keysOk : Bool
  signaturesOk : Bool
  pufOk : Bool
  versionOk : Bool
  stepping : BitVec 8
  /-- What the host has written over the two copies of the counter since the last start, if it has rewritten the flash (R427). -/
  flash : Option (BitVec 8 × BitVec 8)
  deriving DecidableEq, Repr

/-- A memory range of the partition table (R445), in units of 256 KiB, with permissions X, W, R. -/
structure PartRange where
  dbase : BitVec 34
  pbase : BitVec 34
  count : BitVec 34
  perm : BitVec 3
  deriving DecidableEq, Repr

/-- One entry of the firmware image's partition table (R445); an unset value takes its default. -/
structure PartEntry where
  ptroot : BitVec 39
  supcb : BitVec 48
  tbofs : BitVec 64
  cores : List CoreId
  ranges : List PartRange
  vfs : List (Fin 1024)
  iw : Option (BitVec 8)
  bw : Option (BitVec 8)
  eshare : Option (BitVec 32)
  opmax : Option (Fin 8)
  slew : Option Nat
  bcap : Option (BitVec 32)
  wdlim : Option (BitVec 8)
  deriving DecidableEq, Repr

/-- A host-visible function: the physical function or a virtual one (R419). -/
inductive HostFn where
  | pf
  | vf (n : Fin 1024)
  deriving DecidableEq, Repr

/-- A stored bit that changes by itself (R115, R195, R196, R198, R202, R203). -/
inductive SoftErr where
  /-- Bit `bit` of cell (i, j) of accumulator tile `tid` of a core flips (R202). -/
  | cell (c : CoreId) (tid : Nat) (i j : Fin 32) (bit : Fin 128)
  /-- Bit `bit` of cell (i, j) flips while an MMA adds into the tile, after it has added its product of index k (R430). -/
  | partialSum (c : CoreId) (tid : Nat) (k : Fin 512) (i j : Fin 32) (bit : Fin 128)
  /-- A bit of row checksum i flips (R202). -/
  | rowck (c : CoreId) (tid : Nat) (i : Fin 32) (bit : Fin 128)
  /-- A bit of column checksum j flips (R202). -/
  | colck (c : CoreId) (tid : Nat) (j : Fin 32) (bit : Fin 128)
  /-- An uncorrectable error in a tile's counters or Q (R202). -/
  | accState (c : CoreId) (tid : Nat)
  /-- A bit of a vector register flips and its word's parity fails (R115). -/
  | vreg (x : CtxId) (r : Fin 32) (bit : Fin 1024)
  /-- `symbols` symbols of a scratchpad stripe change, the first in bank `bank` (R198). -/
  | stripe (c : CoreId) (bank : Fin 34) (byte : Fin 16384) (symbols : Nat)
  /-- `symbols` 16-bit symbols of a line of device memory change (R196). -/
  | line (d : Fin 4) (line : BitVec 29) (symbols : Nat)
  /-- A single or double bit error in a home-cache line (R195). -/
  | cacheLine (d : Fin 4) (line : BitVec 29) (double : Bool)
  /-- A single or double bit error in a row of a group's D tile (R203). -/
  | dstoreRow (d : Fin 4) (grp : BitVec 20) (h : Fin 8) (row : Fin 512) (double : Bool)
  deriving DecidableEq, Repr

/-- A role of a service level (R342): launch record address, group index, virtual die. -/
structure RoleReg where
  launch : BitVec 64
  group : BitVec 16
  vdie : BitVec 2
  deriving DecidableEq, Repr

/-- A checkpoint region of a service level (R342). -/
structure CkptReg where
  addr : BitVec 48
  bytes : BitVec 40
  narrow : Bool
  deriving DecidableEq, Repr

/-- One declared service level (R75, R342). -/
structure LevelReg where
  level : Fin 4
  roles : List RoleReg
  ckpts : List CkptReg
  /-- The rule image's address, Y3. -/
  rules : BitVec 48
  /-- The addresses of the role list and of the checkpoint list, Y1 and Y2. -/
  roleAt : BitVec 48
  ckptAt : BitVec 48
  deriving DecidableEq, Repr

/-- A task set as registered (R342). -/
structure TaskSetReg where
  tsid : BitVec 32
  dom : BitVec 12
  levels : List LevelReg
  deriving DecidableEq, Repr

/-- The rows of spec/opcode_table.json: the instructions of the seven slots (R49), then the part's events. An instruction
that two slots carry names its slot; its operands are the fields of its format. -/
inductive Instr where
  | br (o : JO)
  | brc (o : BC)
  | jmp (o : JR)
  | call (o : JO)
  | callr (o : JR)
  | ret
  | loopi (o : LI)
  | loop
  | suspend
  | spawn (o : SR)
  | rclaim (o : SR)
  | yield
  | halt
  | trap (o : TC)
  | tret
  | csrr (o : CR)
  | csrw (o : CR)
  | csrsb (o : CR)
  | csrcb (o : CR)
  | dnew (o : SY)
  | dgrantRange (o : SY)
  | dgrantCore (o : SY)
  | dgrantVf (o : SY)
  | dgrantBud (o : SY)
  | drevokeRange (o : SY)
  | drevokeCore (o : SY)
  | drevokeVf (o : SY)
  | dkill (o : SY)
  | dpolicyTrap (o : SY)
  | dpolicyFlags (o : SY)
  | dpolicyEvq (o : SY)
  | dpolicyDlog (o : SY)
  | dpolicyScope (o : SY)
  | dpolicyTbofs (o : SY)
  | dpolicySpill (o : SY)
  | dquery (o : SY)
  | tlbinvAll (o : SY)
  | tlbinvVa (o : SY)
  | tlbinvDom (o : SY)
  | rtload (o : SY)
  | rtloadClr (o : SY)
  | evpostOwn (o : SY)
  | evpostPar (o : SY)
  | evpostChild (o : SY)
  | pgstateBegin (o : SY)
  | pgstateEnd (o : SY)
  | pand (o : PR)
  | por (o : PR)
  | pxor (o : PR)
  | pnot (o : PR)
  | psetn (o : PR)
  | pcnt (o : PR)
  | pfirst (o : PR)
  | add (sl : CS) (o : RR)
  | addi (sl : CS) (o : RI)
  | sub (sl : CS) (o : RR)
  | mul (sl : CS) (o : RR)
  | mulh (sl : CS) (o : RR)
  | mulhu (sl : CS) (o : RR)
  | div (sl : CS) (o : RR)
  | divu (sl : CS) (o : RR)
  | rem (sl : CS) (o : RR)
  | remu (sl : CS) (o : RR)
  | and (sl : CS) (o : RR)
  | andi (sl : CS) (o : RI)
  | or (sl : CS) (o : RR)
  | ori (sl : CS) (o : RI)
  | xor (sl : CS) (o : RR)
  | xori (sl : CS) (o : RI)
  | shl (sl : CS) (o : RR)
  | shli (sl : CS) (o : RI)
  | shr (sl : CS) (o : RR)
  | shri (sl : CS) (o : RI)
  | sar (sl : CS) (o : RR)
  | sari (sl : CS) (o : RI)
  | ror (sl : CS) (o : RR)
  | min (sl : CS) (o : RR)
  | minu (sl : CS) (o : RR)
  | max (sl : CS) (o : RR)
  | maxu (sl : CS) (o : RR)
  | clz (sl : CS) (o : RR)
  | ctz (sl : CS) (o : RR)
  | popc (sl : CS) (o : RR)
  | slt (sl : CS) (o : RR)
  | sltu (sl : CS) (o : RR)
  | sel (sl : CS) (o : RR)
  | movi (sl : CS) (o : MI)
  | movk (sl : CS) (o : MK)
  | sext (sl : CS) (o : RI)
  | sfadd (sl : CS) (o : RR)
  | sfsub (sl : CS) (o : RR)
  | sfmul (sl : CS) (o : RR)
  | sffma (sl : CS) (o : RR)
  | sfmin (sl : CS) (o : RR)
  | sfmax (sl : CS) (o : RR)
  | sfcmp (sl : CS) (o : RR)
  | sfcvt (sl : CS) (o : RR)
  | ldB (o : LS)
  | ldBu (o : LS)
  | ldH (o : LS)
  | ldHu (o : LS)
  | ldW (o : LS)
  | ldWu (o : LS)
  | ldD (o : LS)
  | stB (o : LS)
  | stH (o : LS)
  | stW (o : LS)
  | stD (o : LS)
  | ataddW (o : AT)
  | ataddD (o : AT)
  | atminW (o : AT)
  | atminD (o : AT)
  | atmaxW (o : AT)
  | atmaxD (o : AT)
  | atandW (o : AT)
  | atandD (o : AT)
  | atorW (o : AT)
  | atorD (o : AT)
  | atxorW (o : AT)
  | atxorD (o : AT)
  | atswpW (o : AT)
  | atswpD (o : AT)
  | atcasW (o : AT)
  | atcasD (o : AT)
  | vldt (o : VT)
  | vstt (o : VT)
  | vldts (o : VT)
  | vgtht (o : VT)
  | vins (o : VT)
  | vext (o : VT)
  | vadd (sl : VW) (o : VE)
  | vsub (sl : VW) (o : VE)
  | vmul (sl : VW) (o : VE)
  | vfma (sl : VW) (o : VE)
  | vfms (sl : VW) (o : VE)
  | vmin (sl : VW) (o : VE)
  | vmax (sl : VW) (o : VE)
  | vabs (sl : VW) (o : VE)
  | vneg (sl : VW) (o : VE)
  | vand (sl : VW) (o : VE)
  | vor (sl : VW) (o : VE)
  | vxor (sl : VW) (o : VE)
  | vnot (sl : VW) (o : VE)
  | vshl (sl : VW) (o : VE)
  | vshr (sl : VW) (o : VE)
  | vsar (sl : VW) (o : VE)
  | vcmp (sl : VW) (o : VE)
  | vsel (sl : VW) (o : VE)
  | vcvt (sl : VW) (o : VE)
  | vmov (sl : VW) (o : VE)
  | vsplat (sl : VW) (o : VE)
  | vsplati (sl : VW) (o : VE)
  | viota (sl : VW) (o : VE)
  | vreds (sl : VW) (o : VE)
  | vredm (sl : VW) (o : VE)
  | vscan (sl : VW) (o : VE)
  | vclmp (sl : VW) (o : VE)
  | vrcp (o : VE)
  | vrsq (o : VE)
  | vsqrt (o : VE)
  | vexp2 (o : VE)
  | vlog2 (o : VE)
  | vtanh (o : VE)
  | xperm (o : XB)
  | xpermScat (o : XB)
  | xrot (o : XB)
  | xzip (o : XB)
  | xunzip (o : XB)
  | xbcst (o : XB)
  | xcmpr (o : XB)
  | xexpd (o : XB)
  | talloc (o : TA)
  | tfree (o : TX)
  | tpark (o : TX)
  | twake (o : TX)
  | tload (o : TM)
  | tstore (o : TM)
  | tfill (o : TX)
  | tcopy (o : TX)
  | ttrans (o : TX)
  | tcvt (o : TX)
  | tplane (o : TX)
  | tscale (o : TX)
  | tscaleBs (o : TX)
  | tscaleNobs (o : TX)
  | tsqld (o : TX)
  | mma (o : MM)
  | aclr (o : TQ)
  | asetq (o : TQ)
  | acvt (o : TX)
  | aaddt (o : TX)
  | achk (o : TX)
  | afix (o : TX)
  | tckpt (o : TM)
  | fwait (o : YF)
  | fpost (o : YF)
  | fpostr (o : YF)
  | fset (o : YF)
  | frd (o : YF)
  | bar (o : YF)
  | fence (o : YF)
  | tmwait (o : YF)
  | tmwaitRel (o : YF)
  | issueChoice (c : CoreId)
  | trapDelivery (x : CtxId)
  | watchdog (x : CtxId)
  | suspendRecordWrite (x : CtxId)
  | strandDone (x : CtxId)
  | gangAdmission (d : Fin 4)
  | continuationTakeUp (x : CtxId)
  | entryStart (x : CtxId) (n : Nat)
  | tileEntryComplete (x : CtxId) (n : Nat)
  | mmaComplete (x : CtxId) (n : Nat)
  | holdRelease (x : CtxId) (n : Nat)
  | copyStep (c : CoreId)
  | energyRefill
  | bandwidthRefill (d : Fin 4)
  | deadlineMiss (x : CtxId) (n : Nat)
  | fwaitSatisfied (x : CtxId)
  | fwaitPoll (x : CtxId)
  | tmwaitExpiry (x : CtxId)
  | fenceComplete (x : CtxId)
  | pageWalk (c : CoreId) (dom : BitVec 12) (va : BitVec 48) (acc : Access)
  | migrationCopyComplete (n : Nat)
  | mirrorCopyComplete (d : Fin 4)
  | scrub (d : Fin 4) (line : BitVec 29)
  | bankIdleOff (x : CtxId) (b : Fin 8)
  | bankRetention (x : CtxId) (b : Fin 8)
  | bankKillOff (x : CtxId) (b : Fin 8)
  | bankWakeDone (x : CtxId) (b : Fin 8)
  | spadClearDone (c : CoreId) (b : Fin 32)
  | spadWakeDone (c : CoreId) (b : Fin 32)
  | bankFailed (c : CoreId) (b : Fin 34)
  | suspensionRequest (x : CtxId)
  | loopDrain (x : CtxId)
  | immediatePreemption (x : CtxId)
  | preemptEscalation (x : CtxId)
  | contextSaveComplete (x : CtxId)
  | restore (x : CtxId)
  | opSettleDone (c : CoreId)
  | thermalThrottleStep (d : Fin 4) (h : Heat)
  | slackReport (d : Fin 4) (r : SlackOp)
  | msgRead (f : FlowId)
  | msgWrite (f : FlowId)
  | msgAtomic (f : FlowId)
  | msgFlagPost (f : FlowId)
  | msgForwardedAccess (f : FlowId)
  | msgMovedMarker (f : FlowId)
  | msgRangeSteal (f : FlowId)
  | msgReadData (f : FlowId)
  | msgWriteDone (f : FlowId)
  | msgAtomicResult (f : FlowId)
  | msgLostOrError (f : FlowId)
  | msgMirrorWrite (f : FlowId)
  | msgCheckpointEpoch (f : FlowId)
  | msgHeartbeat (f : FlowId)
  | msgConfiguration (f : FlowId)
  | msgServiceLevel (f : FlowId)
  | msgTimebase (f : FlowId)
  | ackTimeout (f : FlowId)
  | replayTimeout (f : FlowId)
  | timebaseExchange (d : Fin 4)
  | heartbeatSend (d : Fin 4)
  | heartbeatLoss (d i : Fin 4)
  | railFault (d : Fin 4) (reports : Bool)
  | clockFault (d : Fin 4) (reports : Bool)
  | lockstepMismatch (d : Fin 4) (reports : Bool)
  | junctionOvertemp (d : Fin 4)
  | restoreAndRelaunch
  | reunion (d : Fin 4)
  | rebuild (d : Fin 4)
  | selfTestStart
  | selfTestEnd (d : Fin 4) (pass : Bool)
  | selfTestTimeout (d : Fin 4)
  | frameCheckpoint (ts : Nat)
  | earlyCheckpoint (ts : Nat)
  | coldStart (b : BootInput)
  | warmReset (d : Fin 4) (b : BootInput)
  | bootTimeout
  | startComplete (parts : List PartEntry)
  | linkTraining (d : Fin 4)
  | sqbaseWrite (vf : Fin 1024) (v : BitVec 64)
  | sqcfgWrite (vf : Fin 1024) (v : BitVec 64)
  | sqtailWrite (vf : Fin 1024) (v : BitVec 64)
  | sqstatWrite (vf : Fin 1024) (v : BitVec 64)
  | submissionService (vf : Fin 1024) (q : BitVec 512)
  | releaseWrite (v : BitVec 64) (size : Nat)
  | errcntWrite (d : Fin 4) (k : Fin 18) (v : BitVec 32) (size : Nat)
  | registerWrite (fn : HostFn) (off : BitVec 16) (v : BitVec 64)
  | unsupportedRequest (tag : Nat)
  | hostCompletion (tag : Nat) (err : Bool) (data : BitVec 512)
  | softError (e : SoftErr)
  | relaunchRetry
  | selfTestReinitialisationDone (d : Fin 4)
  | taskSetRegistration (ts : TaskSetReg)
  | failedLane (d : Fin 4)
  deriving DecidableEq, Repr

end Sys2Proof
end

