-- ==== Sys2Proof/WellFormed.lean ====
section
/-! DEFINITION. Which instructions an encoding can hold: the opcode admitted in its slot (R48, R52, R116, R155) and every
field that the instruction does not use, and every reserved code, zero or absent (R51, R52). -/

namespace Sys2Proof

/-- The type code of a VE instruction is i8, i16, i32 or i64 (R52). -/
def VE.isInt (o : VE) : Bool := o.ty.ult 4

/-- The type code of a VE instruction is bf16, fp16 or fp32 (R159). -/
def VE.isFp (o : VE) : Bool := o.ty == 5 || o.ty == 6 || o.ty == 7

/-- The type code of a VE instruction is t8. -/
def VE.isT8 (o : VE) : Bool := o.ty == 4

/-- SAT on integers only, ext[3] only with SAT, ext[2:0] reserved (R157, R159). VSHL and VREDS count among the arithmetic instructions of R157
(DESIGN CHOICE, log entry 82). -/
def veArith (o : VE) : Bool :=
  (o.sat == 0 || o.isInt) && (o.ext == 0 || (o.ext == 8 && o.sat == 1))

/-- VMIN and VMAX: ext[3] on integers only (R159). -/
def veMinMax (o : VE) : Bool := o.sat == 0 && (o.ext == 0 || (o.ext == 8 && o.isInt))

/-- VCMP: vd[4] reserved and the conditions of R164 with their types. -/
def veCmp (o : VE) : Bool :=
  o.sat == 0 && o.vd.ult 16 &&
    (o.ext.ult 6 || (o.ext.ult 10 && o.isInt) || (o.ext == 10 && !o.isInt))

/-- VCVT: target in ext[2:0], U where an integer side reads it, SAT for int to int only (R159, R166). An int source with a t8 target takes U as well
(DESIGN CHOICE, log entry 80). -/
def veCvt (o : VE) : Bool :=
  let toInt : Bool := o.ext.extractLsb 2 0 |>.ult 4
  o.vb == 0 && o.lb == 0 && (o.sat == 0 || (o.isInt && toInt)) && (o.ext.ult 8 || o.isInt || toInt)

/-- VREDM: operators 0 min, 1 max, 2 mul; SAT for mul on integers; ext[3] as the operator reads it (R159, R168), for mul only with
SAT (DESIGN CHOICE, log entry 82). -/
def veRedm (o : VE) : Bool :=
  let op := o.ext.extractLsb 1 0
  let u := o.ext.extractLsb 3 3
  op != 3 && o.ext.extractLsb 2 2 == 0 && (o.sat == 0 || (o.isInt && op == 2)) &&
    (u == 0 || (o.isInt && (op != 2 || o.sat == 1)))

/-- VSCAN: operators 0 add, 1 min, 2 max, 3 mul; SAT for add and mul on integers, U with them only where SAT is 1
(R159, R168; DESIGN CHOICE, log entry 82). -/
def veScan (o : VE) : Bool :=
  let op := o.ext.extractLsb 1 0
  let u := o.ext.extractLsb 3 3
  let arith : Bool := op == 0 || op == 3
  o.ext.extractLsb 2 2 == 0 && (o.sat == 0 || (o.isInt && arith)) &&
    (u == 0 || (o.isInt && (!arith || o.sat == 1)))

/-- VCLMP: ext[0] POS, ext[3] U on integers only (R159). -/
def veClmp (o : VE) : Bool :=
  o.sat == 0 && o.ext.extractLsb 2 1 == 0 && (o.ext.ult 8 || o.isInt)

/-- The CSR numbers of R117. -/
def csrDefined (n : BitVec 12) : Bool :=
  n.ult 0x008 || (!n.ult 0x010 && n.ult 0x015) || (!n.ult 0x020 && n.ult 0x025) || n == 0x030 ||
    n == 0x040 || n == 0x041 || n == 0x050 || n == 0x051 || n == 0x052

/-- The CSRs of R117 with a field that is not RO; a write to any other CSR is an illegal opcode (R116). -/
def csrWritable (n : BitVec 12) : Bool :=
  n.ult 0x008 || n == 0x010 || n == 0x011 || n == 0x013 || n == 0x014 || n == 0x050 || n == 0x051

/-- The opcode is defined in its slot for these operands (R48, R52, R116, R155). -/
def Instr.legal : Instr → Bool
  | .csrr o => csrDefined o.csr
  | .csrw o => csrWritable o.csr
  | .csrsb o => csrWritable o.csr
  | .csrcb o => csrWritable o.csr
  | .vshl _ o => o.isInt
  | .vshr _ o => o.isInt
  | .vsar _ o => o.isInt
  | .viota _ o => o.isInt
  | .vrcp o => o.isFp && o.width != 2
  | .vrsq o => o.isFp && o.width != 2
  | .vsqrt o => o.isFp && o.width != 2
  | .vexp2 o => o.isFp && o.width != 2
  | .vlog2 o => o.isFp && o.width != 2
  | .vtanh o => o.isFp && o.width != 2
  | _ => true

/-- Every field the instruction does not use is zero and every code is one the spec defines (R51, R52). -/
def Instr.fieldsOk : Instr → Bool
  | .brc o => o.cond.ult 6
  | .rclaim o => o.sa == 0
  | .csrr o => o.sa == 0
  | .dnew o => o.sb == 0 && o.sc == 0 && o.fn == 0
  | .dgrantRange o => o.sc == 0 && o.fn == 0
  | .dgrantCore o => o.fn == 1
  | .dgrantVf o => o.sc == 0 && o.fn == 2
  | .dgrantBud o => o.fn == 3
  | .drevokeRange o => o.sc == 0 && o.fn == 0
  | .drevokeCore o => o.fn == 1
  | .drevokeVf o => o.sc == 0 && o.fn == 2
  | .dkill o => o.sb == 0 && o.sc == 0 && o.fn == 0
  | .dpolicyTrap o => o.fn == 0
  | .dpolicyFlags o => o.sc == 0 && o.fn == 1
  | .dpolicyEvq o => o.fn == 2
  | .dpolicyDlog o => o.fn == 3
  | .dpolicyScope o => o.fn == 4
  | .dpolicyTbofs o => o.sc == 0 && o.fn == 5
  | .dpolicySpill o => o.fn == 6
  | .dquery o => o.sc == 0 && o.fn == 0
  | .tlbinvAll o => o.sa == 0 && o.sb == 0 && o.sc == 0 && o.fn == 0
  | .tlbinvVa o => o.sc == 0 && o.fn == 1
  | .tlbinvDom o => o.sb == 0 && o.sc == 0 && o.fn == 2
  | .rtload o => o.sc == 0 && o.fn == 0
  | .rtloadClr o => o.sa == 0 && o.fn == 1
  | .evpostOwn o => o.sa == 0 && o.fn == 0
  | .evpostPar o => o.sa == 0 && o.fn == 1
  | .evpostChild o => o.fn == 2
  | .pgstateBegin o => o.sb == 0 && o.sc == 0 && o.fn == 0
  | .pgstateEnd o => o.sc == 0 && o.fn == 1
  | .pand o => o.s == 0 && o.es == 0
  | .por o => o.s == 0 && o.es == 0
  | .pxor o => o.s == 0 && o.es == 0
  | .pnot o => o.pb == 0 && o.s == 0 && o.es == 0
  | .psetn o => o.pa == 0 && o.pb == 0
  | .pcnt o => o.pd == 0
  | .pfirst o => o.pd == 0
  | .add _ o => o.sc == 0 && o.fn == 0 && o.p == 0
  | .sub _ o => o.sc == 0 && o.fn == 0 && o.p == 0
  | .mul _ o => o.sc == 0 && o.fn == 0 && o.p == 0
  | .mulh _ o => o.sc == 0 && o.fn == 0 && o.p == 0
  | .mulhu _ o => o.sc == 0 && o.fn == 0 && o.p == 0
  | .div _ o => o.sc == 0 && o.fn == 0 && o.p == 0
  | .divu _ o => o.sc == 0 && o.fn == 0 && o.p == 0
  | .rem _ o => o.sc == 0 && o.fn == 0 && o.p == 0
  | .remu _ o => o.sc == 0 && o.fn == 0 && o.p == 0
  | .and _ o => o.sc == 0 && o.fn == 0 && o.p == 0
  | .or _ o => o.sc == 0 && o.fn == 0 && o.p == 0
  | .xor _ o => o.sc == 0 && o.fn == 0 && o.p == 0
  | .shl _ o => o.sc == 0 && o.fn == 0 && o.p == 0
  | .shli _ o => o.imm.extractLsb 21 6 == 0
  | .shr _ o => o.sc == 0 && o.fn == 0 && o.p == 0
  | .shri _ o => o.imm.extractLsb 21 6 == 0
  | .sar _ o => o.sc == 0 && o.fn == 0 && o.p == 0
  | .sari _ o => o.imm.extractLsb 21 6 == 0
  | .ror _ o => o.sc == 0 && o.fn == 0 && o.p == 0
  | .min _ o => o.sc == 0 && o.fn == 0 && o.p == 0
  | .minu _ o => o.sc == 0 && o.fn == 0 && o.p == 0
  | .max _ o => o.sc == 0 && o.fn == 0 && o.p == 0
  | .maxu _ o => o.sc == 0 && o.fn == 0 && o.p == 0
  | .clz _ o => o.sb == 0 && o.sc == 0 && o.fn == 0 && o.p == 0
  | .ctz _ o => o.sb == 0 && o.sc == 0 && o.fn == 0 && o.p == 0
  | .popc _ o => o.sb == 0 && o.sc == 0 && o.fn == 0 && o.p == 0
  | .slt _ o => o.sc == 0 && o.fn == 0 && o.p == 0
  | .sltu _ o => o.sc == 0 && o.fn == 0 && o.p == 0
  | .sel _ o => o.fn == 0 && o.p == 0
  | .sext _ o => o.imm.extractLsb 21 6 == 0
  | .sfadd _ o => o.sc == 0 && o.fn == 0
  | .sfsub _ o => o.sc == 0 && o.fn == 0
  | .sfmul _ o => o.sc == 0 && o.fn == 0
  | .sffma _ o => o.fn == 0
  | .sfmin _ o => o.sc == 0 && o.fn == 0
  | .sfmax _ o => o.sc == 0 && o.fn == 0
  | .sfcmp _ o => o.sc == 0 && o.fn.ult 5
  | .sfcvt _ o => o.sb == 0 && o.sc == 0 && o.fn.ult 5
  | .ldB o => o.order.ult 2
  | .ldBu o => o.order.ult 2
  | .ldH o => o.order.ult 2
  | .ldHu o => o.order.ult 2
  | .ldW o => o.order.ult 2
  | .ldWu o => o.order.ult 2
  | .ldD o => o.order.ult 2
  | .stB o => (o.order == 0 || o.order == 2)
  | .stH o => (o.order == 0 || o.order == 2)
  | .stW o => (o.order == 0 || o.order == 2)
  | .stD o => (o.order == 0 || o.order == 2)
  | .ataddW o => o.sc == 0 && o.scope.ult 4
  | .ataddD o => o.sc == 0 && o.scope.ult 4
  | .atminW o => o.sc == 0 && o.scope.ult 4
  | .atminD o => o.sc == 0 && o.scope.ult 4
  | .atmaxW o => o.sc == 0 && o.scope.ult 4
  | .atmaxD o => o.sc == 0 && o.scope.ult 4
  | .atandW o => o.sc == 0 && o.scope.ult 4
  | .atandD o => o.sc == 0 && o.scope.ult 4
  | .atorW o => o.sc == 0 && o.scope.ult 4
  | .atorD o => o.sc == 0 && o.scope.ult 4
  | .atxorW o => o.sc == 0 && o.scope.ult 4
  | .atxorD o => o.sc == 0 && o.scope.ult 4
  | .atswpW o => o.sc == 0 && o.scope.ult 4
  | .atswpD o => o.sc == 0 && o.scope.ult 4
  | .atcasW o => o.scope.ult 4
  | .atcasD o => o.scope.ult 4
  | .vldt o => o.es == 0 && o.lv == 0
  | .vstt o => o.es == 0
  | .vldts o => o.lv == 0
  | .vgtht o => o.lv == 0
  | .vins o => o.h == 0 && o.lv == 0
  | .vext o => o.h == 0
  | .vadd _ o => o.width != 3 && veArith o
  | .vsub _ o => o.width != 3 && veArith o
  | .vmul _ o => o.width != 3 && veArith o
  | .vfma _ o => o.width != 3 && veArith o
  | .vfms _ o => o.width != 3 && veArith o
  | .vmin _ o => o.width != 3 && veMinMax o
  | .vmax _ o => o.width != 3 && veMinMax o
  | .vabs _ o => o.width != 3 && o.vb == 0 && o.lb == 0 && o.ext == 0 && (o.sat == 0 || o.isInt)
  | .vneg _ o => o.width != 3 && o.vb == 0 && o.lb == 0 && o.ext == 0 && (o.sat == 0 || o.isInt)
  | .vand _ o => o.width != 3 && o.sat == 0 && o.ext == 0
  | .vor _ o => o.width != 3 && o.sat == 0 && o.ext == 0
  | .vxor _ o => o.width != 3 && o.sat == 0 && o.ext == 0
  | .vnot _ o => o.width != 3 && o.vb == 0 && o.lb == 0 && o.sat == 0 && o.ext == 0
  | .vshl _ o => o.width != 3 && veArith o
  | .vshr _ o => o.width != 3 && o.sat == 0 && o.ext == 0
  | .vsar _ o => o.width != 3 && o.sat == 0 && o.ext == 0
  | .vcmp _ o => o.width != 3 && veCmp o
  | .vsel _ o => o.width != 3 && o.z == 0 && o.sat == 0 && o.ext == 0
  | .vcvt _ o => o.width != 3 && veCvt o
  | .vmov _ o => o.width != 3 && o.vb == 0 && o.lb == 0 && o.sat == 0 && o.ext == 0
  | .vsplat _ o => o.width != 3 && o.vb == 0 && o.la == 0 && o.lb == 0 && o.sat == 0 && o.ext == 0
  | .vsplati _ o => o.width != 3 && o.la == 0 && o.lb == 0 && o.sat == 0 && o.ext == 0
  | .viota _ o => o.width != 3 && o.la == 0 && o.lb == 0 && o.sat == 0 && o.ext == 0
  | .vreds _ o => o.width != 3 && o.vb == 0 && o.lb == 0 && o.z == 0 && veArith o
  | .vredm _ o => o.width != 3 && o.vb == 0 && o.lb == 0 && o.z == 0 && veRedm o
  | .vscan _ o => o.width != 3 && o.vb == 0 && o.lb == 0 && o.z == 0 && veScan o
  | .vclmp _ o => o.width != 3 && veClmp o
  | .vrcp o => o.width != 3 && o.vb == 0 && o.lb == 0 && o.sat == 0 && o.ext == 0
  | .vrsq o => o.width != 3 && o.vb == 0 && o.lb == 0 && o.sat == 0 && o.ext == 0
  | .vsqrt o => o.width != 3 && o.vb == 0 && o.lb == 0 && o.sat == 0 && o.ext == 0
  | .vexp2 o => o.width != 3 && o.vb == 0 && o.lb == 0 && o.sat == 0 && o.ext == 0
  | .vlog2 o => o.width != 3 && o.vb == 0 && o.lb == 0 && o.sat == 0 && o.ext == 0
  | .vtanh o => o.width != 3 && o.vb == 0 && o.lb == 0 && o.sat == 0 && o.ext == 0
  | .xperm o => o.imm == 0
  | .xpermScat o => o.imm == 1
  | .xzip o => o.imm.extractLsb 10 1 == 0
  | .xunzip o => o.imm.extractLsb 10 1 == 0
  | .xcmpr o => o.xi == 0 && o.imm == 0
  | .xexpd o => o.xi == 0 && o.imm == 0
  | .talloc o => o.lvl != 3 && o.fmt.ult 10
  | .tfree o => o.ha == 0 && o.x == 0 && o.la == 0 && o.lx == 0 && o.fe == 0 && o.flag == 0 && o.fn == 0
  | .tpark o => o.ha == 0 && o.x == 0 && o.la == 0 && o.lx == 0 && o.fe == 0 && o.flag == 0 && o.fn == 0
  | .twake o => o.ha == 0 && o.x == 0 && o.la == 0 && o.lx == 0 && o.fe == 0 && o.flag == 0 && o.fn == 0
  | .tfill o => o.ha == 0 && o.la == 0 && o.lx == 0 && o.fn == 0
  | .tcopy o => o.x == 0 && o.lx == 0 && o.fn == 0
  | .ttrans o => o.x == 0 && o.lx == 0 && o.fn == 0
  | .tcvt o => o.x == 0 && o.lx == 0 && o.fn.extractLsb 4 0 == 0 && (o.fn.extractLsb 8 5).ult 10
  | .tplane o => o.x == 0 && o.lx == 0 && o.fn == 0
  | .tscale o => o.lx == 0 && o.fn.extractLsb 8 7 == 0
  | .tscaleBs o => o.ha == 0 && o.x == 0 && o.la == 0 && o.lx == 0 && o.fe == 0 && o.flag == 0 && o.fn == 0x80
  | .tscaleNobs o => o.ha == 0 && o.x == 0 && o.la == 0 && o.lx == 0 && o.fe == 0 && o.flag == 0 && o.fn == 0x100
  | .tsqld o => o.hd == 0 && o.lx == 0
  | .acvt o => o.x == 0 && o.lx == 0 && o.fn.extractLsb 4 0 == 0 && (o.fn.extractLsb 8 5).ult 10
  | .aaddt o => o.x == 0 && o.lx == 0 && o.fn == 0
  | .achk o => o.x == 0 && o.lx == 0 && o.fn == 0
  | .afix o => o.x == 0 && o.lx == 0 && o.fn == 0 && o.la == 0
  | .fwait o => o.sd == 0 && o.core.ult 48
  | .fpost o => o.sd == 0 && o.core.ult 48
  | .fpostr o => o.sd == 0 && o.core.ult 48
  | .fset o => o.sd == 0 && o.core.ult 48
  | .frd o => o.sa == 0 && o.imm == 0 && o.core.ult 48
  | .bar o => o.f.ult 4 && o.sd == 0 && o.sa == 0 && o.rt == 0 && o.die == 0 && o.core == 0 && o.imm == 0
  | .fence o => o.f.ult 4 && o.sd == 0 && o.sa == 0 && o.rt == 0 && o.die == 0 && o.core == 0 && o.imm == 0
  | .tmwait o => o.sd == 0 && o.f == 0 && o.die == 0 && o.core == 0 && o.rt == 0
  | .tmwaitRel o => o.sd == 0 && o.f == 0 && o.die == 0 && o.core == 0 && o.rt == 1
  | _ => true

/-- An instruction that a slot can hold. -/
def Instr.wf (i : Instr) : Bool := i.legal && i.fieldsOk

end Sys2Proof
end

