-- ==== Sys2Proof/Decode.lean ====
section
/-! DEFINITION. Decoding and encoding of slots and bundles (spec/03_bundles_and_encoding.md R45 to R57). The decoder reads
any 320 bits and rejects by name; the encoder is written from the same tables. -/

namespace Sys2Proof

/-! ### Formats (R51): the operand bits [31:0] of a slot and the fields they hold -/

def RR.ofBits (b : BitVec 32) : RR := ⟨b.extractLsb' 27 5, b.extractLsb' 22 5, b.extractLsb' 17 5, b.extractLsb' 12 5, b.extractLsb' 8 4, b.extractLsb' 0 1⟩

def RR.bits (o : RR) : BitVec 32 := ((o.sd.setWidth 32) <<< 27) ||| ((o.sa.setWidth 32) <<< 22) ||| ((o.sb.setWidth 32) <<< 17) ||| ((o.sc.setWidth 32) <<< 12) ||| ((o.fn.setWidth 32) <<< 8) ||| (o.p.setWidth 32)

def RI.ofBits (b : BitVec 32) : RI := ⟨b.extractLsb' 27 5, b.extractLsb' 22 5, b.extractLsb' 0 22⟩

def RI.bits (o : RI) : BitVec 32 := ((o.sd.setWidth 32) <<< 27) ||| ((o.sa.setWidth 32) <<< 22) ||| (o.imm.setWidth 32)

def MI.ofBits (b : BitVec 32) : MI := ⟨b.extractLsb' 27 5, b.extractLsb' 0 27⟩

def MI.bits (o : MI) : BitVec 32 := ((o.sd.setWidth 32) <<< 27) ||| (o.imm.setWidth 32)

def MK.ofBits (b : BitVec 32) : MK := ⟨b.extractLsb' 27 5, b.extractLsb' 25 2, b.extractLsb' 9 16⟩

def MK.bits (o : MK) : BitVec 32 := ((o.sd.setWidth 32) <<< 27) ||| ((o.pos.setWidth 32) <<< 25) ||| ((o.imm.setWidth 32) <<< 9)

def JO.ofBits (b : BitVec 32) : JO := ⟨b.extractLsb' 0 27⟩

def JO.bits (o : JO) : BitVec 32 := (o.off.setWidth 32)

def BC.ofBits (b : BitVec 32) : BC := ⟨b.extractLsb' 27 5, b.extractLsb' 22 5, b.extractLsb' 19 3, b.extractLsb' 0 19⟩

def BC.bits (o : BC) : BitVec 32 := ((o.sa.setWidth 32) <<< 27) ||| ((o.sb.setWidth 32) <<< 22) ||| ((o.cond.setWidth 32) <<< 19) ||| (o.off.setWidth 32)

def JR.ofBits (b : BitVec 32) : JR := ⟨b.extractLsb' 22 5, b.extractLsb' 0 22⟩

def JR.bits (o : JR) : BitVec 32 := ((o.sa.setWidth 32) <<< 22) ||| (o.off.setWidth 32)

def LI.ofBits (b : BitVec 32) : LI := ⟨b.extractLsb' 22 5, b.extractLsb' 18 4⟩

def LI.bits (o : LI) : BitVec 32 := ((o.sa.setWidth 32) <<< 22) ||| ((o.esc.setWidth 32) <<< 18)

def SR.ofBits (b : BitVec 32) : SR := ⟨b.extractLsb' 27 5, b.extractLsb' 22 5⟩

def SR.bits (o : SR) : BitVec 32 := ((o.sd.setWidth 32) <<< 27) ||| ((o.sa.setWidth 32) <<< 22)

def TC.ofBits (b : BitVec 32) : TC := ⟨b.extractLsb' 0 16⟩

def TC.bits (o : TC) : BitVec 32 := (o.code.setWidth 32)

def CR.ofBits (b : BitVec 32) : CR := ⟨b.extractLsb' 27 5, b.extractLsb' 22 5, b.extractLsb' 10 12⟩

def CR.bits (o : CR) : BitVec 32 := ((o.sd.setWidth 32) <<< 27) ||| ((o.sa.setWidth 32) <<< 22) ||| ((o.csr.setWidth 32) <<< 10)

def SY.ofBits (b : BitVec 32) : SY := ⟨b.extractLsb' 27 5, b.extractLsb' 22 5, b.extractLsb' 17 5, b.extractLsb' 12 5, b.extractLsb' 8 4⟩

def SY.bits (o : SY) : BitVec 32 := ((o.sd.setWidth 32) <<< 27) ||| ((o.sa.setWidth 32) <<< 22) ||| ((o.sb.setWidth 32) <<< 17) ||| ((o.sc.setWidth 32) <<< 12) ||| ((o.fn.setWidth 32) <<< 8)

def PR.ofBits (b : BitVec 32) : PR := ⟨b.extractLsb' 28 4, b.extractLsb' 24 4, b.extractLsb' 20 4, b.extractLsb' 15 5, b.extractLsb' 13 2⟩

def PR.bits (o : PR) : BitVec 32 := ((o.pd.setWidth 32) <<< 28) ||| ((o.pa.setWidth 32) <<< 24) ||| ((o.pb.setWidth 32) <<< 20) ||| ((o.s.setWidth 32) <<< 15) ||| ((o.es.setWidth 32) <<< 13)

def LS.ofBits (b : BitVec 32) : LS := ⟨b.extractLsb' 27 5, b.extractLsb' 22 5, b.extractLsb' 2 20, b.extractLsb' 0 2⟩

def LS.bits (o : LS) : BitVec 32 := ((o.reg.setWidth 32) <<< 27) ||| ((o.base.setWidth 32) <<< 22) ||| ((o.imm.setWidth 32) <<< 2) ||| (o.order.setWidth 32)

def AT.ofBits (b : BitVec 32) : AT := ⟨b.extractLsb' 27 5, b.extractLsb' 22 5, b.extractLsb' 17 5, b.extractLsb' 12 5, b.extractLsb' 9 3, b.extractLsb' 7 2⟩

def AT.bits (o : AT) : BitVec 32 := ((o.sd.setWidth 32) <<< 27) ||| ((o.sa.setWidth 32) <<< 22) ||| ((o.sb.setWidth 32) <<< 17) ||| ((o.sc.setWidth 32) <<< 12) ||| ((o.scope.setWidth 32) <<< 9) ||| ((o.order.setWidth 32) <<< 7)

def VT.ofBits (b : BitVec 32) : VT := ⟨b.extractLsb' 27 5, b.extractLsb' 22 5, b.extractLsb' 17 5, b.extractLsb' 12 5, b.extractLsb' 10 2, b.extractLsb' 3 7, b.extractLsb' 2 1⟩

def VT.bits (o : VT) : BitVec 32 := ((o.v.setWidth 32) <<< 27) ||| ((o.h.setWidth 32) <<< 22) ||| ((o.a.setWidth 32) <<< 17) ||| ((o.b.setWidth 32) <<< 12) ||| ((o.es.setWidth 32) <<< 10) ||| ((o.idx.setWidth 32) <<< 3) ||| ((o.lv.setWidth 32) <<< 2)

def VE.ofBits (b : BitVec 32) : VE := ⟨b.extractLsb' 29 3, b.extractLsb' 27 2, b.extractLsb' 22 5, b.extractLsb' 17 5, b.extractLsb' 12 5, b.extractLsb' 8 4, b.extractLsb' 7 1, b.extractLsb' 6 1, b.extractLsb' 5 1, b.extractLsb' 4 1, b.extractLsb' 0 4⟩

def VE.bits (o : VE) : BitVec 32 := ((o.ty.setWidth 32) <<< 29) ||| ((o.width.setWidth 32) <<< 27) ||| ((o.vd.setWidth 32) <<< 22) ||| ((o.va.setWidth 32) <<< 17) ||| ((o.vb.setWidth 32) <<< 12) ||| ((o.pg.setWidth 32) <<< 8) ||| ((o.z.setWidth 32) <<< 7) ||| ((o.la.setWidth 32) <<< 6) ||| ((o.lb.setWidth 32) <<< 5) ||| ((o.sat.setWidth 32) <<< 4) ||| (o.ext.setWidth 32)

def XB.ofBits (b : BitVec 32) : XB := ⟨b.extractLsb' 30 2, b.extractLsb' 25 5, b.extractLsb' 20 5, b.extractLsb' 15 5, b.extractLsb' 11 4, b.extractLsb' 0 11⟩

def XB.bits (o : XB) : BitVec 32 := ((o.es.setWidth 32) <<< 30) ||| ((o.vd.setWidth 32) <<< 25) ||| ((o.va.setWidth 32) <<< 20) ||| ((o.xi.setWidth 32) <<< 15) ||| ((o.pg.setWidth 32) <<< 11) ||| (o.imm.setWidth 32)

def MM.ofBits (b : BitVec 32) : MM := ⟨b.extractLsb' 27 5, b.extractLsb' 22 5, b.extractLsb' 17 5, b.extractLsb' 16 1, b.extractLsb' 15 1, b.extractLsb' 14 1, b.extractLsb' 13 1, b.extractLsb' 10 3, b.extractLsb' 9 1, b.extractLsb' 4 5⟩

def MM.bits (o : MM) : BitVec 32 := ((o.tc.setWidth 32) <<< 27) ||| ((o.ta.setWidth 32) <<< 22) ||| ((o.tb.setWidth 32) <<< 17) ||| ((o.ck.setWidth 32) <<< 16) ||| ((o.la.setWidth 32) <<< 15) ||| ((o.lb.setWidth 32) <<< 14) ||| ((o.trb.setWidth 32) <<< 13) ||| ((o.ec.setWidth 32) <<< 10) ||| ((o.fe.setWidth 32) <<< 9) ||| ((o.flag.setWidth 32) <<< 4)

def TM.ofBits (b : BitVec 32) : TM := ⟨b.extractLsb' 27 5, b.extractLsb' 22 5, b.extractLsb' 17 5, b.extractLsb' 16 1, b.extractLsb' 11 5, b.extractLsb' 10 1, b.extractLsb' 0 10⟩

def TM.bits (o : TM) : BitVec 32 := ((o.h.setWidth 32) <<< 27) ||| ((o.rcd.setWidth 32) <<< 22) ||| ((o.base.setWidth 32) <<< 17) ||| ((o.lr.setWidth 32) <<< 16) ||| ((o.flag.setWidth 32) <<< 11) ||| ((o.fe.setWidth 32) <<< 10) ||| (o.dl.setWidth 32)

def TA.ofBits (b : BitVec 32) : TA := ⟨b.extractLsb' 27 5, b.extractLsb' 25 2, b.extractLsb' 21 4, b.extractLsb' 12 9, b.extractLsb' 3 9, b.extractLsb' 2 1⟩

def TA.bits (o : TA) : BitVec 32 := ((o.h.setWidth 32) <<< 27) ||| ((o.lvl.setWidth 32) <<< 25) ||| ((o.fmt.setWidth 32) <<< 21) ||| ((o.rows.setWidth 32) <<< 12) ||| ((o.cols.setWidth 32) <<< 3) ||| ((o.lay.setWidth 32) <<< 2)

def TX.ofBits (b : BitVec 32) : TX := ⟨b.extractLsb' 27 5, b.extractLsb' 22 5, b.extractLsb' 17 5, b.extractLsb' 16 1, b.extractLsb' 15 1, b.extractLsb' 14 1, b.extractLsb' 9 5, b.extractLsb' 0 9⟩

def TX.bits (o : TX) : BitVec 32 := ((o.hd.setWidth 32) <<< 27) ||| ((o.ha.setWidth 32) <<< 22) ||| ((o.x.setWidth 32) <<< 17) ||| ((o.la.setWidth 32) <<< 16) ||| ((o.lx.setWidth 32) <<< 15) ||| ((o.fe.setWidth 32) <<< 14) ||| ((o.flag.setWidth 32) <<< 9) ||| (o.fn.setWidth 32)

def TQ.ofBits (b : BitVec 32) : TQ := ⟨b.extractLsb' 27 5, b.extractLsb' 0 10⟩

def TQ.bits (o : TQ) : BitVec 32 := ((o.tc.setWidth 32) <<< 27) ||| (o.q.setWidth 32)

def YF.ofBits (b : BitVec 32) : YF := ⟨b.extractLsb' 27 5, b.extractLsb' 22 5, b.extractLsb' 17 5, b.extractLsb' 16 1, b.extractLsb' 14 2, b.extractLsb' 8 6, b.extractLsb' 0 8⟩

def YF.bits (o : YF) : BitVec 32 := ((o.sd.setWidth 32) <<< 27) ||| ((o.f.setWidth 32) <<< 22) ||| ((o.sa.setWidth 32) <<< 17) ||| ((o.rt.setWidth 32) <<< 16) ||| ((o.die.setWidth 32) <<< 14) ||| ((o.core.setWidth 32) <<< 8) ||| (o.imm.setWidth 32)

/-! ### Opcodes (R49) -/

/-- The slot that carries the instruction; none for an event of the part. -/
def Instr.slot : Instr → Option SlotId
  | .br _ => some .c
  | .brc _ => some .c
  | .jmp _ => some .c
  | .call _ => some .c
  | .callr _ => some .c
  | .ret => some .c
  | .loopi _ => some .c
  | .loop => some .c
  | .suspend => some .c
  | .spawn _ => some .c
  | .rclaim _ => some .c
  | .yield => some .c
  | .halt => some .c
  | .trap _ => some .c
  | .tret => some .c
  | .csrr _ => some .c
  | .csrw _ => some .c
  | .csrsb _ => some .c
  | .csrcb _ => some .c
  | .dnew _ => some .c
  | .dgrantRange _ => some .c
  | .dgrantCore _ => some .c
  | .dgrantVf _ => some .c
  | .dgrantBud _ => some .c
  | .drevokeRange _ => some .c
  | .drevokeCore _ => some .c
  | .drevokeVf _ => some .c
  | .dkill _ => some .c
  | .dpolicyTrap _ => some .c
  | .dpolicyFlags _ => some .c
  | .dpolicyEvq _ => some .c
  | .dpolicyDlog _ => some .c
  | .dpolicyScope _ => some .c
  | .dpolicyTbofs _ => some .c
  | .dpolicySpill _ => some .c
  | .dquery _ => some .c
  | .tlbinvAll _ => some .c
  | .tlbinvVa _ => some .c
  | .tlbinvDom _ => some .c
  | .rtload _ => some .c
  | .rtloadClr _ => some .c
  | .evpostOwn _ => some .c
  | .evpostPar _ => some .c
  | .evpostChild _ => some .c
  | .pgstateBegin _ => some .c
  | .pgstateEnd _ => some .c
  | .pand _ => some .c
  | .por _ => some .c
  | .pxor _ => some .c
  | .pnot _ => some .c
  | .psetn _ => some .c
  | .pcnt _ => some .c
  | .pfirst _ => some .c
  | .add sl _ => some sl.id
  | .addi sl _ => some sl.id
  | .sub sl _ => some sl.id
  | .mul sl _ => some sl.id
  | .mulh sl _ => some sl.id
  | .mulhu sl _ => some sl.id
  | .div sl _ => some sl.id
  | .divu sl _ => some sl.id
  | .rem sl _ => some sl.id
  | .remu sl _ => some sl.id
  | .and sl _ => some sl.id
  | .andi sl _ => some sl.id
  | .or sl _ => some sl.id
  | .ori sl _ => some sl.id
  | .xor sl _ => some sl.id
  | .xori sl _ => some sl.id
  | .shl sl _ => some sl.id
  | .shli sl _ => some sl.id
  | .shr sl _ => some sl.id
  | .shri sl _ => some sl.id
  | .sar sl _ => some sl.id
  | .sari sl _ => some sl.id
  | .ror sl _ => some sl.id
  | .min sl _ => some sl.id
  | .minu sl _ => some sl.id
  | .max sl _ => some sl.id
  | .maxu sl _ => some sl.id
  | .clz sl _ => some sl.id
  | .ctz sl _ => some sl.id
  | .popc sl _ => some sl.id
  | .slt sl _ => some sl.id
  | .sltu sl _ => some sl.id
  | .sel sl _ => some sl.id
  | .movi sl _ => some sl.id
  | .movk sl _ => some sl.id
  | .sext sl _ => some sl.id
  | .sfadd sl _ => some sl.id
  | .sfsub sl _ => some sl.id
  | .sfmul sl _ => some sl.id
  | .sffma sl _ => some sl.id
  | .sfmin sl _ => some sl.id
  | .sfmax sl _ => some sl.id
  | .sfcmp sl _ => some sl.id
  | .sfcvt sl _ => some sl.id
  | .ldB _ => some .s
  | .ldBu _ => some .s
  | .ldH _ => some .s
  | .ldHu _ => some .s
  | .ldW _ => some .s
  | .ldWu _ => some .s
  | .ldD _ => some .s
  | .stB _ => some .s
  | .stH _ => some .s
  | .stW _ => some .s
  | .stD _ => some .s
  | .ataddW _ => some .s
  | .ataddD _ => some .s
  | .atminW _ => some .s
  | .atminD _ => some .s
  | .atmaxW _ => some .s
  | .atmaxD _ => some .s
  | .atandW _ => some .s
  | .atandD _ => some .s
  | .atorW _ => some .s
  | .atorD _ => some .s
  | .atxorW _ => some .s
  | .atxorD _ => some .s
  | .atswpW _ => some .s
  | .atswpD _ => some .s
  | .atcasW _ => some .s
  | .atcasD _ => some .s
  | .vldt _ => some .s
  | .vstt _ => some .s
  | .vldts _ => some .s
  | .vgtht _ => some .s
  | .vins _ => some .s
  | .vext _ => some .s
  | .vadd sl _ => some sl.id
  | .vsub sl _ => some sl.id
  | .vmul sl _ => some sl.id
  | .vfma sl _ => some sl.id
  | .vfms sl _ => some sl.id
  | .vmin sl _ => some sl.id
  | .vmax sl _ => some sl.id
  | .vabs sl _ => some sl.id
  | .vneg sl _ => some sl.id
  | .vand sl _ => some sl.id
  | .vor sl _ => some sl.id
  | .vxor sl _ => some sl.id
  | .vnot sl _ => some sl.id
  | .vshl sl _ => some sl.id
  | .vshr sl _ => some sl.id
  | .vsar sl _ => some sl.id
  | .vcmp sl _ => some sl.id
  | .vsel sl _ => some sl.id
  | .vcvt sl _ => some sl.id
  | .vmov sl _ => some sl.id
  | .vsplat sl _ => some sl.id
  | .vsplati sl _ => some sl.id
  | .viota sl _ => some sl.id
  | .vreds sl _ => some sl.id
  | .vredm sl _ => some sl.id
  | .vscan sl _ => some sl.id
  | .vclmp sl _ => some sl.id
  | .vrcp _ => some .w
  | .vrsq _ => some .w
  | .vsqrt _ => some .w
  | .vexp2 _ => some .w
  | .vlog2 _ => some .w
  | .vtanh _ => some .w
  | .xperm _ => some .x
  | .xpermScat _ => some .x
  | .xrot _ => some .x
  | .xzip _ => some .x
  | .xunzip _ => some .x
  | .xbcst _ => some .x
  | .xcmpr _ => some .x
  | .xexpd _ => some .x
  | .talloc _ => some .t
  | .tfree _ => some .t
  | .tpark _ => some .t
  | .twake _ => some .t
  | .tload _ => some .t
  | .tstore _ => some .t
  | .tfill _ => some .t
  | .tcopy _ => some .t
  | .ttrans _ => some .t
  | .tcvt _ => some .t
  | .tplane _ => some .t
  | .tscale _ => some .t
  | .tscaleBs _ => some .t
  | .tscaleNobs _ => some .t
  | .tsqld _ => some .t
  | .mma _ => some .t
  | .aclr _ => some .t
  | .asetq _ => some .t
  | .acvt _ => some .t
  | .aaddt _ => some .t
  | .achk _ => some .t
  | .afix _ => some .t
  | .tckpt _ => some .t
  | .fwait _ => some .y
  | .fpost _ => some .y
  | .fpostr _ => some .y
  | .fset _ => some .y
  | .frd _ => some .y
  | .bar _ => some .y
  | .fence _ => some .y
  | .tmwait _ => some .y
  | .tmwaitRel _ => some .y
  | _ => none

/-- The opcode of R49. -/
def Instr.opcode : Instr → BitVec 8
  | .br _ => 0x01
  | .brc _ => 0x02
  | .jmp _ => 0x03
  | .call _ => 0x04
  | .callr _ => 0x05
  | .ret => 0x06
  | .loopi _ => 0x07
  | .loop => 0x08
  | .suspend => 0x09
  | .spawn _ => 0x0A
  | .rclaim _ => 0x0B
  | .yield => 0x0C
  | .halt => 0x0D
  | .trap _ => 0x0E
  | .tret => 0x0F
  | .csrr _ => 0x10
  | .csrw _ => 0x11
  | .csrsb _ => 0x12
  | .csrcb _ => 0x13
  | .dnew _ => 0x20
  | .dgrantRange _ => 0x21
  | .dgrantCore _ => 0x21
  | .dgrantVf _ => 0x21
  | .dgrantBud _ => 0x21
  | .drevokeRange _ => 0x22
  | .drevokeCore _ => 0x22
  | .drevokeVf _ => 0x22
  | .dkill _ => 0x23
  | .dpolicyTrap _ => 0x24
  | .dpolicyFlags _ => 0x24
  | .dpolicyEvq _ => 0x24
  | .dpolicyDlog _ => 0x24
  | .dpolicyScope _ => 0x24
  | .dpolicyTbofs _ => 0x24
  | .dpolicySpill _ => 0x24
  | .dquery _ => 0x25
  | .tlbinvAll _ => 0x26
  | .tlbinvVa _ => 0x26
  | .tlbinvDom _ => 0x26
  | .rtload _ => 0x27
  | .rtloadClr _ => 0x27
  | .evpostOwn _ => 0x28
  | .evpostPar _ => 0x28
  | .evpostChild _ => 0x28
  | .pgstateBegin _ => 0x29
  | .pgstateEnd _ => 0x29
  | .pand _ => 0x30
  | .por _ => 0x31
  | .pxor _ => 0x32
  | .pnot _ => 0x33
  | .psetn _ => 0x34
  | .pcnt _ => 0x35
  | .pfirst _ => 0x36
  | .add _ _ => 0x40
  | .addi _ _ => 0x41
  | .sub _ _ => 0x42
  | .mul _ _ => 0x43
  | .mulh _ _ => 0x44
  | .mulhu _ _ => 0x45
  | .div _ _ => 0x46
  | .divu _ _ => 0x47
  | .rem _ _ => 0x48
  | .remu _ _ => 0x49
  | .and _ _ => 0x4A
  | .andi _ _ => 0x4B
  | .or _ _ => 0x4C
  | .ori _ _ => 0x4D
  | .xor _ _ => 0x4E
  | .xori _ _ => 0x4F
  | .shl _ _ => 0x50
  | .shli _ _ => 0x51
  | .shr _ _ => 0x52
  | .shri _ _ => 0x53
  | .sar _ _ => 0x54
  | .sari _ _ => 0x55
  | .ror _ _ => 0x56
  | .min _ _ => 0x57
  | .minu _ _ => 0x58
  | .max _ _ => 0x59
  | .maxu _ _ => 0x5A
  | .clz _ _ => 0x5B
  | .ctz _ _ => 0x5C
  | .popc _ _ => 0x5D
  | .slt _ _ => 0x5E
  | .sltu _ _ => 0x5F
  | .sel _ _ => 0x60
  | .movi _ _ => 0x61
  | .movk _ _ => 0x62
  | .sext _ _ => 0x63
  | .sfadd _ _ => 0x68
  | .sfsub _ _ => 0x69
  | .sfmul _ _ => 0x6A
  | .sffma _ _ => 0x6B
  | .sfmin _ _ => 0x6C
  | .sfmax _ _ => 0x6D
  | .sfcmp _ _ => 0x6E
  | .sfcvt _ _ => 0x6F
  | .ldB _ => 0x80
  | .ldBu _ => 0x81
  | .ldH _ => 0x82
  | .ldHu _ => 0x83
  | .ldW _ => 0x84
  | .ldWu _ => 0x85
  | .ldD _ => 0x86
  | .stB _ => 0x88
  | .stH _ => 0x89
  | .stW _ => 0x8A
  | .stD _ => 0x8B
  | .ataddW _ => 0x90
  | .ataddD _ => 0x91
  | .atminW _ => 0x92
  | .atminD _ => 0x93
  | .atmaxW _ => 0x94
  | .atmaxD _ => 0x95
  | .atandW _ => 0x96
  | .atandD _ => 0x97
  | .atorW _ => 0x98
  | .atorD _ => 0x99
  | .atxorW _ => 0x9A
  | .atxorD _ => 0x9B
  | .atswpW _ => 0x9C
  | .atswpD _ => 0x9D
  | .atcasW _ => 0x9E
  | .atcasD _ => 0x9F
  | .vldt _ => 0xA0
  | .vstt _ => 0xA1
  | .vldts _ => 0xA2
  | .vgtht _ => 0xA3
  | .vins _ => 0xA4
  | .vext _ => 0xA5
  | .vadd _ _ => 0x01
  | .vsub _ _ => 0x02
  | .vmul _ _ => 0x03
  | .vfma _ _ => 0x04
  | .vfms _ _ => 0x05
  | .vmin _ _ => 0x06
  | .vmax _ _ => 0x07
  | .vabs _ _ => 0x08
  | .vneg _ _ => 0x09
  | .vand _ _ => 0x0A
  | .vor _ _ => 0x0B
  | .vxor _ _ => 0x0C
  | .vnot _ _ => 0x0D
  | .vshl _ _ => 0x0E
  | .vshr _ _ => 0x0F
  | .vsar _ _ => 0x10
  | .vcmp _ _ => 0x11
  | .vsel _ _ => 0x12
  | .vcvt _ _ => 0x13
  | .vmov _ _ => 0x14
  | .vsplat _ _ => 0x15
  | .vsplati _ _ => 0x16
  | .viota _ _ => 0x17
  | .vreds _ _ => 0x18
  | .vredm _ _ => 0x19
  | .vscan _ _ => 0x1A
  | .vclmp _ _ => 0x1B
  | .vrcp _ => 0x1C
  | .vrsq _ => 0x1D
  | .vsqrt _ => 0x1E
  | .vexp2 _ => 0x1F
  | .vlog2 _ => 0x20
  | .vtanh _ => 0x21
  | .xperm _ => 0x01
  | .xpermScat _ => 0x01
  | .xrot _ => 0x02
  | .xzip _ => 0x03
  | .xunzip _ => 0x04
  | .xbcst _ => 0x05
  | .xcmpr _ => 0x06
  | .xexpd _ => 0x07
  | .talloc _ => 0x01
  | .tfree _ => 0x02
  | .tpark _ => 0x03
  | .twake _ => 0x04
  | .tload _ => 0x05
  | .tstore _ => 0x06
  | .tfill _ => 0x07
  | .tcopy _ => 0x08
  | .ttrans _ => 0x09
  | .tcvt _ => 0x0A
  | .tplane _ => 0x0B
  | .tscale _ => 0x0C
  | .tscaleBs _ => 0x0C
  | .tscaleNobs _ => 0x0C
  | .tsqld _ => 0x0D
  | .mma _ => 0x10
  | .aclr _ => 0x11
  | .asetq _ => 0x12
  | .acvt _ => 0x13
  | .aaddt _ => 0x14
  | .achk _ => 0x15
  | .afix _ => 0x16
  | .tckpt _ => 0x18
  | .fwait _ => 0x01
  | .fpost _ => 0x02
  | .fpostr _ => 0x03
  | .fset _ => 0x04
  | .frd _ => 0x05
  | .bar _ => 0x06
  | .fence _ => 0x07
  | .tmwait _ => 0x08
  | .tmwaitRel _ => 0x08
  | _ => 0

/-- The operand bits [31:0] of the slot. -/
def Instr.operBits : Instr → BitVec 32
  | .br o => o.bits
  | .brc o => o.bits
  | .jmp o => o.bits
  | .call o => o.bits
  | .callr o => o.bits
  | .loopi o => o.bits
  | .spawn o => o.bits
  | .rclaim o => o.bits
  | .trap o => o.bits
  | .csrr o => o.bits
  | .csrw o => o.bits
  | .csrsb o => o.bits
  | .csrcb o => o.bits
  | .dnew o => o.bits
  | .dgrantRange o => o.bits
  | .dgrantCore o => o.bits
  | .dgrantVf o => o.bits
  | .dgrantBud o => o.bits
  | .drevokeRange o => o.bits
  | .drevokeCore o => o.bits
  | .drevokeVf o => o.bits
  | .dkill o => o.bits
  | .dpolicyTrap o => o.bits
  | .dpolicyFlags o => o.bits
  | .dpolicyEvq o => o.bits
  | .dpolicyDlog o => o.bits
  | .dpolicyScope o => o.bits
  | .dpolicyTbofs o => o.bits
  | .dpolicySpill o => o.bits
  | .dquery o => o.bits
  | .tlbinvAll o => o.bits
  | .tlbinvVa o => o.bits
  | .tlbinvDom o => o.bits
  | .rtload o => o.bits
  | .rtloadClr o => o.bits
  | .evpostOwn o => o.bits
  | .evpostPar o => o.bits
  | .evpostChild o => o.bits
  | .pgstateBegin o => o.bits
  | .pgstateEnd o => o.bits
  | .pand o => o.bits
  | .por o => o.bits
  | .pxor o => o.bits
  | .pnot o => o.bits
  | .psetn o => o.bits
  | .pcnt o => o.bits
  | .pfirst o => o.bits
  | .add _ o => o.bits
  | .addi _ o => o.bits
  | .sub _ o => o.bits
  | .mul _ o => o.bits
  | .mulh _ o => o.bits
  | .mulhu _ o => o.bits
  | .div _ o => o.bits
  | .divu _ o => o.bits
  | .rem _ o => o.bits
  | .remu _ o => o.bits
  | .and _ o => o.bits
  | .andi _ o => o.bits
  | .or _ o => o.bits
  | .ori _ o => o.bits
  | .xor _ o => o.bits
  | .xori _ o => o.bits
  | .shl _ o => o.bits
  | .shli _ o => o.bits
  | .shr _ o => o.bits
  | .shri _ o => o.bits
  | .sar _ o => o.bits
  | .sari _ o => o.bits
  | .ror _ o => o.bits
  | .min _ o => o.bits
  | .minu _ o => o.bits
  | .max _ o => o.bits
  | .maxu _ o => o.bits
  | .clz _ o => o.bits
  | .ctz _ o => o.bits
  | .popc _ o => o.bits
  | .slt _ o => o.bits
  | .sltu _ o => o.bits
  | .sel _ o => o.bits
  | .movi _ o => o.bits
  | .movk _ o => o.bits
  | .sext _ o => o.bits
  | .sfadd _ o => o.bits
  | .sfsub _ o => o.bits
  | .sfmul _ o => o.bits
  | .sffma _ o => o.bits
  | .sfmin _ o => o.bits
  | .sfmax _ o => o.bits
  | .sfcmp _ o => o.bits
  | .sfcvt _ o => o.bits
  | .ldB o => o.bits
  | .ldBu o => o.bits
  | .ldH o => o.bits
  | .ldHu o => o.bits
  | .ldW o => o.bits
  | .ldWu o => o.bits
  | .ldD o => o.bits
  | .stB o => o.bits
  | .stH o => o.bits
  | .stW o => o.bits
  | .stD o => o.bits
  | .ataddW o => o.bits
  | .ataddD o => o.bits
  | .atminW o => o.bits
  | .atminD o => o.bits
  | .atmaxW o => o.bits
  | .atmaxD o => o.bits
  | .atandW o => o.bits
  | .atandD o => o.bits
  | .atorW o => o.bits
  | .atorD o => o.bits
  | .atxorW o => o.bits
  | .atxorD o => o.bits
  | .atswpW o => o.bits
  | .atswpD o => o.bits
  | .atcasW o => o.bits
  | .atcasD o => o.bits
  | .vldt o => o.bits
  | .vstt o => o.bits
  | .vldts o => o.bits
  | .vgtht o => o.bits
  | .vins o => o.bits
  | .vext o => o.bits
  | .vadd _ o => o.bits
  | .vsub _ o => o.bits
  | .vmul _ o => o.bits
  | .vfma _ o => o.bits
  | .vfms _ o => o.bits
  | .vmin _ o => o.bits
  | .vmax _ o => o.bits
  | .vabs _ o => o.bits
  | .vneg _ o => o.bits
  | .vand _ o => o.bits
  | .vor _ o => o.bits
  | .vxor _ o => o.bits
  | .vnot _ o => o.bits
  | .vshl _ o => o.bits
  | .vshr _ o => o.bits
  | .vsar _ o => o.bits
  | .vcmp _ o => o.bits
  | .vsel _ o => o.bits
  | .vcvt _ o => o.bits
  | .vmov _ o => o.bits
  | .vsplat _ o => o.bits
  | .vsplati _ o => o.bits
  | .viota _ o => o.bits
  | .vreds _ o => o.bits
  | .vredm _ o => o.bits
  | .vscan _ o => o.bits
  | .vclmp _ o => o.bits
  | .vrcp o => o.bits
  | .vrsq o => o.bits
  | .vsqrt o => o.bits
  | .vexp2 o => o.bits
  | .vlog2 o => o.bits
  | .vtanh o => o.bits
  | .xperm o => o.bits
  | .xpermScat o => o.bits
  | .xrot o => o.bits
  | .xzip o => o.bits
  | .xunzip o => o.bits
  | .xbcst o => o.bits
  | .xcmpr o => o.bits
  | .xexpd o => o.bits
  | .talloc o => o.bits
  | .tfree o => o.bits
  | .tpark o => o.bits
  | .twake o => o.bits
  | .tload o => o.bits
  | .tstore o => o.bits
  | .tfill o => o.bits
  | .tcopy o => o.bits
  | .ttrans o => o.bits
  | .tcvt o => o.bits
  | .tplane o => o.bits
  | .tscale o => o.bits
  | .tscaleBs o => o.bits
  | .tscaleNobs o => o.bits
  | .tsqld o => o.bits
  | .mma o => o.bits
  | .aclr o => o.bits
  | .asetq o => o.bits
  | .acvt o => o.bits
  | .aaddt o => o.bits
  | .achk o => o.bits
  | .afix o => o.bits
  | .tckpt o => o.bits
  | .fwait o => o.bits
  | .fpost o => o.bits
  | .fpostr o => o.bits
  | .fset o => o.bits
  | .frd o => o.bits
  | .bar o => o.bits
  | .fence o => o.bits
  | .tmwait o => o.bits
  | .tmwaitRel o => o.bits
  | _ => 0

/-- The 40 bits of a slot that hold the instruction (R47). -/
def encode (i : Instr) : SlotBits := i.opcode ++ i.operBits

/-- The instructions that C alone carries (R48, R49). A selector code that no row names falls to the last row of its opcode, whose own field check then finds the code reserved. -/
def opcodeC (op : BitVec 8) (b : BitVec 32) : Option Instr :=
  match op.toNat with
  | 0x01 => some (.br (.ofBits b))
  | 0x02 => some (.brc (.ofBits b))
  | 0x03 => some (.jmp (.ofBits b))
  | 0x04 => some (.call (.ofBits b))
  | 0x05 => some (.callr (.ofBits b))
  | 0x06 => some (.ret)
  | 0x07 => some (.loopi (.ofBits b))
  | 0x08 => some (.loop)
  | 0x09 => some (.suspend)
  | 0x0A => some (.spawn (.ofBits b))
  | 0x0B => some (.rclaim (.ofBits b))
  | 0x0C => some (.yield)
  | 0x0D => some (.halt)
  | 0x0E => some (.trap (.ofBits b))
  | 0x0F => some (.tret)
  | 0x10 => some (.csrr (.ofBits b))
  | 0x11 => some (.csrw (.ofBits b))
  | 0x12 => some (.csrsb (.ofBits b))
  | 0x13 => some (.csrcb (.ofBits b))
  | 0x20 => some (.dnew (.ofBits b))
  | 0x21 => if (b.extractLsb' 8 4).toNat = 0 then some (.dgrantRange (.ofBits b)) else if (b.extractLsb' 8 4).toNat = 1 then some (.dgrantCore (.ofBits b)) else if (b.extractLsb' 8 4).toNat = 2 then some (.dgrantVf (.ofBits b)) else some (.dgrantBud (.ofBits b))
  | 0x22 => if (b.extractLsb' 8 4).toNat = 0 then some (.drevokeRange (.ofBits b)) else if (b.extractLsb' 8 4).toNat = 1 then some (.drevokeCore (.ofBits b)) else some (.drevokeVf (.ofBits b))
  | 0x23 => some (.dkill (.ofBits b))
  | 0x24 => if (b.extractLsb' 8 4).toNat = 0 then some (.dpolicyTrap (.ofBits b)) else if (b.extractLsb' 8 4).toNat = 1 then some (.dpolicyFlags (.ofBits b)) else if (b.extractLsb' 8 4).toNat = 2 then some (.dpolicyEvq (.ofBits b)) else if (b.extractLsb' 8 4).toNat = 3 then some (.dpolicyDlog (.ofBits b)) else if (b.extractLsb' 8 4).toNat = 4 then some (.dpolicyScope (.ofBits b)) else if (b.extractLsb' 8 4).toNat = 5 then some (.dpolicyTbofs (.ofBits b)) else some (.dpolicySpill (.ofBits b))
  | 0x25 => some (.dquery (.ofBits b))
  | 0x26 => if (b.extractLsb' 8 4).toNat = 0 then some (.tlbinvAll (.ofBits b)) else if (b.extractLsb' 8 4).toNat = 1 then some (.tlbinvVa (.ofBits b)) else some (.tlbinvDom (.ofBits b))
  | 0x27 => if (b.extractLsb' 8 4).toNat = 0 then some (.rtload (.ofBits b)) else some (.rtloadClr (.ofBits b))
  | 0x28 => if (b.extractLsb' 8 4).toNat = 0 then some (.evpostOwn (.ofBits b)) else if (b.extractLsb' 8 4).toNat = 1 then some (.evpostPar (.ofBits b)) else some (.evpostChild (.ofBits b))
  | 0x29 => if (b.extractLsb' 8 4).toNat = 0 then some (.pgstateBegin (.ofBits b)) else some (.pgstateEnd (.ofBits b))
  | 0x30 => some (.pand (.ofBits b))
  | 0x31 => some (.por (.ofBits b))
  | 0x32 => some (.pxor (.ofBits b))
  | 0x33 => some (.pnot (.ofBits b))
  | 0x34 => some (.psetn (.ofBits b))
  | 0x35 => some (.pcnt (.ofBits b))
  | 0x36 => some (.pfirst (.ofBits b))
  | _ => none

/-- The scalar and scalar-float instructions of C and S. -/
def opcodeScalar (sl : CS) (op : BitVec 8) (b : BitVec 32) : Option Instr :=
  match op.toNat with
  | 0x40 => some (.add sl (.ofBits b))
  | 0x41 => some (.addi sl (.ofBits b))
  | 0x42 => some (.sub sl (.ofBits b))
  | 0x43 => some (.mul sl (.ofBits b))
  | 0x44 => some (.mulh sl (.ofBits b))
  | 0x45 => some (.mulhu sl (.ofBits b))
  | 0x46 => some (.div sl (.ofBits b))
  | 0x47 => some (.divu sl (.ofBits b))
  | 0x48 => some (.rem sl (.ofBits b))
  | 0x49 => some (.remu sl (.ofBits b))
  | 0x4A => some (.and sl (.ofBits b))
  | 0x4B => some (.andi sl (.ofBits b))
  | 0x4C => some (.or sl (.ofBits b))
  | 0x4D => some (.ori sl (.ofBits b))
  | 0x4E => some (.xor sl (.ofBits b))
  | 0x4F => some (.xori sl (.ofBits b))
  | 0x50 => some (.shl sl (.ofBits b))
  | 0x51 => some (.shli sl (.ofBits b))
  | 0x52 => some (.shr sl (.ofBits b))
  | 0x53 => some (.shri sl (.ofBits b))
  | 0x54 => some (.sar sl (.ofBits b))
  | 0x55 => some (.sari sl (.ofBits b))
  | 0x56 => some (.ror sl (.ofBits b))
  | 0x57 => some (.min sl (.ofBits b))
  | 0x58 => some (.minu sl (.ofBits b))
  | 0x59 => some (.max sl (.ofBits b))
  | 0x5A => some (.maxu sl (.ofBits b))
  | 0x5B => some (.clz sl (.ofBits b))
  | 0x5C => some (.ctz sl (.ofBits b))
  | 0x5D => some (.popc sl (.ofBits b))
  | 0x5E => some (.slt sl (.ofBits b))
  | 0x5F => some (.sltu sl (.ofBits b))
  | 0x60 => some (.sel sl (.ofBits b))
  | 0x61 => some (.movi sl (.ofBits b))
  | 0x62 => some (.movk sl (.ofBits b))
  | 0x63 => some (.sext sl (.ofBits b))
  | 0x68 => some (.sfadd sl (.ofBits b))
  | 0x69 => some (.sfsub sl (.ofBits b))
  | 0x6A => some (.sfmul sl (.ofBits b))
  | 0x6B => some (.sffma sl (.ofBits b))
  | 0x6C => some (.sfmin sl (.ofBits b))
  | 0x6D => some (.sfmax sl (.ofBits b))
  | 0x6E => some (.sfcmp sl (.ofBits b))
  | 0x6F => some (.sfcvt sl (.ofBits b))
  | _ => none

/-- The instructions that S alone carries. -/
def opcodeS (op : BitVec 8) (b : BitVec 32) : Option Instr :=
  match op.toNat with
  | 0x80 => some (.ldB (.ofBits b))
  | 0x81 => some (.ldBu (.ofBits b))
  | 0x82 => some (.ldH (.ofBits b))
  | 0x83 => some (.ldHu (.ofBits b))
  | 0x84 => some (.ldW (.ofBits b))
  | 0x85 => some (.ldWu (.ofBits b))
  | 0x86 => some (.ldD (.ofBits b))
  | 0x88 => some (.stB (.ofBits b))
  | 0x89 => some (.stH (.ofBits b))
  | 0x8A => some (.stW (.ofBits b))
  | 0x8B => some (.stD (.ofBits b))
  | 0x90 => some (.ataddW (.ofBits b))
  | 0x91 => some (.ataddD (.ofBits b))
  | 0x92 => some (.atminW (.ofBits b))
  | 0x93 => some (.atminD (.ofBits b))
  | 0x94 => some (.atmaxW (.ofBits b))
  | 0x95 => some (.atmaxD (.ofBits b))
  | 0x96 => some (.atandW (.ofBits b))
  | 0x97 => some (.atandD (.ofBits b))
  | 0x98 => some (.atorW (.ofBits b))
  | 0x99 => some (.atorD (.ofBits b))
  | 0x9A => some (.atxorW (.ofBits b))
  | 0x9B => some (.atxorD (.ofBits b))
  | 0x9C => some (.atswpW (.ofBits b))
  | 0x9D => some (.atswpD (.ofBits b))
  | 0x9E => some (.atcasW (.ofBits b))
  | 0x9F => some (.atcasD (.ofBits b))
  | 0xA0 => some (.vldt (.ofBits b))
  | 0xA1 => some (.vstt (.ofBits b))
  | 0xA2 => some (.vldts (.ofBits b))
  | 0xA3 => some (.vgtht (.ofBits b))
  | 0xA4 => some (.vins (.ofBits b))
  | 0xA5 => some (.vext (.ofBits b))
  | _ => none

/-- The vector instructions of V and W. -/
def opcodeVector (sl : VW) (op : BitVec 8) (b : BitVec 32) : Option Instr :=
  match op.toNat with
  | 0x01 => some (.vadd sl (.ofBits b))
  | 0x02 => some (.vsub sl (.ofBits b))
  | 0x03 => some (.vmul sl (.ofBits b))
  | 0x04 => some (.vfma sl (.ofBits b))
  | 0x05 => some (.vfms sl (.ofBits b))
  | 0x06 => some (.vmin sl (.ofBits b))
  | 0x07 => some (.vmax sl (.ofBits b))
  | 0x08 => some (.vabs sl (.ofBits b))
  | 0x09 => some (.vneg sl (.ofBits b))
  | 0x0A => some (.vand sl (.ofBits b))
  | 0x0B => some (.vor sl (.ofBits b))
  | 0x0C => some (.vxor sl (.ofBits b))
  | 0x0D => some (.vnot sl (.ofBits b))
  | 0x0E => some (.vshl sl (.ofBits b))
  | 0x0F => some (.vshr sl (.ofBits b))
  | 0x10 => some (.vsar sl (.ofBits b))
  | 0x11 => some (.vcmp sl (.ofBits b))
  | 0x12 => some (.vsel sl (.ofBits b))
  | 0x13 => some (.vcvt sl (.ofBits b))
  | 0x14 => some (.vmov sl (.ofBits b))
  | 0x15 => some (.vsplat sl (.ofBits b))
  | 0x16 => some (.vsplati sl (.ofBits b))
  | 0x17 => some (.viota sl (.ofBits b))
  | 0x18 => some (.vreds sl (.ofBits b))
  | 0x19 => some (.vredm sl (.ofBits b))
  | 0x1A => some (.vscan sl (.ofBits b))
  | 0x1B => some (.vclmp sl (.ofBits b))
  | _ => none

/-- The special functions, which W alone carries. -/
def opcodeW (op : BitVec 8) (b : BitVec 32) : Option Instr :=
  match op.toNat with
  | 0x1C => some (.vrcp (.ofBits b))
  | 0x1D => some (.vrsq (.ofBits b))
  | 0x1E => some (.vsqrt (.ofBits b))
  | 0x1F => some (.vexp2 (.ofBits b))
  | 0x20 => some (.vlog2 (.ofBits b))
  | 0x21 => some (.vtanh (.ofBits b))
  | _ => none

/-- The crossbar instructions. -/
def opcodeX (op : BitVec 8) (b : BitVec 32) : Option Instr :=
  match op.toNat with
  | 0x01 => if (b.extractLsb' 0 1).toNat = 0 then some (.xperm (.ofBits b)) else some (.xpermScat (.ofBits b))
  | 0x02 => some (.xrot (.ofBits b))
  | 0x03 => some (.xzip (.ofBits b))
  | 0x04 => some (.xunzip (.ofBits b))
  | 0x05 => some (.xbcst (.ofBits b))
  | 0x06 => some (.xcmpr (.ofBits b))
  | 0x07 => some (.xexpd (.ofBits b))
  | _ => none

/-- The tile and engine instructions. -/
def opcodeT (op : BitVec 8) (b : BitVec 32) : Option Instr :=
  match op.toNat with
  | 0x01 => some (.talloc (.ofBits b))
  | 0x02 => some (.tfree (.ofBits b))
  | 0x03 => some (.tpark (.ofBits b))
  | 0x04 => some (.twake (.ofBits b))
  | 0x05 => some (.tload (.ofBits b))
  | 0x06 => some (.tstore (.ofBits b))
  | 0x07 => some (.tfill (.ofBits b))
  | 0x08 => some (.tcopy (.ofBits b))
  | 0x09 => some (.ttrans (.ofBits b))
  | 0x0A => some (.tcvt (.ofBits b))
  | 0x0B => some (.tplane (.ofBits b))
  | 0x0C => if (b.extractLsb' 7 2).toNat = 0 then some (.tscale (.ofBits b)) else if (b.extractLsb' 7 2).toNat = 1 then some (.tscaleBs (.ofBits b)) else some (.tscaleNobs (.ofBits b))
  | 0x0D => some (.tsqld (.ofBits b))
  | 0x10 => some (.mma (.ofBits b))
  | 0x11 => some (.aclr (.ofBits b))
  | 0x12 => some (.asetq (.ofBits b))
  | 0x13 => some (.acvt (.ofBits b))
  | 0x14 => some (.aaddt (.ofBits b))
  | 0x15 => some (.achk (.ofBits b))
  | 0x16 => some (.afix (.ofBits b))
  | 0x18 => some (.tckpt (.ofBits b))
  | _ => none

/-- The synchronisation instructions. -/
def opcodeY (op : BitVec 8) (b : BitVec 32) : Option Instr :=
  match op.toNat with
  | 0x01 => some (.fwait (.ofBits b))
  | 0x02 => some (.fpost (.ofBits b))
  | 0x03 => some (.fpostr (.ofBits b))
  | 0x04 => some (.fset (.ofBits b))
  | 0x05 => some (.frd (.ofBits b))
  | 0x06 => some (.bar (.ofBits b))
  | 0x07 => some (.fence (.ofBits b))
  | 0x08 => if (b.extractLsb' 16 1).toNat = 0 then some (.tmwait (.ofBits b)) else some (.tmwaitRel (.ofBits b))
  | _ => none

/-- The instruction that an opcode and its operand bits name in a slot (R48). -/
def opcodeTable (sl : SlotId) (op : BitVec 8) (b : BitVec 32) : Option Instr :=
  match sl with
  | .c => (opcodeC op b).or (opcodeScalar .c op b)
  | .s => (opcodeS op b).or (opcodeScalar .s op b)
  | .v => opcodeVector .v op b
  | .w => (opcodeW op b).or (opcodeVector .w op b)
  | .x => opcodeX op b
  | .t => opcodeT op b
  | .y => opcodeY op b

/-- What a slot holds. -/
inductive SlotRead where
  /-- Opcode 0x00 with zero operands (R47). -/
  | empty
  /-- An opcode undefined in the slot (R48, R52). -/
  | illegalOpcode
  /-- A reserved field that is not zero, or a reserved code (R51, R55). -/
  | reservedField
  | instr (i : Instr)
  deriving DecidableEq, Repr

/-- Decodes the 40 bits of one slot. -/
def decodeSlot (sl : SlotId) (w : SlotBits) : SlotRead :=
  let op := w.extractLsb' 32 8
  let b := w.extractLsb' 0 32
  if op == 0 then (if b == 0 then .empty else .reservedField)
  else match opcodeTable sl op b with
    | none => .illegalOpcode
    | some i =>
      if !i.legal then .illegalOpcode
      else if i.operBits != b || !i.fieldsOk then .reservedField
      else .instr i

/-! ### Bundles (R45, R46) -/

/-- The header's fields (R46). -/
structure Header where
  fl : Bool
  mi : Bool
  op : BitVec 3
  opv : Bool
  ew : BitVec 5
  rm : Bool
  deriving DecidableEq, Repr

/-- The header that `tamas` emits when a line carries no annotation (R46). -/
def Header.plain : Header := ⟨false, false, 0, false, 0, false⟩

def Header.ofBits (h : BitVec 40) : Header :=
  ⟨h.getLsbD 11, h.getLsbD 10, h.extractLsb' 7 3, h.getLsbD 6, h.extractLsb' 1 5, h.getLsbD 0⟩

/-- Bits [39:12] of the header are reserved (R46). -/
def Header.reservedClear (h : BitVec 40) : Bool := h.extractLsb' 12 28 == 0

/-- A legal bundle: its header and the instructions of its slots in program order (R53). -/
structure Bundle where
  hdr : Header
  slots : List Instr
  deriving DecidableEq, Repr

/-- Why a bundle is illegal (R55), in the order in which the cause is chosen. -/
inductive Illegal where
  | illegalOpcode
  | reservedField
  | illegalBundle
  deriving DecidableEq, Repr

/-- The slots of a bundle in the order of the slot mask: bit 0 = C to bit 6 = Y (R54). -/
def SlotId.all : List SlotId := [.c, .s, .v, .w, .x, .t, .y]

/-- The position of a slot in the bundle and in the slot mask (R45, R54). -/
def SlotId.index : SlotId → Nat
  | .c => 0 | .s => 1 | .v => 2 | .w => 3 | .x => 4 | .t => 5 | .y => 6

/-- The 40 bits of a slot of a bundle (R45). -/
def slotBits (w : BitVec 320) (sl : SlotId) : SlotBits := w.extractLsb' (40 * (sl.index + 1)) 40

/-- Lane groups that an instruction of V or W claims (R56). -/
def Instr.laneGroups : Instr → Nat
  | .vrcp o | .vrsq o | .vsqrt o | .vexp2 o | .vlog2 o | .vtanh o => if o.width == 0 then 1 else if o.width == 1 then 2 else 4
  | .vadd _ o | .vsub _ o | .vmul _ o | .vfma _ o | .vfms _ o | .vmin _ o | .vmax _ o | .vabs _ o | .vneg _ o | .vand _ o | .vor _ o | .vxor _ o | .vnot _ o | .vshl _ o | .vshr _ o | .vsar _ o | .vcmp _ o | .vsel _ o | .vcvt _ o | .vmov _ o | .vsplat _ o | .vsplati _ o | .viota _ o | .vreds _ o | .vredm _ o | .vscan _ o | .vclmp _ o =>
    if o.width == 0 then 1 else if o.width == 1 then 2 else 4
  | _ => 0

/-- A register that a slot writes, by its encoded number, as the check of R57 counts it. -/
inductive Written where
  | s (n : Nat)
  | v (n : Nat)
  | p (n : Nat)
  deriving DecidableEq, Repr

/-- The writes of an instruction that R57 counts; a write to s0 or p0 never counts. -/
def Instr.writes : Instr → List Written
  | .call _ | .callr _ => [.s 31]
  | .loop => [.p 8, .p 15]
  | .spawn o | .rclaim o => if o.sd == 0 then [] else [.s o.sd.toNat]
  | .csrr o | .csrw o | .csrsb o | .csrcb o => if o.sd == 0 then [] else [.s o.sd.toNat]
  | .dnew o | .dgrantRange o | .dgrantCore o | .dgrantVf o | .dgrantBud o | .drevokeRange o | .drevokeCore o | .drevokeVf o | .dkill o | .dpolicyTrap o | .dpolicyFlags o | .dpolicyEvq o | .dpolicyDlog o | .dpolicyScope o | .dpolicyTbofs o | .dpolicySpill o | .dquery o | .tlbinvAll o | .tlbinvVa o | .tlbinvDom o | .rtload o | .rtloadClr o | .evpostOwn o | .evpostPar o | .evpostChild o | .pgstateBegin o | .pgstateEnd o => if o.sd == 0 then [] else [.s o.sd.toNat]
  | .add _ o | .sub _ o | .mul _ o | .mulh _ o | .mulhu _ o | .div _ o | .divu _ o | .rem _ o | .remu _ o | .and _ o | .or _ o | .xor _ o | .shl _ o | .shr _ o | .sar _ o | .ror _ o | .min _ o | .minu _ o | .max _ o | .maxu _ o | .clz _ o | .ctz _ o | .popc _ o | .slt _ o | .sltu _ o | .sel _ o | .sfadd _ o | .sfsub _ o | .sfmul _ o | .sffma _ o | .sfmin _ o | .sfmax _ o | .sfcmp _ o | .sfcvt _ o => if o.sd == 0 then [] else [.s o.sd.toNat]
  | .addi _ o | .andi _ o | .ori _ o | .xori _ o | .shli _ o | .shri _ o | .sari _ o | .sext _ o => if o.sd == 0 then [] else [.s o.sd.toNat]
  | .movi _ o => if o.sd == 0 then [] else [.s o.sd.toNat]
  | .movk _ o => if o.sd == 0 then [] else [.s o.sd.toNat]
  | .ataddW o | .ataddD o | .atminW o | .atminD o | .atmaxW o | .atmaxD o | .atandW o | .atandD o | .atorW o | .atorD o | .atxorW o | .atxorD o | .atswpW o | .atswpD o | .atcasW o | .atcasD o => if o.sd == 0 then [] else [.s o.sd.toNat]
  | .frd o => if o.sd == 0 then [] else [.s o.sd.toNat]
  | .pand o | .por o | .pxor o | .pnot o | .psetn o => if o.pd == 0 then [] else [.p o.pd.toNat]
  | .pcnt o | .pfirst o => if o.s == 0 then [] else [.s o.s.toNat]
  | .ldB o | .ldBu o | .ldH o | .ldHu o | .ldW o | .ldWu o | .ldD o => if o.reg == 0 then [] else [.s o.reg.toNat]
  | .vldt o | .vldts o | .vgtht o | .vins o => [.v o.v.toNat]
  | .vext o => if o.a == 0 then [] else [.s o.a.toNat]
  | .vadd _ o | .vsub _ o | .vmul _ o | .vfma _ o | .vfms _ o | .vmin _ o | .vmax _ o | .vabs _ o | .vneg _ o | .vand _ o | .vor _ o | .vxor _ o | .vnot _ o | .vshl _ o | .vshr _ o | .vsar _ o | .vsel _ o | .vcvt _ o | .vmov _ o | .vsplat _ o | .vsplati _ o | .viota _ o | .vreds _ o | .vredm _ o | .vscan _ o | .vclmp _ o | .vrcp o | .vrsq o | .vsqrt o | .vexp2 o | .vlog2 o | .vtanh o => [.v o.vd.toNat]
  | .xperm o | .xpermScat o | .xrot o | .xzip o | .xunzip o | .xbcst o | .xcmpr o | .xexpd o => [.v o.vd.toNat]
  | .vcmp _ o => if o.vd == 0 then [] else [.p o.vd.toNat]
  | _ => []

/-- Two slots write one register (R57): the slots whose writes meet another slot's. -/
def writeConflict (l : List (SlotId × List Written)) : List SlotId :=
  (l.filter fun a => l.any fun b => a.1 != b.1 && a.2.any fun w => b.2.contains w).map Prod.fst

/-- The slot mask of R54. -/
def slotMask (l : List SlotId) : BitVec 7 :=
  l.foldl (fun m sl => m ||| (1#7 <<< sl.index)) 0

/-- What reading a bundle gives: a legal bundle, or the cause and slot mask of R55. -/
inductive BundleRead where
  | legal (b : Bundle)
  | illegal (r : Illegal) (mask : BitVec 7)
  deriving DecidableEq, Repr

/-- Reads the seven slots. -/
def readSlots (w : BitVec 320) : List (SlotId × SlotRead) :=
  SlotId.all.map fun sl => (sl, decodeSlot sl (slotBits w sl))

/-- The instructions of the slots that hold one. -/
def slotInstrs (l : List (SlotId × SlotRead)) : List (SlotId × Instr) :=
  l.filterMap fun p => match p.2 with
    | .instr i => some (p.1, i)
    | _ => none

/-- The C slot's opcode is TRET's (R148). -/
def tretOp (w : BitVec 320) : Bool := (slotBits w .c).extractLsb' 32 8 == 0x0F

/-- Decodes a bundle by R55: illegal opcodes first, then reserved fields, then the two conditions of an illegal bundle. With TE = 1 a TRET is an
illegal opcode (R148). Where V and W claim too many lane groups and two slots write one register, one cause covers both conditions and the mask
holds the slots of both (DESIGN CHOICE, log entry 61). -/
def decodeBundleIn (te : Bool) (w : BitVec 320) : BundleRead :=
  let rd := readSlots w
  let bad := rd.filter fun p => p.2 == .illegalOpcode || (te && p.1 == .c && tretOp w)
  let resv := rd.filter fun p => p.2 == .reservedField
  let is := slotInstrs rd
  let vw := is.filter fun p => p.1 == .v || p.1 == .w
  let lanes : List SlotId := if (vw.map fun p => p.2.laneGroups).sum > 4 then vw.map Prod.fst else []
  let conf := writeConflict (is.map fun p => (p.1, p.2.writes))
  let hdr := w.extractLsb' 0 40
  if !bad.isEmpty then .illegal .illegalOpcode (slotMask (bad.map Prod.fst))
  else if !resv.isEmpty || !Header.reservedClear hdr then .illegal .reservedField (slotMask (resv.map Prod.fst))
  else if !lanes.isEmpty || !conf.isEmpty then .illegal .illegalBundle (slotMask (lanes ++ conf))
  else .legal ⟨Header.ofBits hdr, is.map Prod.snd⟩

/-- A bundle as a strand reads it whose TRET is an opcode (TE = 0). -/
def decodeBundle (w : BitVec 320) : BundleRead := decodeBundleIn false w

/-- The 320 bits of a bundle that holds one instruction and a header without annotation. -/
def encodeBundle (i : Instr) : BitVec 320 :=
  match i.slot with
  | some sl => ((encode i).setWidth 320) <<< (40 * (sl.index + 1))
  | none => 0

/-- The instruction that the decoder reads from a bundle whose bits are `w` (bit 0 is the header's bit 0, bits above
`nbits` are zero), when the bundle is legal and exactly one of its slots holds an instruction. -/
def decodeTableWord (_nbits w : Nat) : Option Instr :=
  match decodeBundle (BitVec.ofNat 320 w) with
  | .legal b => match b.slots with
    | [i] => some i
    | _ => none
  | .illegal _ _ => none

end Sys2Proof
end

