-- ==== Sys2Proof/Machine/Fp.lean ====
section
/-! DEFINITION. Exact values, rounding and floating-point operations (spec/04_numbers.md R76 to R87, R94 to R98). A value
is decoded to an exact dyadic number, the operation is exact, and one rounding gives the result and its flags. -/

namespace Sys2Proof.Machine

/-- The rounding modes of R81. -/
inductive Rm where
  | rne | rtz | rdn | rup | rna | rto
  deriving DecidableEq, Repr

/-- FPC.RM (R81). The codes 0b110 and 0b111 are reserved: every write that would leave them is refused (R83), so their
arm is never reached by a run; log entry 12. -/
def Rm.ofBits (b : BitVec 3) : Rm :=
  if b == 1 then .rtz else if b == 2 then .rdn else if b == 3 then .rup else if b == 4 then .rna else if b == 5 then .rto else .rne

/-- The five flags in the order NV, OF, UF, DZ, NX from the high bit down (R80). -/
abbrev Fl := BitVec 5

def Fl.none : Fl := 0
def Fl.nv : Fl := 16
def Fl.of : Fl := 8
def Fl.uf : Fl := 4
def Fl.dz : Fl := 2
def Fl.nx : Fl := 1

/-- A flag raised under a condition. -/
def Fl.when (f : Fl) (b : Bool) : Fl := if b then f else 0

/-- An exact value: a NaN (with its signalling mark; NaR is a quiet NaN by R86), an infinity, or (-1)^neg * m * 2^e. A zero keeps
its sign. -/
inductive Val where
  | nan (signalling : Bool)
  | inf (neg : Bool)
  | num (neg : Bool) (m : Nat) (e : Int)
  deriving DecidableEq, Repr

/-- A binary format of R78 by its exponent and fraction widths. -/
structure Fmt where
  eb : Nat
  fb : Nat
  deriving DecidableEq, Repr

def Fmt.bf16 : Fmt := ⟨8, 7⟩
def Fmt.fp16 : Fmt := ⟨5, 10⟩
def Fmt.fp32 : Fmt := ⟨8, 23⟩
def Fmt.fp64 : Fmt := ⟨11, 52⟩

def Fmt.bias (f : Fmt) : Nat := 2 ^ (f.eb - 1) - 1
def Fmt.width (f : Fmt) : Nat := 1 + f.eb + f.fb
/-- The encoding of +infinity. -/
def Fmt.infBits (f : Fmt) : Nat := (2 ^ f.eb - 1) * 2 ^ f.fb
/-- The default NaN of R78. -/
def Fmt.nanBits (f : Fmt) : Nat := f.infBits + 2 ^ (f.fb - 1)
def Fmt.signBit (f : Fmt) : Nat := 2 ^ (f.eb + f.fb)
/-- The exponent of the last place of a subnormal. -/
def Fmt.tiny (f : Fmt) : Int := 1 - (f.bias : Int) - (f.fb : Int)

def Fmt.signed (f : Fmt) (neg : Bool) (b : Nat) : Nat := if neg then f.signBit + b else b

/-- Decodes the bits of a value of the format (R78). -/
def Fmt.decode (f : Fmt) (b : Nat) : Val :=
  let frac := b % 2 ^ f.fb
  let ex := b / 2 ^ f.fb % 2 ^ f.eb
  let neg := b / f.signBit % 2 == 1
  if ex == 2 ^ f.eb - 1 then
    if frac == 0 then .inf neg else .nan (frac < 2 ^ (f.fb - 1))
  else if ex == 0 then .num neg frac f.tiny
  else .num neg (2 ^ f.fb + frac) (f.tiny + (ex : Int) - 1)

/-- A subnormal encoding: exponent field 0, fraction non-zero. -/
def Fmt.isSubnormal (f : Fmt) (b : Nat) : Bool := b / 2 ^ f.fb % 2 ^ f.eb == 0 && b % 2 ^ f.fb != 0

/-- m * 2^e as a natural number and the part cut off below 2^0: the quotient, and how the rest compares. `rest` is none for an exact value. -/
structure Cut where
  q : Nat
  /-- none: exact; lt, eq, gt: the rest against one half. -/
  rest : Option Ordering
  deriving DecidableEq, Repr

/-- Cuts m * 2^e (plus less than one unit of 2^e where `sticky` is set) at the unit 2^t. -/
def cutAt (m : Nat) (e t : Int) (sticky : Bool) : Cut :=
  if t ≤ e then ⟨m <<< (e - t).toNat, if sticky then some .lt else none⟩
  else
    let d := (t - e).toNat
    let q := m >>> d
    let r := m - (q <<< d)
    let h := 2 ^ (d - 1)
    ⟨q, if r == 0 && !sticky then none
        else if r < h then some .lt
        else if r == h then some (if sticky then .gt else .eq)
        else some .gt⟩

/-- The rounding of a magnitude on a grid (R81). -/
def Rm.round (rm : Rm) (neg : Bool) (c : Cut) : Nat :=
  match c.rest with
  | none => c.q
  | some o => match rm with
    | .rne => match o with
      | .lt => c.q
      | .eq => c.q + c.q % 2
      | .gt => c.q + 1
    | .rtz => c.q
    | .rdn => if neg then c.q + 1 else c.q
    | .rup => if neg then c.q else c.q + 1
    | .rna => match o with
      | .lt => c.q
      | .eq => c.q + 1
      | .gt => c.q + 1
    | .rto => if c.q % 2 == 0 then c.q + 1 else c.q

/-- A result's bits with the flags raised. -/
structure Res where
  bits : Nat
  fl : Fl
  deriving DecidableEq, Repr

/-- The result of an overflow (R82). -/
def Fmt.overflow (f : Fmt) (rm : Rm) (neg : Bool) : Res :=
  let inf := f.signed neg f.infBits
  let big := f.signed neg (f.infBits - 1)
  let r := match rm with
    | .rne => inf
    | .rna => inf
    | .rtz => big
    | .rto => big
    | .rdn => if neg then inf else big
    | .rup => if neg then big else inf
  ⟨r, Fl.of ||| Fl.nx⟩

/-- `round_fp` of a non-zero magnitude (R82). -/
def Fmt.roundMag (f : Fmt) (rm : Rm) (neg : Bool) (m : Nat) (e : Int) (sticky : Bool) : Res :=
  let top : Int := e + (m.log2 : Int)
  let tu := top - (f.fb : Int)
  let t := if tu < f.tiny then f.tiny else tu
  let c := cutAt m e t sticky
  let q := rm.round neg c
  let b := (t - f.tiny).toNat * 2 ^ f.fb + q
  if f.infBits ≤ b then f.overflow rm neg
  else
    let qu := rm.round neg (cutAt m e tu sticky)
    let tinyRes := decide (tu < f.tiny) && !(tu + 1 == f.tiny && qu == 2 ^ (f.fb + 1))
    ⟨f.signed neg b, (Fl.uf.when (tinyRes && c.rest.isSome)) ||| Fl.nx.when c.rest.isSome⟩

/-- `round_fp(x, fmt, rm)` of R82 for an exact value; a NaN gives the default NaN. -/
def Fmt.round (f : Fmt) (rm : Rm) (v : Val) : Res :=
  match v with
  | .nan s => ⟨f.nanBits, Fl.nv.when s⟩
  | .inf neg => ⟨f.signed neg f.infBits, 0⟩
  | .num neg m e => if m == 0 then ⟨f.signed neg 0, 0⟩ else f.roundMag rm neg m e false

/-- Reads an operand with FTZ applied (R79). -/
def Fmt.read (f : Fmt) (ftz : Bool) (b : Nat) : Val :=
  if ftz && f.isSubnormal b then .num (b / f.signBit % 2 == 1) 0 0 else f.decode b

/-- Replaces a subnormal result by a zero of its sign under FTZ, raising UF and NX (R79). -/
def Fmt.flush (f : Fmt) (ftz : Bool) (r : Res) : Res :=
  if ftz && f.isSubnormal r.bits then ⟨f.signed (r.bits / f.signBit % 2 == 1) 0, r.fl ||| Fl.uf ||| Fl.nx⟩ else r

/-! ### T8 (R85 to R87) -/

/-- The magnitude of a T8 code's low seven bits in units of 2^-12 (R85). -/
def t8Mag (c : Nat) : Nat :=
  let d := c / 64 % 2
  let m := c % 64
  if m == 0 then (if d == 1 then 1 else 0)
  else
    let l := m.log2
    let z := 5 - l
    let w := 4 - z
    let e := if z == 5 then 0 else m / 2 ^ w % 2
    let f := if z == 5 then 0 else m % 2 ^ w
    let w := if z == 5 then 0 else w
    let mm := 2 * z + e
    if d == 0 then (2 ^ w + f) * 2 ^ (12 + mm - w) else (2 ^ w + f) * 2 ^ (11 - mm - w)

/-- `t8_decode` (R85); NaR is a quiet NaN (R86). -/
def t8Decode (c : Nat) : Val :=
  if c % 256 == 128 then .nan false else .num (c / 128 % 2 == 1) (t8Mag (c % 128)) (-12)

/-- The T8 codes of sign 0 around a magnitude: the greatest magnitude not above it and the smallest not below it. -/
structure T8Around where
  lo : Nat
  hi : Nat
  deriving DecidableEq, Repr

/-- m * 2^e against n * 2^-12. -/
def t8Cmp (m : Nat) (e : Int) (n : Nat) : Ordering :=
  if 0 ≤ e + 12 then compare (m <<< (e + 12).toNat) n else compare m (n <<< (-(e + 12)).toNat)

/-- The codes around m * 2^e, found among the 128 codes of sign 0. -/
def t8Around (m : Nat) (e : Int) : T8Around :=
  (List.range 128).foldl (fun a c =>
    let lo := if t8Cmp m e (t8Mag c) != .lt && t8Mag a.lo < t8Mag c then c else a.lo
    let hi := if t8Cmp m e (t8Mag c) != .gt && t8Mag c < t8Mag a.hi then c else a.hi
    ⟨lo, hi⟩) ⟨0, 1⟩

/-- The rounding of a magnitude between two T8 codes (R87). -/
def t8Choose (rm : Rm) (neg : Bool) (m : Nat) (e : Int) (a : T8Around) : Nat :=
  let half := t8Cmp (2 * m) e (t8Mag a.lo + t8Mag a.hi)
  let tieEven := if a.lo % 2 == 0 then a.lo else if a.hi % 2 == 0 then a.hi else a.lo
  match rm with
  | .rne => match half with
    | .lt => a.lo
    | .gt => a.hi
    | .eq => tieEven
  | .rna => match half with
    | .lt => a.lo
    | .gt => a.hi
    | .eq => a.hi
  | .rtz => a.lo
  | .rdn => if neg then a.hi else a.lo
  | .rup => if neg then a.lo else a.hi
  | .rto => if a.lo % 2 == 1 then a.lo else if a.hi % 2 == 1 then a.hi else a.lo

/-- `t8_encode(x, rm)` (R87). -/
def t8Encode (rm : Rm) (v : Val) : Res :=
  match v with
  | .nan s => ⟨128, Fl.nv.when s⟩
  | .inf neg => ⟨if neg then 129 else 1, Fl.of ||| Fl.nx⟩
  | .num neg m e =>
    if m == 0 then ⟨0, 0⟩
    else if t8Cmp m e (2 ^ 22) == .gt then ⟨if neg then 129 else 1, Fl.of ||| Fl.nx⟩
    else
      let a := t8Around m e
      let exact := t8Mag a.lo == t8Mag a.hi
      let c := if exact then a.lo else t8Choose rm neg m e a
      let b := if c == 0 then 0 else if neg then 128 + c else c
      ⟨b, (Fl.uf.when (!exact && t8Cmp m e 1 == .lt)) ||| Fl.nx.when (!exact)⟩

/-! ### Integer results (R77, R81, R84) -/

/-- The least and the greatest value of a w-bit format. -/
def intMin (w : Nat) (sgn : Bool) : Int := if sgn then -(2 ^ (w - 1) : Int) else 0
def intMax (w : Nat) (sgn : Bool) : Int := if sgn then (2 ^ (w - 1) : Int) - 1 else (2 ^ w : Int) - 1

/-- `sat_int(x, w, signed)` (R77). -/
def satInt (x : Int) (w : Nat) (sgn : Bool) : Int :=
  if x < intMin w sgn then intMin w sgn else if intMax w sgn < x then intMax w sgn else x

/-- The two's complement bits of an integer in w bits (R77). -/
def intBits (w : Nat) (x : Int) : Nat := (x % (2 ^ w : Int)).toNat

/-- The signed reading of w bits. -/
def intOf (w : Nat) (b : Nat) : Int :=
  let b := b % 2 ^ w
  if 2 * b < 2 ^ w then (b : Int) else (b : Int) - (2 ^ w : Int)

/-- An integer with flags. -/
structure IntRes where
  val : Int
  fl : Fl
  deriving DecidableEq, Repr

/-- A value rounded to an integer under the mode, then bounded (R84): NV where it is bounded or a NaN, else NX where inexact. -/
def Val.toInt (v : Val) (rm : Rm) (w : Nat) (sgn : Bool) : IntRes :=
  match v with
  | .nan _ => ⟨0, Fl.nv⟩
  | .inf neg => ⟨if neg then intMin w sgn else intMax w sgn, Fl.nv⟩
  | .num neg m e =>
    let c := cutAt m e 0 false
    let q : Int := rm.round neg c
    let x := if neg then -q else q
    let y := satInt x w sgn
    if y != x then ⟨y, Fl.nv⟩ else ⟨y, Fl.nx.when c.rest.isSome⟩

/-- The exact value of an integer. -/
def Val.ofInt (x : Int) : Val := .num (decide (x < 0)) x.natAbs 0

/-! ### Exact operations -/

def Val.neg : Val → Val
  | .nan s => .nan s
  | .inf n => .inf !n
  | .num n m e => .num (!n) m e

def Val.abs : Val → Val
  | .nan s => .nan s
  | .inf _ => .inf false
  | .num _ m e => .num false m e

def Val.isNan : Val → Bool
  | .nan _ => true
  | .inf _ => false
  | .num _ _ _ => false

def Val.isSnan : Val → Bool
  | .nan s => s
  | .inf _ => false
  | .num _ _ _ => false

def Val.isInf : Val → Bool
  | .nan _ => false
  | .inf _ => true
  | .num _ _ _ => false

def Val.isZero : Val → Bool
  | .nan _ => false
  | .inf _ => false
  | .num _ m _ => m == 0

def Val.sign : Val → Bool
  | .nan _ => false
  | .inf n => n
  | .num n _ _ => n

/-- A signed mantissa at a common exponent. -/
def alignTo (neg : Bool) (m : Nat) (e t : Int) : Int :=
  let x : Int := m <<< (e - t).toNat
  if neg then -x else x

/-- A value with the flags its operation raised before rounding. -/
structure VRes where
  val : Val
  fl : Fl
  deriving DecidableEq, Repr

/-- The exact sum; an exact zero takes its sign by R82. -/
def Val.add (rdn : Bool) (a b : Val) : VRes :=
  match a, b with
  | .nan s, y => ⟨.nan false, Fl.nv.when (s || y.isSnan)⟩
  | x, .nan s => ⟨.nan false, Fl.nv.when (s || x.isSnan)⟩
  | .inf n, .inf k => if n == k then ⟨.inf n, 0⟩ else ⟨.nan false, Fl.nv⟩
  | .inf n, .num _ _ _ => ⟨.inf n, 0⟩
  | .num _ _ _, .inf k => ⟨.inf k, 0⟩
  | .num n m e, .num k l f =>
    let t := if e < f then e else f
    let x := alignTo n m e t + alignTo k l f t
    if x == 0 then
      let sg := if m == 0 && l == 0 && n == k then n else rdn
      ⟨.num sg 0 0, 0⟩
    else ⟨.num (decide (x < 0)) x.natAbs t, 0⟩

/-- The exact product. -/
def Val.mul (a b : Val) : VRes :=
  match a, b with
  | .nan s, y => ⟨.nan false, Fl.nv.when (s || y.isSnan)⟩
  | x, .nan s => ⟨.nan false, Fl.nv.when (s || x.isSnan)⟩
  | .inf n, .inf k => ⟨.inf (n != k), 0⟩
  | .inf n, .num k l _ => if l == 0 then ⟨.nan false, Fl.nv⟩ else ⟨.inf (n != k), 0⟩
  | .num n m _, .inf k => if m == 0 then ⟨.nan false, Fl.nv⟩ else ⟨.inf (n != k), 0⟩
  | .num n m e, .num k l f => ⟨.num (n != k) (m * l) (e + f), 0⟩

/-- The exact fused multiply-add; the product is the first operand of the addition (R82). -/
def Val.fma (rdn : Bool) (a b c : Val) : VRes :=
  let p := Val.mul a b
  match c with
  | .nan s => ⟨.nan false, p.fl ||| Fl.nv.when s⟩
  | c => let r := Val.add rdn p.val c
    ⟨r.val, p.fl ||| r.fl⟩

/-- The order of two values that are not NaNs; both zeros are equal. -/
def Val.cmp (a b : Val) : Option Ordering :=
  match a, b with
  | .nan _, _ => none
  | _, .nan _ => none
  | .inf n, .inf k => some (if n == k then .eq else if n then .lt else .gt)
  | .inf n, .num _ _ _ => some (if n then .lt else .gt)
  | .num _ _ _, .inf k => some (if k then .gt else .lt)
  | .num n m e, .num k l f =>
    let t := if e < f then e else f
    some (compare (alignTo n m e t) (alignTo k l f t))

/-- `round_fp` of the exact quotient of two non-zero magnitudes. -/
def Fmt.divMag (f : Fmt) (rm : Rm) (neg : Bool) (m : Nat) (e : Int) (l : Nat) (g : Int) : Res :=
  let k := f.fb + 4 + l.log2
  let n := m <<< k
  f.roundMag rm neg (n / l) (e - g - (k : Int)) (n % l != 0)

/-- `round_fp` of the exact square root of a non-zero magnitude. -/
def Fmt.sqrtMag (f : Fmt) (rm : Rm) (m : Nat) (e : Int) : Res :=
  let k0 := 2 * (f.fb + 4)
  let k := if (e - (k0 : Int)) % 2 == 0 then k0 else k0 + 1
  let n := m <<< k
  let r := n.sqrt
  f.roundMag rm false r ((e - (k : Int)) / 2) (r * r != n)

/-- `round_fp` of the exact reciprocal square root of a non-zero magnitude: 1 / sqrt(m * 2^e). -/
def Fmt.rsqrtMag (f : Fmt) (rm : Rm) (m : Nat) (e : Int) : Res :=
  let m' := if e % 2 == 0 then m else 2 * m
  let e' := if e % 2 == 0 then e else e - 1
  let k := f.fb + 4 + m'.log2
  -- floor(sqrt(2^(2k) / m')) is the greatest r with r * r * m' <= 2^(2k)
  let n := 2 ^ (2 * k) / m'
  let r := n.sqrt
  f.roundMag rm false r (-(e' / 2) - (k : Int)) (r * r * m' != 2 ^ (2 * k))

/-! ### Reference sequences (R95 to R98): FP32 bit patterns under RNE, no flags -/

def f32 (b : Nat) : Val := Fmt.fp32.decode b
def rne32 (v : Val) : Nat := (Fmt.fp32.round .rne v).bits
def addRne (a b : Nat) : Nat := rne32 (Val.add false (f32 a) (f32 b)).val
def subRne (a b : Nat) : Nat := rne32 (Val.add false (f32 a) (f32 b).neg).val
def mulRne (a b : Nat) : Nat := rne32 (Val.mul (f32 a) (f32 b)).val
def fmaRne (a b c : Nat) : Nat := rne32 (Val.fma false (f32 a) (f32 b) (f32 c)).val

/-- `div_rne` of finite operands with a non-zero divisor. -/
def divRne (a b : Nat) : Nat :=
  match f32 a, f32 b with
  | .num n m e, .num k l g => if m == 0 then (Fmt.fp32.signed (n != k) 0) else (Fmt.fp32.divMag .rne (n != k) m e l g).bits
  | .num n _ _, .inf k => Fmt.fp32.signed (n != k) 0
  | .inf n, .num k _ _ => Fmt.fp32.signed (n != k) Fmt.fp32.infBits
  | _, _ => Fmt.fp32.nanBits

/-- A value times 2^k. -/
def Val.scale (v : Val) (k : Int) : Val :=
  match v with
  | .nan s => .nan s
  | .inf n => .inf n
  | .num n m e => .num n m (e + k)

/-- `exp2_ref` (R96). -/
def exp2Ref (x : Nat) : Res :=
  match f32 x with
  | .nan s => ⟨Fmt.fp32.nanBits, Fl.nv.when s⟩
  | .inf true => ⟨0, 0⟩
  | .inf false => ⟨Fmt.fp32.infBits, 0⟩
  | .num n m e =>
    let v := Val.num n m e
    if (v.cmp (.num false 128 0)) != some .lt then ⟨Fmt.fp32.infBits, Fl.of ||| Fl.nx⟩
    else if v.cmp (.num true 150 0) == some .lt then ⟨0, Fl.uf ||| Fl.nx⟩
    else
      let q : Int := Rm.rne.round n (cutAt m e 0 false)
      let k := if n then -q else q
      let r := rne32 (Val.add false v (Val.ofInt (-k))).val
      let p := [0x3AAEC3FF, 0x3C1D955B, 0x3D635847, 0x3E75FDF0, 0x3F317218, 0x3F800000].foldl (fun p c => fmaRne p r c) 0x39218489
      let y := Fmt.fp32.round .rne ((f32 p).scale k)
      ⟨y.bits, y.fl ||| Fl.nx.when !(f32 r).isZero⟩

/-- `log2_ref` (R97): m lies in the exact interval from 2^-0.5 to 2^0.5. -/
def log2Ref (x : Nat) : Res :=
  match f32 x with
  | .nan s => ⟨Fmt.fp32.nanBits, Fl.nv.when s⟩
  | .inf true => ⟨Fmt.fp32.nanBits, Fl.nv⟩
  | .inf false => ⟨Fmt.fp32.infBits, 0⟩
  | .num n m e =>
    if m == 0 then ⟨Fmt.fp32.signed true Fmt.fp32.infBits, Fl.dz⟩
    else if n then ⟨Fmt.fp32.nanBits, Fl.nv⟩
    else
      let l := m.log2
      -- 1 <= m / 2^l < 2; it lies at or above 2^0.5 exactly when m * m >= 2 ^ (2 l + 1)
      let up := decide (2 ^ (2 * l + 1) ≤ m * m)
      let ex : Int := e + (l : Int) + (if up then 1 else 0)
      let mm : Val := .num false m (e - ex)
      let t := divRne (rne32 (Val.add false mm (Val.ofInt (-1))).val) (addRne (rne32 mm) 0x3F800000)
      let u := mulRne t t
      let q := [0x3ED30BB1, 0x3F13BB63, 0x3F76384F, 0x4038AA3B].foldl (fun q d => fmaRne q u d) 0x3EA4258A
      ⟨addRne (rne32 (Val.ofInt ex)) (mulRne t q), Fl.nx.when (m != 2 ^ l)⟩

/-- `tanh_ref` (R98). -/
def tanhRef (x : Nat) : Res :=
  let f := Fmt.fp32
  match f32 x with
  | .nan s => ⟨f.nanBits, Fl.nv.when s⟩
  | .inf n => ⟨f.signed n 0x3F800000, 0⟩
  | .num n m e =>
    let a := x % f.signBit
    let v := Val.num false m e
    if v.cmp (.num false 10 0) != some .lt then ⟨f.signed n 0x3F800000, Fl.nx⟩
    else if v.cmp (.num false 1 (-3)) != some .lt then
      let ex := (exp2Ref (mulRne a 0x4038AA3B)).bits
      ⟨f.signed n (divRne (subRne ex 0x3F800000) (addRne ex 0x3F800000)), Fl.nx⟩
    else if v.cmp (.num false 1 (-12)) != some .lt then
      let u := mulRne a a
      let q := [0xBD5D0DD1, 0x3E088889, 0xBEAAAAAB].foldl (fun q g => fmaRne q u g) 0x3CB327A4
      ⟨f.signed n (fmaRne (mulRne a u) q a), Fl.nx⟩
    else ⟨f.signed n a, (Fl.nx.when (m != 0)) ||| Fl.uf.when (f.isSubnormal a)⟩

end Sys2Proof.Machine
end

