-- ==== Sys2Proof/Config.lean ====
section
/-! DEFINITION. Config: the free values of the model (notes/assumptions 4, 6, 8 to 12, 59, 78): constants without a body, so that nothing can
be proved of their values. -/

namespace Sys2Proof.Config

/-- Which of several enabled events comes next: a free choice (log entry 4). -/
opaque pick : Nat → Nat

/-- How many timebase ticks a step takes: a free value (R3, R235, R345, R373; log entry 4). -/
opaque elapsedNs : Nat → Nat

/-- How many core cycles a step takes: a free value (log entry 4). -/
opaque elapsedCyc : Nat → Nat

/-- Whether both signatures of a rule image verify under its keys and the installed key slot (R340, R341; log entry 10). -/
opaque imageVerifies : List (BitVec 8) → Bool

/-- A byte that a walk, a queue word's read or a page's move takes from host memory or another package (log entry 6). -/
opaque outsideByte : Nat → Nat → BitVec 8

/-- Whether a granule of a transfer that faults was written before the fault, where R228 leaves the subset open (log entry 9). -/
opaque granuleDone : Nat → Nat → Bool

/-- Which links of a rejoining die to live neighbours carry frames again, by the step and the neighbour (R412; log entry 8). -/
opaque linkBack : Nat → Nat → Bool

/-- Whether a row of a bit-plane tile holds a byte at an offset of some bank: the order inside the banks is open (R205; log entry 12). -/
opaque planeByte : Nat → Nat → Bool

/-- The headroom that a core's die sensors report, for the thermal preference of R363 (log entry 11). -/
opaque headroom : Nat → Nat → Nat

/-- The first line of the area of each die's memory that holds the slots of continuation records (R142, R293; log entry 11). -/
opaque contBase : Nat

/-- The cell that AFIX's action 2 writes when n - Δr is no 128-bit integer, by that number (R89, R255): the spec states no result (log entry 59). -/
opaque freeCell : Int → BitVec 128

/-- The public-key hash that a rule-key slot holds after firmware has installed it at boot (R340; log entry 10). -/
opaque ruleKey : Nat → BitVec 384

/-- SHA-384, of which the spec gives the name alone (R340; log entry 10). -/
opaque sha384 : List (BitVec 8) → BitVec 384

/-- The measurement of the firmware image (R426; log entry 78). -/
opaque imageHash : BitVec 384

/-- The signature of a list of measurements by an identity key of the package: 0 RSA-3072, 1 SLH-DSA-SHA2-192s (R426; log entry 78). -/
opaque identitySigns : Fin 2 → List (BitVec 384) → List (BitVec 8)

end Sys2Proof.Config
end

