-- ==== Sys2Proof/Machine/Tab.lean ====
section
/-! DEFINITION. Tables by key, held as plain lists of pairs: reading, writing and removing an entry, and the helpers over vectors
that the state's accessors use. -/

namespace Sys2Proof.Machine

/-- A table by key: at most one entry for a key is ever read, the first. -/
abbrev Tab (κ α : Type) := List (κ × α)

/-- The entry of a key. -/
def tabGet? {κ α : Type} [DecidableEq κ] : Tab κ α → κ → Option α
  | [], _ => none
  | (k, v) :: t, j => if k = j then some v else tabGet? t j

/-- The entry of a key, or the value that an absent entry stands for. -/
def tabGet {κ α : Type} [DecidableEq κ] (t : Tab κ α) (j : κ) (d : α) : α := (tabGet? t j).getD d

/-- Writes the entry of a key. -/
def tabPut {κ α : Type} [DecidableEq κ] : Tab κ α → κ → α → Tab κ α
  | [], j, v => [(j, v)]
  | (k, w) :: t, j, v => if k = j then (j, v) :: t else (k, w) :: tabPut t j v

/-- Removes the entries of a key. -/
def tabDel {κ α : Type} [DecidableEq κ] (t : Tab κ α) (j : κ) : Tab κ α := t.filter fun p => !(decide (p.1 = j))

/-- All cores of a die. -/
def coresOf (d : Fin 4) : List CoreId := (List.finRange 48).map fun k => ⟨d, k⟩

/-- The context slots of a core. -/
def slotsOf (c : CoreId) : List CtxId := (List.finRange 4).map fun k => ⟨c, k⟩

/-- The die `k` places after `d` in the ring order of R8. -/
def dieAfter (d : Fin 4) (k : Nat) : Fin 4 := ⟨(d.val + k) % 4, Nat.mod_lt _ (by decide)⟩

/-- All four dies. -/
def allDies : List (Fin 4) := [0, 1, 2, 3]

/-- The low bits of a number as an index. -/
def fin4 (n : Nat) : Fin 4 := ⟨n % 4, Nat.mod_lt _ (by decide)⟩
def fin32 (n : Nat) : Fin 32 := ⟨n % 32, Nat.mod_lt _ (by decide)⟩
def fin48 (n : Nat) : Fin 48 := ⟨n % 48, Nat.mod_lt _ (by decide)⟩

/-- The values of a list without repeats, in order of first appearance. -/
def dedup {α : Type} [DecidableEq α] : List α → List α
  | [] => []
  | a :: l => a :: (dedup l).filter (fun b => !(decide (b = a)))

/-- Inserts a value before the first one that does not come before it. -/
def insertBy {α : Type} (le : α → α → Bool) (a : α) : List α → List α
  | [] => [a]
  | b :: l => if le a b then a :: b :: l else b :: insertBy le a l

/-- A list in ascending order, equal values in their order. -/
def sortBy {α : Type} (le : α → α → Bool) : List α → List α
  | [] => []
  | a :: l => insertBy le a (sortBy le l)

end Sys2Proof.Machine
end

