-- ==== Sys2Proof/Machine/Mem.lean ====
section
/-! DEFINITION. Device memory as cells in canonical form (spec/08 R1, R187, R209): addresses strictly rising and no cell equal to what
an unlisted address reads as. A cell's key is the die times 2^35 plus the storage offset (R182, R187). -/

namespace Sys2Proof.Machine

/-- What an unlisted byte reads as. The contents of LPDDR6 at cold start are undefined (R209); DESIGN CHOICE 0, log entry 1. -/
def unlisted : Byte := 0

/-- The byte at a key. -/
def cellRead : List Host.Cell → Nat → Byte
  | [], _ => unlisted
  | (a, b) :: t, k => if a = k then b else if k < a then unlisted else cellRead t k

/-- Writes the byte at a key, keeping the canonical form. -/
def cellWrite : List Host.Cell → Nat → Byte → List Host.Cell
  | [], k, v => if v = unlisted then [] else [(k, v)]
  | (a, b) :: t, k, v =>
    if k < a then (if v = unlisted then (a, b) :: t else (k, v) :: (a, b) :: t)
    else if k = a then (if v = unlisted then t else (k, v) :: t)
    else (a, b) :: cellWrite t k v

/-- The keys of a list all lie above a key. -/
def cellsAbove (k : Nat) : List Host.Cell → Bool
  | [] => true
  | (a, _) :: _ => decide (k < a)

/-- The canonical form. -/
def memWf : List Host.Cell → Bool
  | [] => true
  | (a, b) :: t => (!(b == unlisted)) && cellsAbove a t && memWf t

/-- `n` bytes from a key upward as a number, the byte at the lowest key in bits 7:0 (R1). -/
def memRead (m : List Host.Cell) (k : Nat) : Nat → Nat
  | 0 => 0
  | n + 1 => (cellRead m k).toNat + 256 * memRead m (k + 1) n

/-- Writes the low `n` bytes of a number from a key upward (R1). -/
def memWrite (m : List Host.Cell) (k : Nat) : Nat → Nat → List Host.Cell
  | 0, _ => m
  | n + 1, v => memWrite (cellWrite m k (BitVec.ofNat 8 v)) (k + 1) n (v / 256)

/-- The key of a storage offset of a die. -/
def memKey (d : Fin 4) (off : Nat) : Nat := d.val * 2 ^ 35 + off % 2 ^ 35

/-- The line of a storage offset of a die (R195). -/
def lineKey (d : Fin 4) (off : Nat) : Nat := memKey d off / 64

/-- The cells whose key a test keeps. -/
def memKeep (m : List Host.Cell) (f : Nat → Bool) : List Host.Cell := m.filter fun c => f c.1

end Sys2Proof.Machine
end

