-- ==== Sys2Proof/Machine/State.lean ====
section
/-! DEFINITION. The state of the DV4896 as plain data: contexts, cores, dies and the package (spec/05, 08, 12, 13, 14, 15, 16, 17),
its outcomes' reasons, and the state after reset. Fields marked MODEL are the model's own (notes/assumptions 4 to 8). -/

namespace Sys2Proof.Machine

/-! ### Outcomes -/

/-- Why the machine stops. The spec gives no behaviour that stops it. -/
inductive Fault where
  /-- Raised by `step` alone, when no die is live, testing or held and nothing from outside is due: no agent is left to take a step. Safe. -/
  | noLiveDie
  deriving DecidableEq, Repr

/-- Why an instruction has no meaning. -/
inductive Refusal where
  /-- The arm of an instruction that is not modelled, by its mnemonic; raised by `exec` alone. Safe. -/
  | notModelled (mnemonic : String)
  deriving DecidableEq, Repr

/-! ### Tiles -/

/-- A cell or checksum of an accumulator tile: n of R89 and the sticky bits O and I. -/
structure Cell where
  n : Int
  o : Bool
  i : Bool
  deriving DecidableEq, Repr

/-- The state of one accumulator tile (R201, R240). -/
structure Acc where
  q : Int
  cv : Bool
  cells : Vector Cell 1024
  rowck : Vector Cell 32
  colck : Vector Cell 32
  rcRow : Vector (BitVec 32) 32
  rcCol : Vector (BitVec 32) 32
  ckRow : Vector (BitVec 32) 32
  ckCol : Vector (BitVec 32) 32
  /-- Every checksum is poisoned (R207, R246). -/
  ckPois : Bool
  deriving DecidableEq, Repr

/-- A tile level (R204). -/
inductive Lvl where
  | s | a | d
  deriving DecidableEq, Repr

/-- The state of a tile table entry that is not free (R314, R315). `alloc`: allocated in program order, its banks not yet taken (R229).
`dying`: freed in program order while an entry that names it is incomplete (R230, R287). -/
inductive TileSt where
  | alloc
  | live
  | parked
  | spilled (slot : Nat)
  | discarded
  | dying
  deriving DecidableEq, Repr

/-- A tile: its table entry (R314) and its contents. `data` holds one number per row, elements packed from bit 0 (R76, R205);
`pois` has bit r set when row r is poisoned (R207). -/
structure Tile where
  tid : Nat
  dom : BitVec 12
  grp : BitVec 20
  ix : BitVec 6
  slot : Option (Fin 4)
  handle : Fin 32
  st : TileSt
  lvl : Lvl
  fmt : BitVec 4
  rows : Nat
  cols : Nat
  plane : Bool
  bs : Bool
  dense : Bool
  pitch : BitVec 16
  run : BitVec 3
  rot : BitVec 5
  banks : List (Fin 32)
  aslot : Option (Fin 8)
  unit0 : Nat
  units : Nat
  data : List Nat
  pois : Nat
  acc : Option Acc
  /-- When the owner was pre-empted, for the order of R316. -/
  since : Nat
  deriving DecidableEq, Repr

/-- A tile as an entry names it: a tile of its core's table, or a D tile of its group by handle (R224, R225). -/
inductive TRef where
  | own (tid : Nat)
  | grp (h : Fin 8)
  deriving DecidableEq, Repr

/-! ### Traps -/

/-- How a cause is delivered (R374). -/
inductive Delivery where
  | p | b | d | x
  deriving DecidableEq, Repr

/-- A cause with what its trap record reports (R379, R380). `opnd` holds OR0 and the words after it. -/
structure Trap where
  code : BitVec 8
  del : Delivery
  mask : BitVec 7
  va : BitVec 48
  opnd : List Word
  deriving DecidableEq, Repr

/-- Where a byte is performed: device memory of a die of this package at a storage offset, host memory, another package, or a
lost home (R182, R187, R192). -/
inductive Place where
  | mem (d : Fin 4) (off : Nat)
  | host (a : BitVec 48)
  /-- Another package, with the leaf's PL, PS and HD by which it finds the home. -/
  | pkg (p : Fin 4) (leaf : BitVec 6) (pa : BitVec 52)
  | lost (d : Fin 4)
  deriving DecidableEq, Repr

/-- A piece of a transfer's memory outside the package: its place, its bytes, the tag of its read, what the read returned with its poison
mark, and whether it found no home (R11, R192, R258, R266). -/
structure Piece where
  at_ : Place
  size : Nat
  tag : Nat
  got : Option (Nat × Bool)
  lost : Bool
  deriving DecidableEq, Repr

/-! ### The tile window (R278, R390) -/

inductive EntrySt where
  | pending | held | started | parked
  deriving DecidableEq, Repr

/-- An original of a rewritten entry: its PC and slot value (R278), with the operands it entered with. -/
structure Orig where
  pc : Pc
  slot : SlotBits
  sval : Word
  td : Option TRef
  ta : Option TRef
  tb : Option TRef
  frees : List TRef
  deriving DecidableEq, Repr

/-- A scale of the scale queue with its poison mark (R289). -/
structure Scale where
  v : BitVec 8
  pois : Bool
  deriving DecidableEq, Repr

/-- A window entry. -/
structure Entry where
  n : Nat
  pc : Pc
  fpc : BitVec 14
  rwp : Bool
  slot : SlotBits
  sval : Word
  /-- The layout record read at issue. -/
  lay : Vector Word 12
  st : EntrySt
  owed : Option Trap
  inh : Bool
  rule : Option (Fin 64)
  orig : List Orig
  /-- The fold exponents of R247 and whether a TSCALE is folded into A or B; the FPC that the folded TSCALE captured is the entry's
  own, since all originals captured the same (R283). -/
  phia : Int
  phib : Int
  folda : Bool
  foldb : Bool
  /-- The tile whose block-scale mark a folded operand takes: the one that the folded TSCALE would have written (R247, R250). -/
  marka : Option TRef
  markb : Option TRef
  /-- A copy that stands for a pair of transpositions: a poisoned row reaches every row, as in the pair (R284). -/
  spread : Bool
  dl : Option (BitVec 64)
  /-- Its deadline has been missed (R227). -/
  late : Bool
  prog : Nat
  /-- Core cycles when it entered (R285). -/
  at_ : Nat
  /-- It stands before the context's most recent flush point (R281). -/
  shut : Bool
  /-- It waits in the core's copy queue (R297). -/
  queued : Bool
  /-- Budget-parked (R299). -/
  bparked : Bool
  /-- The MMA debits that it, or the originals of its rewrite, have been charged (R245). -/
  paid : Nat
  /-- Its own debit has been charged (R245). -/
  charged : Bool
  /-- The tiles that D, A and B name. -/
  td : Option TRef
  ta : Option TRef
  tb : Option TRef
  /-- Tiles that are freed when it completes (last-use marks, TFREE; R230). -/
  frees : List TRef
  /-- The scales that an MMA's blocks have drawn since it started, oldest first (R241). -/
  drawn : List Scale
  /-- AF flags gathered so far (R121). -/
  fl : BitVec 5
  /-- The number of the entry at which its rewrite was made, plus one; 0 without one. The replacements share it, and the originals that come back
  (R287). -/
  gid : Nat
  /-- The reads outside the package of its present step (R258, R271). -/
  pieces : List Piece
  /-- The rows that have received poison in its transfer (R207, R208). -/
  xpois : Nat
  deriving DecidableEq, Repr

/-! ### Accesses -/

/-- What a translation gives an access: its leaf's PL, PS and HD, and the physical address (R182, R184). The home follows from it by the
placement sets, the hinge pairs and the dies in service, as they stand when the access is performed (R187 to R192, R274). -/
structure Loc where
  leaf : BitVec 6
  pa : BitVec 52
  deriving DecidableEq, Repr

/-- A scalar store in the gated buffer, translated (R61, R213). -/
structure GStore where
  va : BitVec 48
  size : Nat
  val : Word
  loc : Loc
  /-- A DREVOKE, a DKILL or a TLBINV waits for it (R331, R335). -/
  waited : Bool
  /-- A release: performed after every earlier access of its strand (R213, R264). -/
  rel : Bool
  deriving DecidableEq, Repr

/-- A counting flag of a core (R349). -/
structure FlagRef where
  core : CoreId
  f : Fin 32
  deriving DecidableEq, Repr

/-- What an access outside the package does at its home: a read, or an atomic by its opcode of R49 (R216, R218), or a steal of range chunks at
another die (R296). -/
inductive AskOp where
  | read
  | write
  | atomic (op : BitVec 8) (b c : Word)
  | steal (launch : Nat) (thief victim : Fin 4)
  deriving DecidableEq, Repr

/-- An access that a bundle asks for outside: it commits when the reply is there (R54, R214, R218, R266). `key` tells the accesses of one
bundle apart: 0 its scalar access, 1 and 2 the lines of a record that SPAWN reads, 3 and above a steal. -/
structure Ask where
  key : Nat
  op : AskOp
  at_ : Place
  size : Nat
  va : BitVec 48
  deriving DecidableEq, Repr

/-- A reply that a context holds for its bundle, by the access's key: the place of the access, the value and its poison mark. -/
structure Reply where
  key : Nat
  at_ : Place
  val : Nat
  pois : Bool
  deriving DecidableEq, Repr

/-- Who waits for a request outside: a context's bundle, its fetch of a bundle's bytes, a window entry, a posted store of a context or one of
its entries, another package. -/
inductive Who where
  | bundle (x : CtxId) (key : Nat) (va : BitVec 48)
  | fetch (x : CtxId) (va : BitVec 48)
  | piece (x : CtxId) (n : Nat)
  | store (x : CtxId) (n : Option Nat) (va : BitVec 48)
  | remote (f : FlowId) (tag : Word) (arg : BitVec 64)
  | nobody
  deriving DecidableEq, Repr

/-- A request that has left the package, or waits at its host port, by its tag: its place and who waits for it (R258, R260, R266). -/
structure Pend where
  tag : Nat
  at_ : Place
  size : Nat
  op : AskOp
  who : Who
  deriving DecidableEq, Repr

/-- What a context that issues nothing waits for. -/
inductive Wait where
  | none
  /-- FWAIT (R352, R353): the flag, the value, the encoded fields for the save record, whether it polls, and whether a post has
  satisfied it already (R43). -/
  | fwait (fl : FlagRef) (dead : Bool) (v : BitVec 32) (rt : Bool) (vdie : BitVec 2) (vcore : BitVec 6) (poll sat : Bool)
  | bar (k : Fin 4) (phase : Bool)
  | tmwait (tgt : BitVec 64)
  | fence
  /-- BAR waits for its own bundle's T entry before it arrives (R264). -/
  | arrive (k : Fin 4)
  /-- HALT's drain (R146). -/
  | halt
  /-- SUSPEND's drain before its record (R142). -/
  | suspend
  /-- The reply to a request of the context's bundle (R214, R218, R266, R296). -/
  | outside
  /-- DREVOKE, DKILL and TLBINV wait until every access of the domains that was under way when they acted has been performed: stores marked in gated
buffers, stalled ones, requests with a tag below `tag`; `free`: the domains then go (R331, R332, R335). -/
  | drain (doms : List (BitVec 12)) (tag : Nat) (free : Bool)
  /-- PGSTATE end waits for migration n and then writes its result (R336). -/
  | migrate (n : Nat) (sd : BitVec 5)
  deriving DecidableEq, Repr

/-- What stalls at a migrating page or a home that is awaited, in order of arrival (R194, R273, R397): a store that a context or one of its
entries has let go, a completion word of a launch. -/
inductive Stall where
  | store (x : CtxId) (src : Fin 4) (dom : BitVec 12) (grp : BitVec 20) (g : GStore)
  | word (dom : BitVec 12) (a group : Word)
  deriving DecidableEq, Repr

/-! ### The context -/

/-- A vector bank's power state (R110, R112). -/
inductive BankSt where
  | off | retention | full | waking
  deriving DecidableEq, Repr

structure VBank where
  st : BankSt
  /-- Core cycles of the last access. -/
  last : Nat
  /-- Core cycles at which a wake ends. -/
  ready : Nat
  /-- Core cycles of the kill that emptied it in retention (R110). -/
  killed : Nat
  deriving DecidableEq, Repr

/-- A register of a context by its file: physical for v and p. -/
inductive RegRef where
  | s (n : BitVec 5)
  | v (n : BitVec 5)
  | p (n : BitVec 4)
  deriving DecidableEq, Repr

/-- s0 and p0, which no operation changes (R101, R103). -/
def RegRef.const : RegRef → Bool
  | .s n => n == 0
  | .v _ => false
  | .p n => n == 0

/-- An operation in flight: the core cycle at which it completes, its destination, and the flags that then reach AF (R121). -/
structure Flight where
  due : Nat
  dst : RegRef
  fl : BitVec 5
  deriving DecidableEq, Repr

/-- RM, FTZ, EN (FPC[8:0]) and RWP as operations take them (R120). -/
structure Eff where
  fpc : BitVec 9
  rwp : Bool
  deriving DecidableEq, Repr

/-- What a region keeps of its first bundle (R61, R113). -/
structure Shadow where
  sreg : Vector Word 32
  preg : Vector PReg 16
  livev : BitVec 32
  livep : BitVec 16
  vrb : BitVec 4
  prb : BitVec 3
  lc : Word
  esc : BitVec 4
  lrp : BitVec 40
  lcs : Word
  deriving DecidableEq, Repr

/-- The restart region: `open_` none when the next bundle begins one (R60 to R62). -/
structure Region where
  start : Pc
  count : Nat
  shadow : Option Shadow
  stores : List GStore
  /-- Physical vector registers written inside it (R115). -/
  vw : BitVec 32
  deriving DecidableEq, Repr

/-- A pre-emption request of firmware: grade 0 suspension, 1 loop drain, 2 immediate (R385). -/
structure Preq where
  grade : Fin 3
  since : BitVec 64
  deriving DecidableEq, Repr

/-- A save in progress (R383, R388): its grade code (R389), whether the strand becomes Held, and for a reflection the handling
domain, its spill slot and the trap record. -/
structure Saving where
  grade : BitVec 2
  held : Bool
  refl : Option (BitVec 12 × Nat × List Word)
  deriving DecidableEq, Repr

/-- An FPOSTR that waits for earlier accesses (R264): its flag, its value, the entries of the window, the tag below which the strand's stores
to other packages must have been performed. -/
structure Post where
  fl : FlagRef
  v : BitVec 32
  after : List Nat
  tag : Nat
  deriving DecidableEq, Repr

/-- Who occupies a context slot. -/
inductive Occ where
  | idle
  | strand
  /-- A reflection strand of the handling domain `h` for the strand of slot `slot` (R383). -/
  | refl (h : BitVec 12) (slot : Nat)
  deriving DecidableEq, Repr

/-- What names a strand while it lives: a strand of a group, or a reflection strand by the slot that it serves (R383). -/
structure StrandId where
  occ : Occ
  grp : BitVec 20
  ix : BitVec 6
  deriving DecidableEq, Repr

/-- One context slot with the strand on it. -/
structure Ctx where
  occ : Occ
  sreg : Vector Word 32
  vreg : Vector VReg 32
  /-- Words of physical vector registers whose parity fails (R115). -/
  vpar : List (Fin 32 × Fin 32)
  preg : Vector PReg 16
  livev : BitVec 32
  livep : BitVec 16
  vbank : Vector VBank 8
  pc : Pc
  cbase : BitVec 48
  vrb : BitVec 4
  prb : BitVec 3
  lc : Word
  esc : BitVec 4
  lrp : BitVec 40
  lcs : Word
  tvb : BitVec 40
  trp : BitVec 48
  tcause : BitVec 16
  tepc : BitVec 40
  tscr : Word
  dom : BitVec 12
  depth : BitVec 4
  grp : BitVec 20
  strix : BitVec 6
  ebud : BitVec 32
  nf : Bool
  rwp : Bool
  te : Bool
  priv : Bool
  fpc : BitVec 14
  /-- Scalar and vector floating-point operations that have not completed, with their flags (R121, R152, R180). -/
  flight : List Flight
  /-- The core cycle in which its last bundle issued (R45). -/
  issued : Nat
  eff : Eff
  /-- The copies after the last three committed bundles, oldest first (R120). -/
  effq : Vector Eff 3
  pri : BitVec 3
  opreq : BitVec 3
  wdc : BitVec 32
  win : List Entry
  nextEntry : Nat
  /-- Core cycles when the window's first entry came to stand first (R236). -/
  headAt : Nat
  scq : List Scale
  hmap : Vector (Option Nat) 24
  sAllot : Nat
  aAllot : Nat
  wait : Wait
  /-- What the last bundle makes it wait for after that, in order. -/
  waits : List Wait
  /-- MODEL: a wait that an owed fault broke off after its bundle had committed: TRET goes back to it (R269, R381). -/
  resume : List Wait
  /-- The core cycle up to which YIELD stands aside (R145). -/
  yieldTo : Nat
  /-- When it last issued, in the core's issue order (R65, R359). -/
  lastIssue : Nat
  /-- MODEL: its bundle could not issue in the core's present cycle: it is not ready there (R359, R368). -/
  blocked : Bool
  /-- The next bundle is the first after a restore or a TRET (R381). -/
  fresh : Bool
  region : Region
  preq : Option Preq
  /-- A loop drain is in progress (R387). -/
  draining : Bool
  saving : Option Saving
  /-- A cause due at the next bundle boundary (R368). -/
  due : Option Trap
  /-- The copy pass and whether it is frozen (R298, R299). -/
  pass : Nat
  frozen : Bool
  /-- A T-slot bundle was held back at a full window since the last TSQLD entered (R242). -/
  fullHeld : Bool
  /-- A flush point issued since the last TSQLD entered (R242). -/
  flushed : Bool
  /-- The parked entry whose fault the current handler was given: TRET reissues it (R228, R381). -/
  delivered : Option Nat
  /-- MODEL: parts of its next bundle that have been fetched from outside, by address (R11). -/
  fetched : List (BitVec 48 × Nat)
  /-- MODEL: the replies that the context's bundle takes when it issues again (R54, R214). -/
  reply : List Reply
  /-- MODEL: its bundle whose access outside has left: it issues again with these bits (R54). -/
  again : Option (BitVec 320)
  /-- Deadline misses that are owed, as their entries stood (R227, R357). -/
  missed : List Entry
  posts : List Post
  deriving DecidableEq, Repr

/-! ### The core -/

/-- A scratchpad bank's power state (R200). -/
inductive SBankSt where
  | off | retention | full | waking | clearing
  deriving DecidableEq, Repr

structure SBank where
  st : SBankSt
  corr : BitVec 8
  failed : Bool
  deriving DecidableEq, Repr

/-- A TLB entry (R317): one 256 KiB granule of a domain. -/
structure Tlb where
  dom : BitVec 12
  vpn : BitVec 30
  dpn : BitVec 34
  ppn : BitVec 34
  r : Bool
  w : Bool
  x : Bool
  pl : BitVec 2
  ps : BitVec 2
  hd : BitVec 2
  st : BitVec 2
  hm : Bool
  dirty : Bool
  size : BitVec 2
  deriving DecidableEq, Repr

/-- A change of operating point that settles (R362). -/
structure Settle where
  target : BitVec 3
  /-- The slots whose requests caused it. -/
  by_ : List (Fin 4)
  /-- The slots whose requests have moved the target since it started: they cause the change that follows. -/
  next : List (Fin 4)
  deriving DecidableEq, Repr

/-- A spill command of the copy queue (R277, R391): the slot of a domain's spill area, the bytes, how many it has written. -/
structure Spill where
  dom : BitVec 12
  k : Nat
  val : Nat
  len : Nat
  prog : Nat
  deriving DecidableEq, Repr

structure Core where
  flags : Vector (BitVec 32) 32
  tiles : List Tile
  nextTid : Nat
  sbank : Vector SBank 32
  codeFailed : Vector Bool 2
  rules : Tab (Fin 64) (BitVec 256)
  deficits : Tab (BitVec 12) Int
  /-- EW of the last counted cycles, youngest first, at most 256 (R361). -/
  ews : List Nat
  opCur : BitVec 3
  settle : Option Settle
  slack : BitVec 32
  slackWaits : Nat
  /-- The copy queue: window entries, and spill commands (R277, R297). -/
  copyq : List (Fin 4 × Nat)
  spillq : List Spill
  tlb : List Tlb
  /-- Instruction-store copies: domain and bundle address with the bundle's bits (R5, R275). -/
  istore : Tab (BitVec 12 × BitVec 48) (BitVec 320)
  watches : List (Fin 4 × CtxId)
  cyc : Nat
  issueNo : Nat
  removed : Bool
  /-- When each throttle cause last gave an event, by domain and SUB (R366). -/
  thrAt : Tab (BitVec 12 × Throttle) Nat
  deriving DecidableEq, Repr

/-! ### Groups, launches and queues -/

/-- A strand of a group (R18). -/
inductive Member where
  | resident (x : CtxId)
  | suspended
  | saved
  | held
  | done
  deriving DecidableEq, Repr

structure Barrier where
  arrivals : Nat
  phase : Bool
  deriving DecidableEq, Repr

/-- An admitted group (R24). -/
structure Group where
  id : BitVec 20
  launch : Nat
  index : Nat
  dom : BitVec 12
  record : Vector Word 16
  members : List Member
  bars : Vector Barrier 4
  dt : Vector (Option Tile) 8
  deriving DecidableEq, Repr

/-- The unclaimed chunks of a die's share, and the open and inherited chunks (R32 to R34). -/
structure Share where
  die : Fin 4
  lo : Nat
  hi : Nat
  /-- Further ranges above [lo, hi), ascending. -/
  more : List (Nat × Nat)
  /-- Open chunks with the group and strand that hold them. -/
  held : List (Nat × BitVec 20 × BitVec 6)
  /-- Open chunks of a lost die, returned first (R34). -/
  again : List Nat
  /-- Chunks that a victim has handed over and its response has not brought yet (R33, R296). -/
  coming : List (Nat × Nat)
  deriving DecidableEq, Repr

/-- A dependence of a launch (R28): satisfied, or open on a flag; open on none when it is never satisfied (R44). -/
inductive DepSt where
  | met
  | open_ (fl : Option FlagRef)
  deriving DecidableEq, Repr

/-- A launch: its checked record, where it came from, its share state. -/
structure Launch where
  id : Nat
  record : Vector Word 16
  addr : BitVec 64
  dom : BitVec 12
  shares : List Share
  /-- The task set and level that submitted it, with the frame (R401, R405). -/
  ts : Option (BitVec 32)
  role : Option (Fin 4)
  /-- The state of its dependences (R28). -/
  dep : Vector DepSt 4
  /-- Groups that no die's queue holds yet: they stay offered (R29, R293). -/
  todo : List Nat
  posted : Nat
  deriving DecidableEq, Repr

/-- A launch entry of a die's ready queue (R293). -/
structure LaunchEntry where
  launch : Nat
  groups : List Nat
  arrival : Nat
  deriving DecidableEq, Repr

/-- A continuation entry with its record (R20, R293). -/
structure ContEntry where
  record : BitVec 512
  /-- The physical address of its reserved slot (log entry 11). -/
  addr : Word
  arrival : Nat
  held : Bool
  deriving DecidableEq, Repr

/-- A saved strand: its context save record (R389) and the parts of the context that the record leaves to other state (its tiles'
table numbers, its allotment, its group's code base): MODEL shadow, log entry 14. -/
structure Saved where
  words : List Word
  base : Ctx
  core : CoreId
  arrival : Nat
  held : Bool
  deriving DecidableEq, Repr

/-- A strand saved by a reflection in a spill slot of the handling domain (R383). -/
structure ReflSaved where
  h : BitVec 12
  slot : Nat
  base : Ctx
  held : Bool
  deriving DecidableEq, Repr

/-! ### The die -/

/-- A die's condition (R343). -/
inductive RegSt where
  | live | testing | lost | held
  deriving DecidableEq, Repr

/-- An entry of the containment-region table (R343). -/
structure RegionEntry where
  since : BitVec 64
  gen : BitVec 32
  reason : BitVec 16
  key : Bool
  st : RegSt
  deriving DecidableEq, Repr

/-- One epoch of a mirror area (R404, R407): the lines that task set `ts` copied from homes of `src`, by line number of the virtual
address, with their bytes and the narrow mark. -/
structure Mirror where
  src : Fin 4
  ts : BitVec 32
  epoch : Nat
  closed : Bool
  lines : List (Nat × Nat × Bool)
  deriving DecidableEq, Repr

/-- A rotating self-test: when it began (R415). -/
structure SelfTest where
  since : BitVec 64
  deriving DecidableEq, Repr

structure Die where
  regions : Vector RegionEntry 4
  tb : BitVec 64
  err : Vector (BitVec 32) 18
  req : Vector (BitVec 64) 4
  stc : Vector (BitVec 32) 5
  launchq : List LaunchEntry
  contq : List ContEntry
  saved : List Saved
  reflected : List ReflSaved
  groups : List Group
  tlb : List Tlb
  bbud : Tab (BitVec 12) (BitVec 32)
  hb : Vector (BitVec 64) 4
  /-- When it last sent a heartbeat (R394). -/
  hbSent : BitVec 64
  /-- When its links last exchanged timebase messages (R424). -/
  exchAt : BitVec 64
  /-- The last timebase message of its Rillen link: the stamp that it carried and the time of its receipt (R424). -/
  heardTb : Option (BitVec 64 × BitVec 64)
  /-- A core of the die has issued since its last start (R16, R17). -/
  hasRun : Bool
  mirror : List Mirror
  /-- The die that holds the complete copy of its mirrored pages apart from its hinge partner: the former partner while a copy to a new one is in
  progress, or the partner that it had when it went; the die itself where no other holds one (R190). -/
  recopy : Option (Fin 4)
  /-- Granules of mirrored pages written at this home (R190). -/
  mpages : List Nat
  ceil : BitVec 3
  thermAt : BitVec 64
  slackCeil : BitVec 3
  slackAt : BitVec 64
  /-- The die's last slack report and the timebase at it (R372). -/
  slackRep : Option (SlackRep × BitVec 64)
  test : Option SelfTest
  reinit : Bool
  /-- Remap reserve pieces in use, piece 0 and 1, with the set and slot they serve (R189). -/
  pieces : List (Fin 2 × Fin 4 × Fin 4)
  /-- The die has fenced its own ports (R394). -/
  fenced : Bool
  /-- Its Rillen link is trained (R422). -/
  rillen : Bool
  suspLim : BitVec 64
  drainLim : BitVec 64
  /-- The firmware's bank threshold (R369). -/
  bankThr : BitVec 8
  /-- Domains that have queued a lost-home event since the last loss (R192). -/
  lostSeen : List (BitVec 12)
  /-- The last bandwidth refill's period (R364). -/
  refillAt : Nat
  nextArrival : Nat
  deriving DecidableEq, Repr

/-! ### The package -/

/-- A range of a grant or of a composed table (R319), in granules of 256 KiB. -/
structure Range where
  dbase : BitVec 34
  pbase : BitVec 34
  count : BitVec 34
  x : Bool
  w : Bool
  r : Bool
  deriving DecidableEq, Repr

/-- A core of a domain's core map (R321). -/
structure MapEntry where
  core : CoreId
  vdie : BitVec 2
  vcore : BitVec 6
  deriving DecidableEq, Repr

/-- The firmware limits of a partition (R348). -/
structure Limits where
  opmax : BitVec 3
  slew : Nat
  bcap : BitVec 32
  wdlim : BitVec 8
  deriving DecidableEq, Repr

/-- A valid entry of the domain table (R321). -/
structure Dom where
  id : BitVec 12
  dying : Bool
  depth : BitVec 4
  parent : BitVec 12
  iw : BitVec 8
  bw : BitVec 8
  rallow : Bool
  ptrap : Bool
  dlog : Bool
  ceil : BitVec 2
  cmode : Bool
  eshare : BitVec 32
  ptroot : BitVec 52
  supcb : BitVec 48
  tbofs : BitVec 64
  eqbase : BitVec 52
  eqk : BitVec 5
  eqflag : BitVec 15
  dlk : BitVec 5
  dlbase : BitVec 52
  spill : BitVec 52
  slots : BitVec 12
  grants : List Range
  comp : List Range
  cores : List MapEntry
  acts : Tab (BitVec 8) (BitVec 2)
  /-- The limits, for a partition (depth 1). -/
  lim : Limits
  /-- The keyholder's timebase when strands of the domain were Held (R356). -/
  heldAt : Option (BitVec 64)
  /-- The strand that most recently executed FWAIT on EQFLAG (R367). -/
  evt : Option StrandId
  /-- Spill slots in use. -/
  used : List Nat
  /-- Cores that a loss or a split took from its core map (R397, R413). -/
  dropped : List CoreId
  deriving DecidableEq, Repr

/-- A slot of a placement set (R337). -/
structure PSlot where
  die : Fin 4
  rv : Bool
  rbase : BitVec 35
  deriving DecidableEq, Repr

structure PSet where
  sbase : BitVec 35
  ssize : BitVec 35
  slot : Vector PSlot 4
  deriving DecidableEq, Repr

/-- An entry of the VF binding table (R344). -/
structure VfBind where
  ceil : BitVec 2
  mode : Bool
  dom : BitVec 12
  deriving DecidableEq, Repr

/-- The queue registers of a VF (R301). -/
structure VfRegs where
  base : BitVec 52
  en : Bool
  lsz : BitVec 4
  tail : BitVec 12
  head : BitVec 12
  code : BitVec 8
  stall : Bool
  err : Bool
  deriving DecidableEq, Repr

/-- A message on the wire (R310): header, payload of LEN 16-byte units, CRC. -/
structure Wire where
  hdr : BitVec 128
  pay : BitVec 640
  crc : BitVec 32
  deriving DecidableEq, Repr

/-- A message in a flow's replay log (R312, R313). -/
structure Logged where
  wire : Wire
  acked : Bool
  at_ : BitVec 64
  deriving DecidableEq, Repr

/-- The state of one flow at its two ends, and the messages in transit on it (R310 to R313). -/
structure Flow where
  seq : BitVec 16
  expect : BitVec 16
  log : List Logged
  retries : Nat
  ackDue : Bool
  nakDue : Bool
  /-- A message has been accepted on it since its start: AV has something to carry (R310). -/
  heard : Bool
  /-- A NAK for the gap at `expect` has gone out (R311). -/
  nakSent : Bool
  transit : List Wire
  /-- Messages that wait for room in the replay log (R312): class-independent, in order, their SEQ not yet given. -/
  backlog : List Wire
  deriving DecidableEq, Repr

/-- A registered task set and where its frames stand (R342, R400 to R406). -/
structure TaskSet where
  reg : TaskSetReg
  active : Option (Fin 4)
  /-- Physical dies of the level's virtual dies, in order. -/
  map : List (Fin 4)
  frame : Nat
  /-- Launches of the running frame. -/
  running : List Nat
  /-- The last epoch whose checkpoint has been taken; the next one is open (R404). -/
  epoch : Nat
  /-- The frame that follows each epoch, youngest first (R401). -/
  frames : List (Nat × Nat)
  /-- The error sum of each die at the last frame (R369). -/
  errBase : Vector Nat 4
  /-- Restore and relaunch are due (R401). -/
  restore : Bool
  /-- Role submissions refused with code 10 (R401). -/
  refused : List RoleReg
  /-- An early checkpoint is due (R406). -/
  early : Bool
  /-- The frame is complete and its checkpoint is due (R405). -/
  ckptDue : Bool
  cold : Bool
  /-- When its work was stopped: its domain's TBOFS rises by the interval (R40, R356). -/
  stopped : Option (BitVec 64)
  deriving DecidableEq, Repr

/-- Where the start stands (R425 to R427). -/
inductive BootPh where
  | off | starting | running | recovery | failed
  deriving DecidableEq, Repr

structure Boot where
  /-- The two copies of the boot attempt counter in external flash. -/
  tries : Vector (BitVec 8) 2
  phase : BootPh
  step : BitVec 8
  auth : Bool
  recov : Bool
  triesReg : BitVec 8
  reason : BitVec 8
  since : BitVec 64
  /-- The dies whose warm reset has started and that are not rebuilt yet, with the keyholder's timebase at the mask ROM's first step (R7, R413,
  R427). -/
  warm : List (Fin 4 × BitVec 64)
  /-- The measurements of the firmware image and of every loaded rule image, oldest first (R426). -/
  measured : List (BitVec 384)
  deriving DecidableEq, Repr

/-- A page that PGSTATE end moves (R194, R336). -/
structure Migr where
  n : Nat
  dom : BitVec 12
  va : BitVec 48
  leaf : BitVec 64
  deriving DecidableEq, Repr

/-- What the package sends outside. -/
inductive Out where
  /-- A posted write to host memory. -/
  | hostWrite (a : BitVec 64) (size : Nat) (v : Nat)
  /-- A write of a granule of host memory of which only the bits of a mask are written: the port merges it as one access (R222, R259; log entry 6). -/
  | hostMerge (a : BitVec 64) (size : Nat) (v mask : Nat)
  /-- A read of host memory, with the tag of its request. -/
  | hostRead (tag : Nat) (a : BitVec 48) (size : Nat)
  /-- A PCIe AtomicOp (R218): the opcode of R49. -/
  | hostAtomic (tag : Nat) (op : BitVec 8) (a : BitVec 48) (size : Nat) (b c : Word)
  /-- A message to another package (R310). -/
  | message (f : FlowId) (w : Wire)
  /-- The MSI-X vector of a VF (R420). -/
  | msix (vf : Fin 1024)
  /-- Unsupported Request status for a host request (R419). -/
  | unsupported (tag : Nat)
  /-- Completer Abort status for a closed host port's requests (R10). -/
  | completerAbort (d : Fin 4)
  deriving DecidableEq, Repr

/-! ### The bundle in progress (MODEL) -/

/-- A cause that a slot raised. -/
structure SlotFault where
  sl : SlotId
  trap : Trap
  deriving DecidableEq, Repr

/-- An effect of a bundle that stands even when the bundle commits nothing: a walk (its A and D updates, R186), a count of an error
counter (R369), a request counted (R370). -/
inductive Sticky where
  | walk (dom : BitVec 12) (va : BitVec 48) (acc : Access)
  | count (d : Fin 4) (k : Fin 18)
  | request (d : Fin 4) (p : Place)
  /-- An access to a lost home: its count and its event (R192). -/
  | lost (d : Fin 4) (va : BitVec 48)
  /-- A VT access to a tile: a flush point for the entries that name it, and its wake or reload (R175, R286). -/
  | touch (r : TRef)
  /-- An MMA stalls at EBUD = 0 (R366). -/
  | throttle (t : Throttle)
  deriving DecidableEq, Repr

/-- What a control transfer or the strand instructions leave for the end of the bundle. -/
inductive After where
  | next
  | goto (pc : Pc)
  /-- TRAP (R147): the software trap follows the bundle. -/
  | trap (code : BitVec 16)
  /-- TRET (R148). -/
  | tret
  /-- SUSPEND (R142). -/
  | suspend
  /-- YIELD (R145). -/
  | yield
  /-- HALT (R146). -/
  | halt
  deriving DecidableEq, Repr

/-- The bundle whose slots are being executed: the context as the bundle reads it (R53), and what the slots have gathered. -/
structure Frame where
  pre : Ctx
  /-- The bundle's 320 bits. -/
  bits : BitVec 320
  faults : List SlotFault
  sticky : List Sticky
  after : After
  /-- Its operations that raise flags (R121). -/
  flight : List Flight
  /-- The core cycle in which it issues. -/
  cyc : Nat
  /-- A slot cannot issue yet: the bundle waits (R111, R175, R194, R245, R261, R279). -/
  stall : Bool
  /-- Like `stall`, for a reason that keeps the bundle from issuing at all: a bank that wakes, a busy or sleeping tile, a full window, an
exhausted energy budget (R111, R175, R245, R279). -/
  unissued : Bool
  /-- What the context waits for before the bundle can issue again. -/
  park : Wait
  /-- The access outside whose reply the bundle needs. -/
  ask : Option Ask
  /-- A full window holds the bundle back (R242, R279). -/
  fullHold : Bool
  /-- A loop drain becomes an immediate pre-emption at the boundary before the bundle (R387). -/
  escalate : Bool
  /-- Physical registers read with a last-use mark and registers written (R106). -/
  killv : BitVec 32
  killp : BitVec 16
  wrv : BitVec 32
  wrp : BitVec 16
  readv : BitVec 32
  /-- Registers that a CSR write kills (R109). -/
  csrv : BitVec 32
  csrp : BitVec 16
  /-- The bundle ends its region (R60). -/
  endsRegion : Bool
  /-- The stores that it places in the gated buffer (R62). -/
  stores : List GStore
  /-- It holds a scalar store, whether or not it succeeds (R62). -/
  storing : Bool
  /-- It holds an acquire load, which ends a region that holds stores (R262). -/
  acquire : Bool
  /-- It needs the region's stores performed before its own access (R143, R217, R269, R327). -/
  drains : Bool
  /-- Flush points of the bundle (R286). -/
  flushBefore : Bool
  flushAfter : Bool
  /-- FWAIT on this flag of its own core (R352, R381). -/
  waitsOn : Option (Fin 32)
  /-- Tiles that a T entry or VT instruction names (R381). -/
  names : List TRef
  /-- Entries for which a scalar access or an ordering operation of the bundle waits (R261, R264). -/
  waitsXfer : List Nat
  /-- The T entry to enter the window. -/
  entry : Option Entry
  deriving DecidableEq, Repr

/-- What an issue choice enters in its core's counters once its primary's bundle issues: the new deficits, the cycle's EW, the contexts that are
ready in it (R359, R361, R368). -/
structure Account where
  /-- The bundle issues in place of a stall bundle and is entered as EW 0 (R367). -/
  free : Bool
  /-- The contexts among which the choice was made. -/
  ready : List CtxId
  deriving DecidableEq, Repr

/-! ### The machine -/

structure State where
  /-- MODEL: the focused context and its number; the other occupied or used slots are in `ctxs`. -/
  cur : CtxId
  ctx : Ctx
  ctxs : Tab CtxId Ctx
  /-- MODEL: the bundle whose slots are being executed. -/
  frame : Option Frame
  /-- MODEL: the focused context's bundle issues at the next step. -/
  turn : Bool
  /-- MODEL: the second context chosen to merge, that issues after the first (R65). -/
  second : Option CtxId
  /-- MODEL: the counted cycle of the choice whose primary has the turn. -/
  acct : Option Account
  /-- MODEL: events that outside agents cause, in order of arrival. -/
  agenda : List Instr
  /-- MODEL: what the package has sent outside, oldest first. -/
  outbox : List Out
  /-- Requests outside the package whose replies have not come, oldest first, and the next tag (R258, R266). -/
  pend : List Pend
  nextTag : Nat
  /-- Accesses that stall at a migrating page (R194). -/
  stalls : List Stall
  /-- MODEL: masks of partial granule writes of other packages whose bytes are still to come, by package and tag (R222; log entry 15). -/
  masks : List (Fin 4 × Word × Nat)
  /-- MODEL: steps taken, the argument of the free choices. -/
  clk : Nat
  pkg : Fin 4
  mem : List Host.Cell
  /-- Poisoned 64-byte lines of device memory, by package line number (R207). -/
  poison : List Nat
  /-- Ranges of poisoned lines, from and below, of remapped slots (R192). -/
  poisonAll : List (Nat × Nat)
  /-- Lines with changed symbols that no read or scrub has met (R196). -/
  latent : Tab Nat Nat
  cores : Tab CoreId Core
  dies : Vector Die 4
  doms : Tab (BitVec 12) Dom
  psets : Vector PSet 4
  vfb : Tab (Fin 1024) VfBind
  vfr : Tab (Fin 1024) VfRegs
  launches : List Launch
  nextLaunch : Nat
  nextGroup : Nat
  tasksets : List TaskSet
  flows : Tab FlowId Flow
  /-- Ring links 0-1, 1-2, 2-3, 3-0 that are up (R9). -/
  links : Vector Bool 4
  boot : Boot
  migrs : List Migr
  nextMigr : Nat
  /-- The rule-key slots that firmware installs at boot (R340). -/
  ruleKeys : Vector (BitVec 384) 8
  /-- The last energy refill's period (R360). -/
  energyAt : Nat
  /-- Flags of registered box collectives (R372). -/
  slackFlags : List FlagRef
  /-- The dies of this package that are members of a registered box collective (R372). -/
  slackMembers : List (Fin 4)
  /-- The die that was last tested, and when its test began (R414). -/
  tested : Option (Fin 4)
  testAt : BitVec 64
  /-- The routing table (R15, R423): the flow that requests to another package take, directly or through a relay; none when it is unreachable. -/
  route : Vector (Option FlowId) 4
  /-- The package has loaded the timebase of the box's master (R17). -/
  tbSynced : Bool
  /-- Ticks by which the package's timebase is still behind the master's, to be made up by its rate (R424). -/
  tbOff : Int
  deriving DecidableEq, Repr

/-! ### Reset -/

def VBank.reset : VBank := ⟨.off, 0, 0, 0⟩
def Eff.reset : Eff := ⟨0, false⟩

/-- A context slot that no strand has occupied (R112, R117 to R119; values without a reset in the spec: log entry 2). -/
def Ctx.reset : Ctx where
  occ := .idle
  sreg := Vector.replicate 32 0
  vreg := Vector.replicate 32 0
  vpar := []
  preg := Vector.replicate 16 0
  livev := 0
  livep := 1
  vbank := Vector.replicate 8 VBank.reset
  pc := 0
  cbase := 0
  vrb := 0
  prb := 0
  lc := 0
  esc := 0
  lrp := 0
  lcs := 0
  tvb := 0
  trp := 0
  tcause := 0
  tepc := 0
  tscr := 0
  dom := 0
  depth := 0
  grp := 0
  strix := 0
  ebud := 0
  nf := false
  rwp := false
  te := true
  priv := false
  fpc := 0
  flight := []
  issued := 0
  eff := Eff.reset
  effq := Vector.replicate 3 Eff.reset
  pri := 0
  opreq := 6
  wdc := 0
  win := []
  nextEntry := 0
  headAt := 0
  scq := []
  hmap := Vector.replicate 24 none
  sAllot := 0
  aAllot := 0
  wait := .none
  waits := []
  resume := []
  yieldTo := 0
  lastIssue := 0
  blocked := false
  fresh := false
  region := ⟨0, 0, none, [], 0⟩
  preq := none
  draining := false
  saving := none
  due := none
  pass := 0
  frozen := false
  fullHeld := false
  flushed := false
  delivered := none
  fetched := []
  reply := []
  again := none
  missed := []
  posts := []

def Core.reset : Core where
  flags := Vector.replicate 32 0
  tiles := []
  nextTid := 0
  sbank := Vector.replicate 32 ⟨.off, 0, false⟩
  codeFailed := Vector.replicate 2 false
  rules := []
  deficits := []
  ews := []
  opCur := 6
  settle := none
  slack := 0
  slackWaits := 0
  copyq := []
  spillq := []
  tlb := []
  istore := []
  watches := []
  cyc := 0
  issueNo := 0
  removed := false
  thrAt := []

def RegionEntry.reset : RegionEntry := ⟨0, 0, 0, false, .live⟩

def Die.reset : Die where
  regions := Vector.replicate 4 RegionEntry.reset
  tb := 0
  err := Vector.replicate 18 0
  req := Vector.replicate 4 0
  stc := Vector.replicate 5 0
  launchq := []
  contq := []
  saved := []
  reflected := []
  groups := []
  tlb := []
  bbud := []
  hb := Vector.replicate 4 0
  hbSent := 0
  exchAt := 0
  heardTb := none
  hasRun := false
  mirror := []
  recopy := none
  mpages := []
  ceil := 7
  thermAt := 0
  slackCeil := 7
  slackAt := 0
  slackRep := none
  test := none
  reinit := false
  pieces := []
  fenced := false
  rillen := false
  suspLim := 100000
  drainLim := 20000
  bankThr := 32
  lostSeen := []
  refillAt := 0
  nextArrival := 0

/-- The defaults of R445. -/
def Limits.default : Limits := ⟨7, 7936, 0, 0⟩

/-- The root as the domain table holds it when firmware writes it at boot (R321), before it has its ranges. -/
def Dom.root : Dom where
  id := 0
  dying := false
  depth := 0
  parent := 0
  iw := 255
  bw := 255
  rallow := false
  ptrap := false
  dlog := false
  ceil := 0
  cmode := false
  eshare := 0xFFFFFFFF
  ptroot := 0
  supcb := 0
  tbofs := 0
  eqbase := 0
  eqk := 0
  eqflag := 0
  dlk := 0
  dlbase := 0
  spill := 0
  slots := 0
  grants := []
  comp := []
  cores := []
  acts := []
  lim := Limits.default
  heldAt := none
  evt := none
  used := []
  dropped := []

def PSet.reset : PSet := ⟨0, 0, Vector.replicate 4 ⟨0, false, 0⟩⟩

def VfBind.reset : VfBind := ⟨0, false, 0⟩
def VfRegs.reset : VfRegs := ⟨0, false, 0, 0, 0, 0, false, false⟩
def Flow.reset : Flow := ⟨0, 0, [], 0, false, false, false, false, [], []⟩

/-- The counter of the boot record is in flash: 0 before the first start (log entry 2). -/
def Boot.reset : Boot := ⟨Vector.replicate 2 0, .off, 0, false, false, 0, 0, 0, [], []⟩

/-- The package right after power-on reset: every table and queue at its reset value, memory with nothing listed, the mask ROM's
start still to come (R7, R209, R277, R343, R347, R425). -/
def State.reset : State where
  cur := ⟨⟨0, 0⟩, 0⟩
  ctx := Ctx.reset
  ctxs := []
  frame := none
  turn := false
  second := none
  acct := none
  agenda := []
  outbox := []
  pend := []
  nextTag := 0
  stalls := []
  masks := []
  clk := 0
  pkg := 0
  mem := []
  poison := []
  poisonAll := []
  latent := []
  cores := []
  dies := Vector.replicate 4 Die.reset
  doms := []
  psets := Vector.replicate 4 PSet.reset
  vfb := []
  vfr := []
  launches := []
  nextLaunch := 0
  nextGroup := 0
  tasksets := []
  flows := []
  links := Vector.replicate 4 true
  boot := Boot.reset
  migrs := []
  nextMigr := 0
  ruleKeys := Vector.replicate 8 0
  energyAt := 0
  slackFlags := []
  slackMembers := []
  tested := none
  testAt := 0
  route := Vector.replicate 4 none
  tbSynced := false
  tbOff := 0

end Sys2Proof.Machine
end

