-- ==== Sys2Proof/Machine/Access.lean ====
section
/-! DEFINITION. Accessors: contexts, cores, dies, domains, register files and rotation (spec/05 R100 to R109), the domain tree
(spec/13 R321, R326), die conditions and the keyholder (spec/01 R8, spec/16 R403), error counters (spec/14 R369). -/

namespace Sys2Proof.Machine

/-! ### Contexts, cores, dies -/

/-- The context of a slot. -/
def ctxAt (s : State) (x : CtxId) : Ctx := if x = s.cur then s.ctx else tabGet s.ctxs x Ctx.reset

/-- Writes the context of a slot. -/
def putCtx (s : State) (x : CtxId) (c : Ctx) : State :=
  if x = s.cur then { s with ctx := c } else { s with ctxs := tabPut s.ctxs x c }

def modCtx (s : State) (x : CtxId) (f : Ctx → Ctx) : State := putCtx s x (f (ctxAt s x))

/-- Brings a slot into focus. -/
def focusOn (s : State) (x : CtxId) : State :=
  if x = s.cur then s
  else { s with ctxs := tabDel (tabPut s.ctxs s.cur s.ctx) x, cur := x, ctx := tabGet s.ctxs x Ctx.reset }

def coreAt (s : State) (c : CoreId) : Core := tabGet s.cores c Core.reset
def putCore (s : State) (c : CoreId) (k : Core) : State := { s with cores := tabPut s.cores c k }
def modCore (s : State) (c : CoreId) (f : Core → Core) : State := putCore s c (f (coreAt s c))

def dieAt (s : State) (d : Fin 4) : Die := s.dies[d.val]
def putDie (s : State) (d : Fin 4) (x : Die) : State := { s with dies := s.dies.set d.val x }
def modDie (s : State) (d : Fin 4) (f : Die → Die) : State := putDie s d (f (dieAt s d))

/-- Every slot whose context the state lists, the focused one included. -/
def allCtx (s : State) : List CtxId := s.cur :: (s.ctxs.map Prod.fst).filter fun x => !(decide (x = s.cur))

def Ctx.occupied (c : Ctx) : Bool := !(c.occ == .idle)

/-- Occupied contexts of a core, lowest slot first. -/
def residents (s : State) (c : CoreId) : List CtxId := (slotsOf c).filter fun x => (ctxAt s x).occupied

/-- All occupied contexts. -/
def allResidents (s : State) : List CtxId := (allCtx s).filter fun x => (ctxAt s x).occupied

/-! ### Error counters -/

/-- A 32-bit saturating increment (R369). -/
def satInc (b : BitVec 32) : BitVec 32 := if b == 0xFFFFFFFF then b else b + 1

/-- A saturating addition of 32 bits (R350). -/
def satAdd (b v : BitVec 32) : BitVec 32 := BitVec.ofNat 32 (Nat.min (b.toNat + v.toNat) 0xFFFFFFFF)

/-- One increment of error counter k of a die (R369). -/
def countErr (s : State) (d : Fin 4) (k : Fin 18) : State :=
  modDie s d fun x => { x with err := x.err.set k.val (satInc x.err[k.val]) }

/-- n increments of error counter k of a die (R369). -/
def countErrs (s : State) (d : Fin 4) (k : Fin 18) (n : Nat) : State :=
  modDie s d fun x => { x with err := x.err.set k.val (BitVec.ofNat 32 (Nat.min (x.err[k.val].toNat + n) 0xFFFFFFFF)) }

/-- One increment of request counter k of a die (R370). -/
def countReq (s : State) (d : Fin 4) (k : Fin 4) : State :=
  modDie s d fun x => { x with req := x.req.set k.val (x.req[k.val] + 1) }

/-! ### Register files -/

/-- s0 reads as zero (R100). -/
def Ctx.s (c : Ctx) (n : BitVec 5) : Word := if n = 0 then 0 else c.sreg[n.toNat]'n.isLt

/-- A write to s0 is discarded (R100). -/
def Ctx.setS (c : Ctx) (n : BitVec 5) (v : Word) : Ctx :=
  if n = 0 then c else { c with sreg := c.sreg.set n.toNat v n.isLt }

/-- The physical vector register of an encoded number (R104). -/
def physV (vrb : BitVec 4) (n : BitVec 5) : BitVec 5 :=
  if n.toNat < 16 then n else 16 ||| (n.setWidth 4 + vrb).setWidth 5

/-- The physical predicate register of an encoded number (R104). -/
def physP (prb : BitVec 3) (n : BitVec 4) : BitVec 4 :=
  if n.toNat < 8 then n else 8 ||| (n.setWidth 3 + prb).setWidth 4

/-- Whether bit n of a mask is set. -/
def bitOn {w : Nat} (m : BitVec w) (n : Nat) : Bool := m.getLsbD n

/-- A mask of one bit. -/
def oneBit (w n : Nat) : BitVec w := 1#w <<< n

/-- A predicate as it reads: p0 all ones (R103), a dead predicate all zeros (R108). -/
def Ctx.p (c : Ctx) (n : BitVec 4) : PReg :=
  let k := physP c.prb n
  if k = 0 then BitVec.allOnes 128
  else if bitOn c.livep k.toNat then c.preg[k.toNat]'k.isLt else 0

/-- The contents of the physical register of an encoded vector number. -/
def Ctx.v (c : Ctx) (n : BitVec 5) : VReg :=
  let k := physV c.vrb n
  c.vreg[k.toNat]'k.isLt

/-- Whether the named vector register is live (R106). -/
def Ctx.vLive (c : Ctx) (n : BitVec 5) : Bool := bitOn c.livev (physV c.vrb n).toNat

/-! ### Control and status registers -/

/-- CST as CSRR reads it (R118). -/
def Ctx.cst (c : Ctx) : Word :=
  BitVec.ofNat 64 ((if c.nf then 128 else 0) + (if c.rwp then 64 else 0) + (if c.te then 4 else 0) + (if c.priv then 1 else 0))

/-- The low nine bits of FPC as operations take them now (R120). -/
def Ctx.rm (c : Ctx) : BitVec 3 := c.eff.fpc.setWidth 3
def Ctx.ftz (c : Ctx) : Bool := c.eff.fpc.getLsbD 3
/-- The trap enables EN (R119). -/
def Ctx.en (c : Ctx) : BitVec 5 := c.eff.fpc.extractLsb' 4 5

/-- The copy that a context's CSRs give (R120). -/
def Ctx.effNow (c : Ctx) : Eff := ⟨c.fpc.setWidth 9, c.rwp⟩

/-- Trap delivery, TRET, take-up and restore make the effective copy equal to the CSR at once (R120). -/
def Ctx.syncEff (c : Ctx) : Ctx := { c with eff := c.effNow, effq := Vector.replicate 3 c.effNow }

/-- ORs flags into AF (R121). -/
def Ctx.accrue (c : Ctx) (fl : BitVec 5) : Ctx := { c with fpc := c.fpc ||| (fl.setWidth 14 <<< 9) }

/-- The flags of the operations that completed before core cycle `cyc` reach AF (R121). -/
def Ctx.landFlags (c : Ctx) (cyc : Nat) : Ctx :=
  { c.accrue ((c.flight.filter fun p => decide (p.due < cyc)).foldl (fun a p => a ||| p.fl) 0) with
    flight := c.flight.filter fun p => !decide (p.due < cyc) }

/-- Every operation in flight completes (R121). -/
def Ctx.landAll (c : Ctx) : Ctx := { c.accrue (c.flight.foldl (fun a p => a ||| p.fl) 0) with flight := [] }

/-! ### Waits -/

/-- The context waits for something, after what its bundle makes it wait for already. -/
def Ctx.awaits (c : Ctx) (w : Wait) : Ctx := if c.wait == .none then { c with wait := w } else { c with waits := c.waits ++ [w] }

/-- A wait ends: the next one follows. Its end is a progress event (R368). -/
def Ctx.nextWait (c : Ctx) : Ctx := { c with wait := c.waits.headD .none, waits := c.waits.tail, wdc := 0 }

/-- An owed fault breaks the waits off; TRET goes back to them (R381). -/
def Ctx.breakWait (c : Ctx) : Ctx := { c with wait := .none, waits := [], resume := c.wait :: c.waits, fresh := true }

/-- The waits that a fault broke off begin again. -/
def Ctx.resumeWait (c : Ctx) : Ctx := { c with wait := c.resume.headD .none, waits := c.resume.tail, resume := [] }

/-! ### The domain tree -/

/-- A valid domain. -/
def domAt? (s : State) (d : BitVec 12) : Option Dom := tabGet? s.doms d

/-- A domain's entry; the root's for an entry that is not valid. -/
def domAt (s : State) (d : BitVec 12) : Dom := tabGet s.doms d Dom.root

def putDom (s : State) (x : Dom) : State := { s with doms := tabPut s.doms x.id x }
def modDom (s : State) (d : BitVec 12) (f : Dom → Dom) : State :=
  match domAt? s d with
  | some x => putDom s (f x)
  | none => s

/-- The ancestors of a domain, nearest first, at most `n`. -/
def ancestorsN (s : State) : Nat → BitVec 12 → List (BitVec 12)
  | 0, _ => []
  | n + 1, d => if d = 0 then [] else let p := (domAt s d).parent
    p :: ancestorsN s n p

/-- The ancestors of a domain (R38: depth at most 8). -/
def ancestors (s : State) (d : BitVec 12) : List (BitVec 12) := ancestorsN s 8 d

/-- d is a proper descendant of a. -/
def isDescendant (s : State) (a d : BitVec 12) : Bool := (domAt? s d).isSome && (ancestors s d).contains a

/-- d is a, or a descendant of a. -/
def isSelfOrBelow (s : State) (a d : BitVec 12) : Bool := d == a || isDescendant s a d

/-- The valid domains below a domain. -/
def descendants (s : State) (a : BitVec 12) : List (BitVec 12) := (s.doms.map Prod.fst).filter fun d => isDescendant s a d

/-- The children of a domain. -/
def children (s : State) (a : BitVec 12) : List (BitVec 12) :=
  (s.doms.filter fun p => p.2.parent == a && !(p.1 == 0)).map Prod.fst

/-- The partition that a domain belongs to: itself at depth 1, the root for the root (R38). -/
def partitionOf (s : State) (d : BitVec 12) : BitVec 12 :=
  match (d :: ancestors s d).filter fun a => (domAt s a).depth == 1 with
  | a :: _ => a
  | [] => 0

/-- The limits that apply to a domain (R348). -/
def limitsOf (s : State) (d : BitVec 12) : Limits := (domAt s (partitionOf s d)).lim

/-- A domain's view of a physical core (R40, R321). -/
def virtOf (s : State) (d : BitVec 12) (c : CoreId) : Option MapEntry := (domAt s d).cores.find? fun m => m.core == c

/-- The physical core of a virtual one (R40, R351). -/
def physOf (s : State) (d : BitVec 12) (vdie : BitVec 2) (vcore : BitVec 6) : Option CoreId :=
  ((domAt s d).cores.find? fun m => m.vdie == vdie && m.vcore == vcore).map MapEntry.core

/-- The physical die of a virtual one. -/
def physDie (s : State) (d : BitVec 12) (vdie : BitVec 2) : Option (Fin 4) :=
  ((domAt s d).cores.find? fun m => m.vdie == vdie).map fun m => m.core.die

/-- The physical dies that a domain holds, ascending. -/
def diesOf (s : State) (d : BitVec 12) : List (Fin 4) := allDies.filter fun i => (domAt s d).cores.any fun m => m.core.die == i

/-- The domain's cores on a die. -/
def coresOn (s : State) (d : BitVec 12) (i : Fin 4) : List CoreId :=
  ((domAt s d).cores.filter fun m => m.core.die == i).map MapEntry.core

/-! ### Dies -/

/-- The die whose copy of the containment-region table rules: the one that its own copy names keyholder (R8, R343). -/
def keyDie (s : State) : Fin 4 :=
  let key (d : Fin 4) : Bool := (dieAt s d).regions[d.val].key
  let out (d : Fin 4) : Bool := (dieAt s d).regions[d.val].st == .lost || (dieAt s d).regions[d.val].st == .held
  ((allDies.find? fun d => key d && !out d) <|> allDies.find? key).getD 0

/-- The condition of a die. -/
def regSt (s : State) (d : Fin 4) : RegSt := (dieAt s (keyDie s)).regions[d.val].st

def isLive (s : State) (d : Fin 4) : Bool := regSt s d == .live

/-- A live or testing die performs requests at its homes (R397, R415). -/
def serves (s : State) (d : Fin 4) : Bool := (regSt s d == .live || regSt s d == .testing) && !(dieAt s d).fenced

/-- The hinge partner of a die (R403). -/
def hingePartner (s : State) (d : Fin 4) : Option (Fin 4) :=
  [dieAfter d 1, dieAfter d 2, dieAfter d 3].find? fun i => regSt s i == .live || regSt s i == .testing

/-- The host port in use: die 0's while that die serves its ports, else die 2's (R10, R266, R415). -/
def hostPort (s : State) : Option (Fin 4) := if serves s 0 then some 0 else if serves s 2 then some 2 else none

/-! ### The ring (R9) -/

/-- The direct link between two adjacent dies is up. -/
def linkUp (s : State) (a b : Fin 4) : Bool :=
  if dieAfter a 1 = b then s.links[a.val] else if dieAfter b 1 = a then s.links[b.val] else false

/-- A die passes on traffic between its neighbours: it is live (R9). A die under test counts too: its ports stay in service, and R416 calls it back for
every loss or split (DESIGN CHOICE, log entry 72). -/
def passesOn (s : State) (m : Fin 4) : Bool := serves s m

/-- The two-hop path through die m is open. -/
def viaUp (s : State) (a m b : Fin 4) : Bool := passesOn s m && linkUp s a m && linkUp s m b

/-- Traffic between two dies has an open path: the direct link of adjacent dies or, when it is down, the way round; either two-hop path of
opposite ones (R9). -/
def pathUp (s : State) (a b : Fin 4) : Bool :=
  if a = b then true
  else if dieAfter a 2 = b then viaUp s a (dieAfter a 1) b || viaUp s a (dieAfter a 3) b
  else if linkUp s a b then true
  else
    let far := if dieAfter a 1 = b then [dieAfter a 3, dieAfter a 2] else [dieAfter a 1, dieAfter a 2]
    match far with
    | [m, n] => passesOn s m && passesOn s n && linkUp s a m && linkUp s m n && linkUp s n b
    | _ => false

/-- The timebase of a die. -/
def tbOf (s : State) (d : Fin 4) : BitVec 64 := (dieAt s d).tb

/-- TB in a domain's view on a die (R40). -/
def tbView (s : State) (d : Fin 4) (dom : BitVec 12) : BitVec 64 := tbOf s d + (domAt s dom).tbofs

/-- Whether the routing table has a way to another package (R15, R423). -/
def pkgReachable (s : State) (p : Fin 4) : Bool := (s.route[p.val]).isSome

/-- The Rillen port of a die carries traffic: its link is trained, its die serves its ports (R11, R415, R422). -/
def rillenUp (s : State) (d : Fin 4) : Bool := (dieAt s d).rillen && serves s d && d != 0

/-- The package whose keyholder's timebase is the box's: the lowest-numbered one that is reachable (R17, R424). -/
def masterPkg (s : State) : Fin 4 := (allDies.find? fun q => q == s.pkg || (s.route[q.val]).isSome).getD s.pkg

/-- Some core of the package has issued since its start (R17). -/
def hasIssued (s : State) : Bool := s.dies.toList.any Die.hasRun

/-- Cores may issue: the timebase of the box's master has been loaded, or the package's own counts (R17). -/
def tbReady (s : State) : Bool := hasIssued s || masterPkg s == s.pkg || s.tbSynced

/-- The way to package q: the direct link, else the lowest-numbered other package whose link is up, as relay (R15, R423). The links between
other packages count as up (DESIGN CHOICE, log entry 15). -/
def routeTo (s : State) (q : Fin 4) : Option FlowId :=
  let p := s.pkg
  if q = p then none
  else if rillenUp s (p ^^^ q) then some ⟨p, p ^^^ q, q, p ^^^ q, 0⟩
  else ((allDies.find? fun r => r != p && r != q && rillenUp s (p ^^^ r))).map fun r => ⟨p, p ^^^ r, q, r ^^^ q, 0⟩

end Sys2Proof.Machine
end

