-- ==== Sys2Proof/Machine/Wire.lean ====
section
/-! DEFINITION. Messages between dies and packages: header, CRC-32C, sending on a flow, the replay log (spec/12 R310 to R313). The
payload's layout is the model's own (log entry 15): word 0 holds a tag, word 1 a parameter, words 2 to 9 up to 64 bytes of data. -/

namespace Sys2Proof.Machine

/-- One bit of the reflected CRC-32C. -/
def crcBit (c : BitVec 32) : BitVec 32 := if c.getLsbD 0 then (c >>> 1) ^^^ 0x82F63B78 else c >>> 1

/-- One byte of CRC-32C. -/
def crcByte (c : BitVec 32) (b : Byte) : BitVec 32 :=
  (List.range 8).foldl (fun c _ => crcBit c) (c ^^^ b.setWidth 32)

/-- CRC-32C over the low `n` bytes of a number, lowest first, from a running value. -/
def crcOver (c : BitVec 32) (v : Nat) : Nat → BitVec 32
  | 0 => c
  | n + 1 => crcOver (crcByte c (BitVec.ofNat 8 v)) (v / 256) n

/-- The LEN field of a header (R310). -/
def hdrLen (h : BitVec 128) : Nat := (h.extractLsb' 64 4).toNat
def hdrSeq (h : BitVec 128) : BitVec 16 := h.extractLsb' 112 16
def hdrAck (h : BitVec 128) : BitVec 16 := h.extractLsb' 96 16
def hdrAv (h : BitVec 128) : Bool := h.getLsbD 95
def hdrNak (h : BitVec 128) : Bool := h.getLsbD 94
def hdrClass (h : BitVec 128) : BitVec 2 := h.extractLsb' 92 2
def hdrRoute (h : BitVec 128) : BitVec 8 := h.extractLsb' 84 8
def hdrType (h : BitVec 128) : BitVec 8 := h.extractLsb' 76 8
def hdrResv (h : BitVec 128) : BitVec 8 := h.extractLsb' 68 8
def hdrArg (h : BitVec 128) : BitVec 64 := h.extractLsb' 0 64

/-- The trailer of a message (R310): header bytes, then payload bytes. -/
def wireCrc (h : BitVec 128) (pay : BitVec 640) : BitVec 32 :=
  (crcOver (crcOver 0xFFFFFFFF h.toNat 16) pay.toNat (16 * hdrLen h)) ^^^ 0xFFFFFFFF

/-- The header of a message (R310). -/
def mkHdr (seq ack : BitVec 16) (av nak : Bool) (f : FlowId) (ty : BitVec 8) (len : Nat) (arg : BitVec 64) : BitVec 128 :=
  seq ++ ack ++ BitVec.ofBool av ++ BitVec.ofBool nak ++ BitVec.ofNat 2 f.cls.val
    ++ BitVec.ofNat 2 f.spkg.val ++ BitVec.ofNat 2 f.sdie.val ++ BitVec.ofNat 2 f.dpkg.val ++ BitVec.ofNat 2 f.ddie.val
    ++ ty ++ (0 : BitVec 8) ++ BitVec.ofNat 4 len ++ arg

/-- The payload's words (MODEL). -/
def mkPay (tag par : Word) (data : Nat) : BitVec 640 := (BitVec.ofNat 512 data) ++ par ++ tag
def payTag (p : BitVec 640) : Word := p.extractLsb' 0 64
def payPar (p : BitVec 640) : Word := p.extractLsb' 64 64
def payData (p : BitVec 640) : Nat := (p.extractLsb' 128 512).toNat

/-- The flow in the other direction, of the same class. -/
def flowBack (f : FlowId) : FlowId := ⟨f.dpkg, f.ddie, f.spkg, f.sdie, f.cls⟩

/-- A flow of this package between two of its dies. -/
def ownFlow (s : State) (a b : Fin 4) (cls : Fin 4) : FlowId := ⟨s.pkg, a, s.pkg, b, cls⟩

/-- The flow of a request to another package (R15, R423). -/
def pkgFlow (s : State) (q : Fin 4) : FlowId := (s.route[q.val]).getD ⟨s.pkg, q ^^^ s.pkg, q, q ^^^ s.pkg, 0⟩

/-- The parameter word of a request: its size or operation, and the leaf's PL, PS and HD (log entry 15). -/
def msgPar (n : Nat) (leaf : BitVec 6) : Word := BitVec.ofNat 64 (n % 256 + 256 * leaf.toNat)

def flowAt (s : State) (f : FlowId) : Flow := tabGet s.flows f Flow.reset
def putFlow (s : State) (f : FlowId) (x : Flow) : State := { s with flows := tabPut s.flows f x }
def modFlow (s : State) (f : FlowId) (g : Flow → Flow) : State := putFlow s f (g (flowAt s f))

/-- Puts a wire on the way: to a die of this package on the flow's own transit list, to another package outside. What no path of the ring
carries, and what a port that is fenced or not trained would carry, is lost on the way (R9, R11, R394); a held die sends nothing but control
messages over the ring (R411). The replay log keeps it (R312). -/
def emit (s : State) (f : FlowId) (w : Wire) : State :=
  if f.dpkg = s.pkg then
    if f.spkg = s.pkg && (!pathUp s f.sdie f.ddie || (dieAt s f.sdie).fenced || (regSt s f.sdie == .held && f.cls != 3)) then s
    else modFlow s f fun x => { x with transit := x.transit ++ [w] }
  else if rillenUp s f.sdie then { s with outbox := s.outbox ++ [.message f w] }
  else s

/-- The replay log's capacity (R312). -/
def logCap : Nat := 2048

/-- Sends a message on a flow with its next SEQ; it waits while the log is full (R312). -/
def sendMsg (s : State) (f : FlowId) (ty : BitVec 8) (len : Nat) (arg : BitVec 64) (pay : BitVec 640) : State :=
  let x := flowAt s f
  let back := flowAt s (flowBack f)
  let h := mkHdr x.seq (back.expect - 1) back.heard false f ty len arg
  let w : Wire := ⟨h, pay, wireCrc h pay⟩
  if logCap ≤ x.log.length then putFlow s f { x with backlog := x.backlog ++ [w] }
  else
    let s := putFlow s f { x with seq := x.seq + 1, log := x.log ++ [⟨w, false, tbOf s f.sdie⟩] }
    let s := modFlow s (flowBack f) fun y => { y with ackDue := false }
    emit s f w

/-- Renumbers a waiting message and sends it while the log has room (R312). -/
def drainBacklog (s : State) (f : FlowId) : Nat → State
  | 0 => s
  | n + 1 =>
    let x := flowAt s f
    match x.backlog with
    | [] => s
    | w :: t =>
      if logCap ≤ x.log.length then s
      else
        let s := putFlow s f { x with backlog := t }
        drainBacklog (sendMsg s f (hdrType w.hdr) (hdrLen w.hdr) (hdrArg w.hdr) w.pay) f n

/-- An acknowledgement alone on the reverse flow, or a NAK (R311); it carries no new SEQ and is not logged. -/
def sendAck (s : State) (f : FlowId) (nak : Bool) : State :=
  let x := flowAt s f
  let r := flowBack f
  let h := mkHdr (flowAt s r).seq (x.expect - 1) x.heard nak r 0 0 0
  emit (modFlow s f fun y => { y with ackDue := false, nakDue := false, nakSent := y.nakSent || nak }) r ⟨h, 0, wireCrc h 0⟩

/-- Whether an acknowledgement of `ack` covers a logged SEQ: it lies at most 2,048 before it (R311, R312). -/
def seqCovered (ack seq : BitVec 16) : Bool := (ack - seq).toNat < logCap

/-- A flow has nothing on its way. -/
def flowIdle (s : State) (f : FlowId) : Bool := ((flowAt s f).log.all Logged.acked) && (flowAt s f).backlog.isEmpty

/-- A better way to a package is taken once nothing is on its way by the old one: requests keep their order (R260, R423). -/
def settleRoutes (s : State) : State :=
  { s with route := Vector.ofFn fun q : Fin 4 => match s.route[q.val], routeTo s q with
    | some a, some b => if flowIdle s a then some b else some a
    | r, _ => r }

/-- Takes an acknowledgement on the sender's side: frees what it covers, keeps control messages until an epoch (R312, R313). -/
def takeAck (s : State) (f : FlowId) (ack : BitVec 16) : State :=
  let x := flowAt s f
  let adv := x.log.any fun l => !l.acked && seqCovered ack (hdrSeq l.wire.hdr)
  let log := x.log.filterMap fun l =>
    if seqCovered ack (hdrSeq l.wire.hdr) then (if f.cls.val == 3 then some { l with acked := true } else none) else some l
  let s := putFlow s f { x with log := log, retries := if adv then 0 else x.retries }
  settleRoutes (drainBacklog s f logCap)

/-- Resends every unacknowledged message in SEQ order (R312). -/
def resendAll (s : State) (f : FlowId) : State :=
  ((flowAt s f).log.filter fun l => !l.acked).foldl (fun s l => emit s f l.wire) s

end Sys2Proof.Machine
end

