-- ==== Sys2Proof/Machine/Home.lean ====
section
/-! DEFINITION. Homes of bytes and what is performed there (spec/08 R181, R182, R187 to R192, R196, R207, R208), counting flags at
their home (spec/14 R349, R350; spec/02 R28, R43) and event records (spec/12 R304 to R306). -/

namespace Sys2Proof.Machine

/-! ### Placement (R99, R182, R185, R187, R189, R190) -/

/-- Why a final physical address has no place. -/
inductive PlaceErr where
  | rangeMiss
  | malformed
  deriving DecidableEq, Repr

/-- The die that serves a mirrored page whose HD no longer does: the one that held the complete copy when HD went (R190). -/
def mirrorHome (s : State) (d : Fin 4) : Option (Fin 4) := (dieAt s d).recopy.filter fun f => serves s f

/-- The die that performs accesses to bytes homed on `d` (R190, R192). -/
def homeNow (s : State) (d : Fin 4) (mirrored : Bool) : Option (Fin 4) :=
  if serves s d then some d else if mirrored then mirrorHome s d else none

/-- The slot of an interleaved byte (R99). -/
def homeSlot (pl : BitVec 2) (pa : BitVec 52) : BitVec 2 :=
  if pl = 1 then pa.extractLsb' 12 2 ^^^ pa.extractLsb' 14 2 ^^^ pa.extractLsb' 16 2
  else pa.extractLsb' 16 2 ^^^ pa.extractLsb' 18 2 ^^^ pa.extractLsb' 20 2

/-- The storage offset of an interleaved byte (R187). -/
def storeOff (pl : BitVec 2) (pa : BitVec 52) : BitVec 35 :=
  if pl = 1 then pa.extractLsb' 14 21 ++ pa.extractLsb' 35 2 ++ pa.extractLsb' 0 12
  else pa.extractLsb' 18 17 ++ pa.extractLsb' 35 2 ++ pa.extractLsb' 0 16

/-- The slot of a placement set. -/
def psetSlot (s : State) (ps k : BitVec 2) : PSlot := (s.psets[ps.toNat]'ps.isLt).slot[k.toNat]'k.isLt

/-- The place of an interleaved byte (R187, R189, R337). -/
def interleaved (s : State) (pl ps : BitVec 2) (pa : BitVec 52) : Place :=
  let sl := psetSlot s ps (homeSlot pl pa)
  let so := (storeOff pl pa).toNat
  let set := s.psets[ps.toNat]'ps.isLt
  if !serves s sl.die then .lost sl.die
  else if sl.rv then
    if set.sbase.toNat ≤ so && so < set.sbase.toNat + set.ssize.toNat then .mem sl.die (sl.rbase.toNat + (so - set.sbase.toNat))
    else .lost sl.die
  else .mem sl.die so

/-- The place of a physical address under a leaf's placement fields, with the checks that need the final address (R182, R185). HD is compared
with PA[36:35] for device memory alone: R185 does not say whether a die-local leaf over host memory, whose PA[36:35] are host address bits,
is compared too (DESIGN CHOICE, log entry 57). -/
def placeOf (s : State) (pl ps hd : BitVec 2) (pa : BitVec 52) : Except PlaceErr Place :=
  let space := pa.extractLsb' 48 2
  let own := pa.extractLsb' 35 2
  if space = 2 || space = 3 then .error .rangeMiss
  else if space = 0 && pa.extractLsb' 37 11 != 0 then .error .rangeMiss
  else if space = 1 && pl != 0 then .error .malformed
  else if space = 0 && (pl = 0 || pl = 3) && hd != own then .error .malformed
  else if pa.extractLsb' 50 2 != BitVec.ofNat 2 s.pkg.val then
    let p := fin4 (pa.extractLsb' 50 2).toNat
    if pkgReachable s p then .ok (.pkg p (pl ++ ps ++ hd) pa) else .ok (.lost (fin4 own.toNat))
  else if space = 1 then
    match hostPort s with
    | some _ => .ok (.host (pa.extractLsb' 0 48))
    | none => .ok (.lost 0)
  else if pl = 0 || pl = 3 then
    let d := fin4 hd.toNat
    match homeNow s d (pl = 3) with
    | some h => .ok (.mem h (pa.extractLsb' 0 35).toNat)
    | none => .ok (.lost d)
  else .ok (interleaved s pl ps pa)

/-- The place of translated bytes as homes stand now (R187 to R192, R274). -/
def placeNow (s : State) (l : Loc) : Place :=
  match placeOf s (l.leaf.extractLsb' 4 2) (l.leaf.extractLsb' 2 2) (l.leaf.extractLsb' 0 2) l.pa with
  | .ok p => p
  | .error _ => .lost 0

/-- Where a buffered store is performed (R213, R274). -/
def GStore.place (s : State) (g : GStore) : Place := placeNow s g.loc

/-- HD of a mirrored page, by PL and HD (R190). -/
def mirrorHd (pl hd : BitVec 2) : Option (Fin 4) := if pl = 3 then some (fin4 hd.toNat) else none
def Loc.hd (l : Loc) : Option (Fin 4) := mirrorHd (l.leaf.extractLsb' 4 2) (l.leaf.extractLsb' 0 2)

/-- PL, PS and HD of a leaf entry (R184). -/
def leafBits (e : Word) : BitVec 6 := e.extractLsb' 8 2 ++ e.extractLsb' 12 2 ++ e.extractLsb' 10 2
def leafHd (e : Word) : Option (Fin 4) := mirrorHd (e.extractLsb' 8 2) (e.extractLsb' 10 2)

/-- The place k bytes further in the same line. -/
def Place.plus (p : Place) (k : Nat) : Place :=
  match p with
  | .mem d off => .mem d (off + k)
  | .host a => .host (a + BitVec.ofNat 48 k)
  | .pkg q l a => .pkg q l (a + BitVec.ofNat 52 k)
  | .lost d => .lost d

/-! ### Lines: latent errors and poison (R196, R207, R208) -/

def linePoisoned (s : State) (l : Nat) : Bool := s.poison.contains l || s.poisonAll.any fun r => decide (r.1 ≤ l) && decide (l < r.2)

/-- Marks a line poisoned because poison is carried into it: no creation (R207). -/
def markLine (s : State) (l : Nat) : State := if linePoisoned s l then s else { s with poison := l :: s.poison }

/-- Marks a line poisoned, counting the creation at its die (R207). -/
def poisonLine (s : State) (d : Fin 4) (l : Nat) : State :=
  if linePoisoned s l then s else countErr { s with poison := l :: s.poison } d 8

/-- What is left of a range of lines without those from lo below hi. -/
def cutLines (lo hi : Nat) (r : Nat × Nat) : List (Nat × Nat) :=
  [(r.1, Nat.min r.2 lo), (Nat.max r.1 hi, r.2)].filter fun q => decide (q.1 < q.2)

def clearLine (s : State) (l : Nat) : State :=
  { s with poison := s.poison.filter fun k => !(k == l), poisonAll := s.poisonAll.flatMap (cutLines l (l + 1)) }

/-- What the code of a line finds when the line is read or scrubbed (R196). -/
def meetLatent (s : State) (d : Fin 4) (l : Nat) : State :=
  match tabGet? s.latent l with
  | none => s
  | some k =>
    let s := { s with latent := tabDel s.latent l }
    if k ≤ 1 then countErr s d 2 else poisonLine (countErr s d 3) d l

/-- A value read with its poison mark and the state after the read. -/
structure Rd where
  val : Nat
  pois : Bool
  st : State

/-- Reads `n` bytes at a storage offset of a die. -/
def readMem (s : State) (d : Fin 4) (off n : Nat) : Rd :=
  let s := meetLatent s d (lineKey d off)
  ⟨memRead s.mem (memKey d off) n, linePoisoned s (lineKey d off), s⟩

/-- What a write meets at the home cache: a write of a whole line replaces its symbols, any other reads the line first (R195, R196). -/
def meetWrite (s : State) (d : Fin 4) (off n : Nat) : State :=
  if off % 64 = 0 && n = 64 then { s with latent := tabDel s.latent (lineKey d off) } else meetLatent s d (lineKey d off)

/-- Writes `n` bytes at a storage offset of a die. -/
def writeMem (s : State) (d : Fin 4) (off n v : Nat) : State := { s with mem := memWrite s.mem (memKey d off) n v }

/-- The dies that a write to a mirrored page of home `d` is also written to (R190). -/
def mirrorTargets (s : State) (d : Fin 4) : List (Fin 4) :=
  ((hingePartner s d).toList ++ ((dieAt s d).recopy.toList.filter fun f => serves s f)).filter fun i => !(decide (i = d))

/-- Performs a write of `n` bytes at the die `d` that serves them; false when it is dropped. A page mirrored for HD is also written at the partners
of HD while HD serves it; the die that has taken HD's place writes no copy of its own (R190, R192). -/
def homeWrite (s : State) (d : Fin 4) (off n v : Nat) (hd : Option (Fin 4)) : State × Bool :=
  if serves s d then
    let s := writeMem (meetWrite s d off n) d off n v
    match hd with
    | none => (s, true)
    | some i =>
      let s := modDie s i fun x => { x with mpages := if x.mpages.contains (off / 2 ^ 18) then x.mpages else off / 2 ^ 18 :: x.mpages }
      (if i = d then (mirrorTargets s i).foldl (fun s j => writeMem (meetWrite s j off n) j off n v) s else s, true)
  else (s, false)

/-- The poison of a line after a write to it: carried from poisoned data, cleared by a whole line of unpoisoned data (R207, R208). -/
def lineWritten (s : State) (d : Fin 4) (off : Nat) (pois whole : Bool) : State :=
  if pois then markLine s (lineKey d off) else if whole then clearLine s (lineKey d off) else s

/-- The same at every copy of a line that a write at die `d` has reached (R190). -/
def homeWritten (s : State) (d : Fin 4) (off : Nat) (hd : Option (Fin 4)) (pois whole : Bool) : State :=
  if serves s d then (d :: if hd = some d then mirrorTargets s d else []).foldl (fun s i => lineWritten s i off pois whole) s else s

/-! ### Request counters (R197, R370) -/

/-- Counts one request of die `src` for a place in device memory (R197): in another package it is remote, host memory is no device memory. -/
def countRequest (s : State) (src : Fin 4) (p : Place) : State :=
  match p with
  | .mem d _ => if d = src then countReq s src 0 else countReq (countReq s src 1) d 2
  | .host _ => s
  | .pkg _ _ pa => if pa.extractLsb' 48 2 = 0 then countReq s src 1 else s
  | .lost _ => countReq s src 1

/-! ### Requests outside the package (R11, R258, R260, R266) -/

/-- A request leaves with the next tag; its reply is awaited. -/
def pendNew (s : State) (p : Place) (n : Nat) (op : AskOp) (who : Who) : State :=
  { s with pend := s.pend ++ [⟨s.nextTag, p, n, op, who⟩], nextTag := s.nextTag + 1 }

/-- Sends a read or an atomic to host memory or another package, or a steal to a die of this one. -/
def sendAsk (s : State) (src : Fin 4) (p : Place) (n : Nat) (op : AskOp) (who : Who) : State :=
  let t := pendNew s p n op who
  let tag : Word := BitVec.ofNat 64 s.nextTag
  match op with
  | .steal launch _ victim => sendMsg t (ownFlow s src victim 3) 7 1 (BitVec.ofNat 64 launch) (mkPay tag 0 0)
  | .atomic o b c => match p with
    | .host a => { t with outbox := t.outbox ++ [.hostAtomic s.nextTag o a n b c] }
    | .pkg q l pa => sendMsg t (pkgFlow s q) 3 2 (pa.setWidth 64) (mkPay tag (msgPar o.toNat l) (b.toNat + 2 ^ 64 * c.toNat))
    | .mem _ _ => s
    | .lost _ => s
  | _ => match p with
    | .host a => { t with outbox := t.outbox ++ [.hostRead s.nextTag a n] }
    | .pkg q l pa => sendMsg t (pkgFlow s q) 1 1 (pa.setWidth 64) (mkPay tag (msgPar n l) 0)
    | .mem _ _ => s
    | .lost _ => s

/-- All bits of n bytes. -/
def fullMask (n : Nat) : Nat := 256 ^ n - 1

/-- Sends a write of n bytes to another package, of which the bits of a mask are written, with its poison mark; its requester learns when it has been
performed (R207, R222, R264). A partial mask goes ahead in a message of its own with the write's tag, and the home performs the granule once the
bytes are there (R259; log entry 15). -/
def sendWrite (s : State) (p : Place) (n v mask : Nat) (pois : Bool) (who : Who) : State :=
  match p with
  | .pkg q l pa =>
    let send (t : State) (flags data : Nat) : State :=
      sendMsg t (pkgFlow t q) 2 5 (pa.setWidth 64) (mkPay (BitVec.ofNat 64 s.nextTag) (msgPar n l ||| BitVec.ofNat 64 flags) data)
    let t := pendNew s p n .write who
    let mark := if pois then 2 ^ 16 else 0
    if mask = fullMask n then send t mark v else send (send t (2 ^ 18) mask) (mark + 2 ^ 17) v
  | _ => s

/-- A posted write of n bytes of host memory, whole or merged by a mask (R222, R259, R266). -/
def hostPut (s : State) (a : BitVec 48) (n v mask : Nat) : State :=
  { s with outbox := s.outbox ++ [if mask = fullMask n then .hostWrite (a.setWidth 64) n v else .hostMerge (a.setWidth 64) n v mask] }

/-- The context whose requests a strand's ordering waits for. -/
def Who.ctx : Who → Option CtxId
  | .bundle x _ _ => some x
  | .fetch x _ => some x
  | .piece x _ => some x
  | .store x _ _ => some x
  | .remote _ _ _ => none
  | .nobody => none

/-- A posted store of the context, or of its entry n, has not been performed at its home (R264). -/
def storePending (s : State) (x : CtxId) (n : Option Nat) : Bool :=
  s.pend.any fun p => match p.who with
    | .store y m _ => y == x && (n.isNone || m == n)
    | _ => false

/-- A home as a number: a die, the host port, another package (R258, R260). -/
def placeHome : Place → Nat
  | .mem d _ => d.val
  | .lost d => d.val
  | .host _ => 4
  | .pkg p _ _ => 5 + p.val

def Place.isPkg : Place → Bool
  | .pkg _ _ _ => true
  | _ => false

def Place.isHost : Place → Bool
  | .host _ => true
  | _ => false

/-- A store that the context has let go stalls, at a home when one is given (R194, R273). -/
def storeStalls (s : State) (x : CtxId) (home : Option Nat) : Bool :=
  s.stalls.any fun q => match q with
    | .store y _ _ _ g => y == x && (home.isNone || home == some (placeHome (g.place s)))
    | .word _ _ _ => false

/-- A store that the context has let go has not been performed: it stalls, or is on its way to another package (R264, R273). -/
def storesOut (s : State) (x : CtxId) : Bool := storePending s x none || storeStalls s x none

/-- A context leaves its slot: nobody waits for its requests any more. -/
def orphan (s : State) (x : CtxId) : State :=
  { s with pend := s.pend.map fun p => if p.who.ctx = some x then { p with who := .nobody } else p }

/-! ### Counting flags at their home (R28, R43, R349, R350) -/

def flagVal (s : State) (fl : FlagRef) : BitVec 32 := (coreAt s fl.core).flags[fl.f.val]

/-- A dependence of a launch record: valid, flag, count (R27, R28). -/
structure Dep where
  valid : Bool
  vdie : BitVec 2
  vcore : BitVec 6
  f : BitVec 5
  count : BitVec 32
  deriving DecidableEq, Repr

def depOf (w : Word) : Dep := ⟨w.getLsbD 45, w.extractLsb' 43 2, w.extractLsb' 37 6, w.extractLsb' 32 5, w.extractLsb' 0 32⟩

/-- The flag that a dependence of a domain's record names. A dependence on a core that the domain's core map does not hold names no flag and
is never satisfied; the map is read when the record is accepted (DESIGN CHOICE, log entry 58). -/
def depFlag (s : State) (dom : BitVec 12) (w : Word) : Option FlagRef :=
  (physOf s dom (depOf w).vdie (depOf w).vcore).map fun c => ⟨c, fin32 (depOf w).f.toNat⟩

/-- Whether an open dependence is satisfied now (R28): its flag, on a die that performs posts, holds at least its count (R397, R415). -/
def depMet (s : State) (fl : Option FlagRef) (w : Word) : Bool :=
  match fl with
  | none => false
  | some f => serves s f.core.die && decide ((depOf w).count.toNat ≤ (flagVal s f).toNat)

/-- A dependence after an evaluation: once satisfied it stays so (R28). -/
def DepSt.eval (s : State) (w : Word) (d : DepSt) : DepSt :=
  match d with
  | .met => .met
  | .open_ fl => if depMet s fl w then .met else .open_ fl

/-- A dependence of a record that is accepted; an invalid one is satisfied (R28). -/
def depStart (s : State) (dom : BitVec 12) (w : Word) : DepSt :=
  if (depOf w).valid then DepSt.eval s w (.open_ (depFlag s dom w)) else .met

/-- Evaluates a launch's dependences and keeps those once satisfied (R28). -/
def latchLaunch (s : State) (l : Launch) : Launch :=
  { l with dep := Vector.ofFn fun k : Fin 4 => (l.dep[k.val]).eval s (l.record[4 + k.val]) }

/-- The flags of a lost die satisfy no dependence any more (R44). -/
def loseDeps (s : State) (d : Fin 4) : State :=
  { s with launches := s.launches.map fun l => { l with dep := l.dep.map fun p => match p with
    | .met => .met
    | .open_ (some f) => if f.core.die = d then .open_ none else .open_ (some f)
    | .open_ none => .open_ none } }

/-- A wait on a flag keeps that a post satisfied it (R43, R352). -/
def Wait.latch (fl : FlagRef) (v : BitVec 32) (w : Wait) : Wait :=
  match w with
  | .fwait g false n rt vd vc poll sat => .fwait g false n rt vd vc poll (sat || (g = fl && decide (n.toNat ≤ v.toNat)))
  | w => w

def latchWait (fl : FlagRef) (v : BitVec 32) (c : Ctx) : Ctx := 
  { c with wait := c.wait.latch fl v, waits := c.waits.map (Wait.latch fl v), resume := c.resume.map (Wait.latch fl v) }

/-- After a flag has a new value: waits and dependences that it satisfies. -/
def flagEvent (s : State) (fl : FlagRef) : State :=
  let v := flagVal s fl
  let s := { s with ctx := latchWait fl v s.ctx, ctxs := List.map (fun p : CtxId × Ctx => (p.1, latchWait fl v p.2)) s.ctxs }
  let wait (d : Die) : Die :=
    { d with
      saved := d.saved.map fun x : Saved => { x with base := latchWait fl v x.base }
      reflected := d.reflected.map fun x : ReflSaved => { x with base := latchWait fl v x.base } }
  let s := { s with dies := s.dies.map wait }
  { s with launches := s.launches.map (latchLaunch s) }

/-- Writes a flag at its home. -/
def putFlag (s : State) (fl : FlagRef) (v : BitVec 32) : State :=
  flagEvent (modCore s fl.core fun c => { c with flags := c.flags.set fl.f.val v }) fl

/-- A post by v, saturating (R350); dropped when the flag's die is lost (R351). -/
def postFlag (s : State) (fl : FlagRef) (v : BitVec 32) : State :=
  if serves s fl.core.die then putFlag s fl (satAdd (flagVal s fl) v) else countErr s (keyDie s) 10

/-- A set (R351). -/
def setFlag (s : State) (fl : FlagRef) (v : BitVec 32) : State :=
  if serves s fl.core.die then putFlag s fl v else countErr s (keyDie s) 10

/-! ### Stage 2 (R181, R319) -/

/-- The physical address of a domain address with the permissions of its range. -/
structure Stage2 where
  pa : BitVec 52
  r : Bool
  w : Bool
  x : Bool
  deriving DecidableEq, Repr

def Range.covers (g : Range) (page : Nat) : Bool := g.dbase.toNat ≤ page && page < g.dbase.toNat + g.count.toNat

/-- Stage 2 of a domain address: none when no range covers its granule. -/
def stage2 (s : State) (dom : BitVec 12) (da : BitVec 52) : Option Stage2 :=
  let page := (da.extractLsb' 18 34).toNat
  match (domAt s dom).comp.find? fun g => g.covers page with
  | none => none
  | some g => some ⟨BitVec.ofNat 34 (g.pbase.toNat + (page - g.dbase.toNat)) ++ da.extractLsb' 0 18, g.r, g.w, g.x⟩

/-- The place of a domain address that the device reaches without a page entry: die-local on its owner (log entry 16). -/
def devPlace (s : State) (dom : BitVec 12) (da : BitVec 52) (write : Bool) : Option Place :=
  match stage2 s dom da with
  | none => none
  | some t =>
    if (if write then t.w else t.r) then
      match placeOf s 0 0 (t.pa.extractLsb' 35 2) t.pa with
      | .ok p => some p
      | .error _ => none
    else none

/-- `n` bytes that come from outside the package without a wait: free values, which stand for what the read returns (log entry 6). -/
def outsideRead (clk a : Nat) : Nat → Nat
  | 0 => 0
  | n + 1 => (Config.outsideByte clk a).toNat + 256 * outsideRead clk (a + 1) n

/-- Reads 8 bytes at a place that the device reaches: zeros from a lost home (R192). -/
def devRead8 (s : State) (p : Place) : Nat :=
  match p with
  | .mem d off => memRead s.mem (memKey d off) 8
  | .host a => outsideRead s.clk a.toNat 8
  | .pkg _ _ pa => outsideRead s.clk pa.toNat 8
  | .lost _ => 0

/-- What the code of a line makes of a read that the device makes for itself; a lost home is counted, its zeros are created poison; a read outside the
package leaves as a request (R11, R192, R196, R207, R266). -/
def devSeen (s : State) (p : Place) : State :=
  match p with
  | .mem d off => meetLatent s d (lineKey d off)
  | .host _ => sendAsk s (keyDie s) p 8 .read .nobody
  | .pkg _ _ _ => sendAsk s (keyDie s) p 8 .read .nobody
  | .lost _ => countErr (countErr s (keyDie s) 10) (keyDie s) 8

/-- Writes bytes at a place that the device reaches; a lost home drops and counts it (R192, R304). -/
def devWrite (s : State) (p : Place) (n v : Nat) : State :=
  match p with
  | .mem d off => writeMem (meetWrite s d off n) d off n v
  | .host a => hostPut s a n v (fullMask n)
  | .pkg _ _ _ => sendWrite s p n v (fullMask n) false .nobody
  | .lost _ => countErr s (keyDie s) 10

/-! ### Event queues (R304 to R306) -/

/-- The notify flag of a domain (R304, R321), when its core map has it. -/
def notifyFlag (s : State) (x : Dom) : Option FlagRef :=
  match physOf s x.id (x.eqflag.extractLsb' 13 2) (x.eqflag.extractLsb' 7 6) with
  | some c => some ⟨c, fin32 (x.eqflag.extractLsb' 2 5).toNat⟩
  | none => none

/-- Writes one record at index `r` of a queue, stores EQHEAD and posts the notify flag (R304). -/
def putRecord (s : State) (x : Dom) (ctl : Place) (r : Nat) (src : BitVec 12) (kind sub : BitVec 8) (pay : List Word) : State :=
  let da := x.eqbase + BitVec.ofNat 52 (64 + 64 * (r % 2 ^ x.eqk.toNat))
  let e0 : Word := BitVec.ofNat 32 r ++ src ++ (0 : BitVec 4) ++ sub ++ kind
  let words := (e0 :: tbView s (keyDie s) x.id :: pay ++ List.replicate 6 0).take 8
  let v := words.foldr (fun w a => w.toNat + 2 ^ 64 * a) 0
  let s := match devPlace s x.id da true with
    | some p => devWrite s p 64 v
    | none => s
  let s := devWrite s ctl 8 (r + 1)
  match notifyFlag s x with
  | some fl => postFlag s fl 1
  | none => s

/-- What became of a record: the codes of R307. -/
inductive EvRes where
  | written | full | none
  deriving DecidableEq, Repr

/-- Writes an event record to a domain's queue (R304 to R306). -/
def writeEvent (s : State) (dom src : BitVec 12) (kind sub : BitVec 8) (pay : List Word) : State × EvRes :=
  match domAt? s dom with
  | Option.none => (s, .none)
  | some x =>
    if x.eqk = 0 then (s, .none)
    else match devPlace s dom x.eqbase true with
      | Option.none => (s, .none)
      | some ctl =>
        let cw (k : Nat) : Nat := match devPlace s dom (x.eqbase + BitVec.ofNat 52 (8 * k)) true with
          | some p => devRead8 s p
          | Option.none => 0
        let head := cw 0
        let tail := cw 1
        let lost := cw 2
        let size := 2 ^ x.eqk.toNat
        let used := (head + 2 ^ 64 - tail) % 2 ^ 64
        let place (r : Nat) := devPlace s dom (x.eqbase + BitVec.ofNat 52 (64 + 64 * (r % size))) true
        let setLost (s : State) (v : Nat) : State := match devPlace s dom (x.eqbase + 16) true with
          | some p => devWrite s p 8 v
          | Option.none => s
        if size ≤ used then (setLost s (lost + 1), .full)
        else if (place head).isNone then (s, .none)
        else
        let s := [0, 8, 16].foldl (fun s k => match devPlace s dom (x.eqbase + BitVec.ofNat 52 k) true with
          | some p => devSeen s p
          | Option.none => s) s
        if lost == 0 then (putRecord s x ctl head src kind sub pay, .written)
        else if size ≤ used + 1 then (setLost s (lost + 1), .full)
        else
          let s := putRecord s x ctl head 0 7 0 [BitVec.ofNat 64 lost]
          let s := setLost s 0
          if (place (head + 1)).isNone then (s, .none) else (putRecord s x ctl (head + 1) src kind sub pay, .written)

/-- The group of the accessing strand in an event record (R305). -/
def groupWord (g : BitVec 20) : Word := g.setWidth 64

/-- The group of an event record about an access that no strand made (R305). -/
def noStrand : Word := BitVec.allOnes 64

/-- The event for the first access of a domain to a lost home after a loss (R192). -/
def firstLost (s : State) (src : Fin 4) (dom : BitVec 12) (addr group : Word) : State :=
  if allDies.any fun d => (dieAt s d).lostSeen.contains dom then s
  else (writeEvent (modDie s src fun x => { x with lostSeen := dom :: x.lostSeen }) dom 0 3 1 [addr, group]).1

/-- An access to a lost home: counted, and one event for the first of a domain after a loss (R192). -/
def noteLost (s : State) (src : Fin 4) (dom : BitVec 12) (addr group : Word) : State := firstLost (countErr s src 10) src dom addr group

/-- A read of a lost home: its zeros are marked with poison, which is a creation (R192, R207). -/
def readLost (s : State) (src : Fin 4) (dom : BitVec 12) (addr group : Word) : State := countErr (noteLost s src dom addr group) src 8

/-- The control line of a domain's event queue has a lost home (R192, R304). -/
def queueLost (s : State) (dom : BitVec 12) : Bool :=
  match domAt? s dom with
  | none => false
  | some x => x.eqk != 0 && match devPlace s dom x.eqbase true with
    | some (.lost _) => true
    | _ => false

/-- Queues an event record to a domain (R304 to R306); a queue whose home is lost is itself an access to a lost home (R192). -/
def queueEvent (s : State) (dom src : BitVec 12) (kind sub : BitVec 8) (pay : List Word) : State × EvRes :=
  let r := writeEvent s dom src kind sub pay
  if queueLost s dom then (firstLost r.1 (keyDie s) dom ((domAt s dom).eqbase.setWidth 64) noStrand, r.2) else r

/-- A device's event: the result does not matter. -/
def event (s : State) (dom : BitVec 12) (kind sub : BitVec 8) (pay : List Word) : State := (queueEvent s dom 0 kind sub pay).1

/-- What a read that the device makes for a domain at an address meets, with the group of its strand: the code of its line, or a lost home with its count
and event (R192, R196). -/
def devMet (s : State) (src : Fin 4) (dom : BitVec 12) (addr group : Word) (p : Place) : State :=
  match p with
  | .lost _ => readLost s src dom addr group
  | p => devSeen s p

/-- A write that the device makes for a domain at an address, with the group of its strand (R192). -/
def devPut (s : State) (src : Fin 4) (dom : BitVec 12) (addr group : Word) (p : Place) (n v : Nat) : State :=
  match p with
  | .lost _ => noteLost s src dom addr group
  | p => devWrite s p n v

/-- One event of a throttle cause of a domain after 1 ms without one (R366). -/
def throttleEvent (s : State) (c : CoreId) (dom : BitVec 12) (t : Throttle) : State :=
  let k := coreAt s c
  let now := (tbOf s c.die).toNat
  let recent (k : Core) : Bool := match tabGet? k.thrAt (dom, t) with
    | none => false
    | some a => decide (now < a + 1000000)
  let due := !(s.cores.any fun p => recent p.2)
  let s := putCore s c { k with thrAt := tabPut k.thrAt (dom, t) now }
  if due then
    let m := (virtOf s dom c).getD ⟨c, 0, 0⟩
    event s dom 2 t.sub [(m.vdie ++ m.vcore).setWidth 64, (coreAt s c).opCur.setWidth 64]
  else s

end Sys2Proof.Machine
end

