-- ==== Sys2Proof/Machine/Walk.lean ====
section
/-! DEFINITION. Translation: the page-table walk, A and D, the dirty-page log, the TLBs, and the fetch of a bundle (spec/08 R181 to R186, R193;
spec/12 R308, R309; spec/13 R317; spec/03 R45). -/

namespace Sys2Proof.Machine

/-- Cause codes of R374. -/
def cIllegalBundle : BitVec 8 := 0x01
def cIllegalOpcode : BitVec 8 := 0x02
def cReservedField : BitVec 8 := 0x03
def cDeadRegister : BitVec 8 := 0x04
def cDeadTile : BitVec 8 := 0x05
def cTileOperand : BitVec 8 := 0x06
def cTileTableFull : BitVec 8 := 0x07
def cLaneCollision : BitVec 8 := 0x08
def cAlignment : BitVec 8 := 0x09
def cPageNotPresent : BitVec 8 := 0x10
def cPermission : BitVec 8 := 0x11
def cDiscarded : BitVec 8 := 0x12
def cRangeMiss : BitVec 8 := 0x13
def cRevoked : BitVec 8 := 0x14
def cDirtyLogFull : BitVec 8 := 0x15
def cScaleQueue : BitVec 8 := 0x18
def cDeadline : BitVec 8 := 0x19
def cLiveAtSuspend : BitVec 8 := 0x1A
def cFpException : BitVec 8 := 0x1B
def cPoison : BitVec 8 := 0x1C
def cScope : BitVec 8 := 0x1D
def cSoftware : BitVec 8 := 0x20
def cWatchdog : BitVec 8 := 0x21
def cParity : BitVec 8 := 0x22

/-- Why an access is not performed, with what its trap record reports (R380). -/
structure AccFault where
  code : BitVec 8
  mal : Bool
  da : Option (BitVec 52)
  deriving DecidableEq, Repr

/-- The outcome of a translation, with the state after the walker's work. -/
inductive Tr where
  | ok (t : Tlb) (place : Place) (s : State)
  | bad (f : AccFault) (s : State)
  /-- The page is migrating: the access stalls (R194). -/
  | wait (s : State)

def Tr.st : Tr → State
  | .ok _ _ s => s
  | .bad _ s => s
  | .wait s => s

def accWrites : Access → Bool
  | .fetch => false
  | .read => false
  | .write => true
  | .atomic => true

/-! ### Page entries (R183 to R185) -/

def pteV (e : Word) : Bool := e.getLsbD 0
def ptePointer (e : Word) : Bool := e.extractLsb' 1 3 == 0

/-- The conditions of a malformed entry that concern the entry alone (R185). -/
def pteMalformed (lvl : Nat) (e : Word) : Bool :=
  if ptePointer e then lvl == 3 || e.extractLsb' 52 12 != 0 || e.extractLsb' 1 12 != 0
  else
    e.extractLsb' 52 12 != 0 || e.extractLsb' 15 3 != 0 || e.extractLsb' 4 2 == 3 || (e.getLsbD 2 && !e.getLsbD 1)
      || (lvl == 1 && e.extractLsb' 18 20 != 0) || (lvl == 2 && e.extractLsb' 18 10 != 0)

/-- The index of a virtual address at a level (R183). -/
def vaIndex (lvl : Nat) (va : BitVec 48) : Nat :=
  if lvl = 1 then (va.extractLsb' 38 10).toNat else if lvl = 2 then (va.extractLsb' 28 10).toNat else (va.extractLsb' 18 10).toNat

/-- Where the walk ends. -/
inductive WalkEnd where
  | leaf (lvl : Nat) (e : Word) (at_ : Place)
  | stop (code : BitVec 8) (mal : Bool)

/-- The walk from a table at a level, `3 - lvl` levels below it (R183, R317). -/
def walkFrom (s : State) (dom : BitVec 12) (va : BitVec 48) : Nat → Nat → BitVec 52 → WalkEnd
  | 0, _, _ => .stop cPageNotPresent false
  | n + 1, lvl, table =>
    let ea := table + BitVec.ofNat 52 (8 * vaIndex lvl va)
    match stage2 s dom ea with
    | none => .stop cRangeMiss false
    | some t =>
      if !t.r then .stop cPermission false
      else match placeOf s 0 0 (t.pa.extractLsb' 35 2) t.pa with
        | .error _ => .stop cRangeMiss false
        | .ok p =>
          let e : Word := BitVec.ofNat 64 (devRead8 s p)
          if !pteV e then .stop cPageNotPresent false
          else if pteMalformed lvl e then .stop cPageNotPresent true
          else if ptePointer e then walkFrom s dom va n (lvl + 1) (e.extractLsb' 13 39 ++ (0 : BitVec 13))
          else .leaf lvl e p

/-- The places of the entries that the walk reads, in order. -/
def walkPlaces (s : State) (dom : BitVec 12) (va : BitVec 48) : Nat → Nat → BitVec 52 → List Place
  | 0, _, _ => []
  | n + 1, lvl, table =>
    match stage2 s dom (table + BitVec.ofNat 52 (8 * vaIndex lvl va)) with
    | none => []
    | some t =>
      if !t.r then []
      else match placeOf s 0 0 (t.pa.extractLsb' 35 2) t.pa with
        | .error _ => []
        | .ok p =>
          let e : Word := BitVec.ofNat 64 (devRead8 s p)
          p :: (if pteV e && !pteMalformed lvl e && ptePointer e then walkPlaces s dom va n (lvl + 1) (e.extractLsb' 13 39 ++ (0 : BitVec 13)) else [])

/-- The domain address that a leaf gives (R183, R184). -/
def leafDa (lvl : Nat) (e : Word) (va : BitVec 48) : BitVec 52 :=
  let f : BitVec 52 := e.extractLsb' 18 34 ++ (0 : BitVec 18)
  if lvl = 1 then f ||| (va.extractLsb' 0 38).setWidth 52 else if lvl = 2 then f ||| (va.extractLsb' 0 28).setWidth 52
  else f ||| (va.extractLsb' 0 18).setWidth 52

/-! ### The dirty-page log (R308, R309) -/

/-- Appends a page to a domain's dirty-page log; none when the log is full. An entry whose place is not covered with W is lost, as a record of an
event queue is (R304, R308); the log's words are read and written for the parent by no strand (R192, R196). -/
def dirtyAppend (s0 : State) (src : Fin 4) (x : Dom) (page : Word) : Option State :=
  let par := x.parent
  let s := [0, 8].foldl (fun s k => match devPlace s par (x.dlbase + BitVec.ofNat 52 k) true with
    | some p => devMet s src par ((x.dlbase + BitVec.ofNat 52 k).setWidth 64) noStrand p
    | none => s) s0
  let word (k : Nat) : Nat := match devPlace s par (x.dlbase + BitVec.ofNat 52 k) true with
    | some p => devRead8 s p
    | none => 0
  let size := 2 ^ x.dlk.toNat
  let head := word 0
  let tail := word 8
  let used := (head + 2 ^ 64 - tail) % 2 ^ 64
  if size ≤ used then none
  else
    let put (s : State) (k v : Nat) : State := match devPlace s par (x.dlbase + BitVec.ofNat 52 k) true with
      | some p => devPut s src par ((x.dlbase + BitVec.ofNat 52 k).setWidth 64) noStrand p 8 v
      | none => s
    if (devPlace s par (x.dlbase + BitVec.ofNat 52 (64 + 8 * (head % size))) true).isNone || (devPlace s par x.dlbase true).isNone then some s
    else
    let s := put s (64 + 8 * (head % size)) page.toNat
    let s := put s 0 (head + 1)
    some (if 4 * used < 3 * size && 3 * size ≤ 4 * (used + 1) then event s par 6 1 [x.id.setWidth 64] else s)

/-! ### The walk -/

/-- The TLB entry of a leaf for the granule of an address. -/
def tlbOf (dom : BitVec 12) (va : BitVec 48) (lvl : Nat) (e : Word) (da : BitVec 52) (t : Stage2) : Tlb where
  dom := dom
  vpn := va.extractLsb' 18 30
  dpn := da.extractLsb' 18 34
  ppn := t.pa.extractLsb' 18 34
  r := e.getLsbD 1 && t.r
  w := e.getLsbD 2 && t.w
  x := e.getLsbD 3 && t.x
  pl := e.extractLsb' 8 2
  ps := e.extractLsb' 12 2
  hd := e.extractLsb' 10 2
  st := e.extractLsb' 4 2
  hm := e.getLsbD 14
  dirty := e.getLsbD 7
  size := BitVec.ofNat 2 (3 - lvl)

def Tlb.allows (t : Tlb) : Access → Bool
  | .fetch => t.x
  | .read => t.r
  | .write => t.w
  | .atomic => t.r && t.w

/-- PL, PS, HD and the physical address that a translation gives an address. -/
def Tlb.locOf (t : Tlb) (va : BitVec 48) : Loc := ⟨t.pl ++ t.ps ++ t.hd, t.ppn ++ va.extractLsb' 0 18⟩

/-- HD of a translation's mirrored page (R190). -/
def Tlb.mirrorOf (t : Tlb) : Option (Fin 4) := mirrorHd t.pl t.hd

def tlbCap : Nat := 128
def dieTlbCap : Nat := 4096

/-- Fills a core's TLB and its die's, the oldest entry leaving (R317; log entry 3). -/
def tlbFill (s : State) (c : CoreId) (t : Tlb) : State :=
  let keep (l : List Tlb) : List Tlb := l.filter fun u => !(u.dom == t.dom && u.vpn == t.vpn)
  let s := modCore s c fun k => { k with tlb := (t :: keep k.tlb).take tlbCap }
  modDie s c.die fun d => { d with tlb := (t :: keep d.tlb).take dieTlbCap }

/-- PAGE_WALK: the walk of a missed address for the strand of a group, A and D, the log, the fill (R186, R308, R309, R317). -/
def pageWalk (s0 : State) (c : CoreId) (dom : BitVec 12) (g : Word) (va : BitVec 48) (acc : Access) : Except AccFault Tlb × State :=
  let root := (domAt s0 dom).ptroot
  let s := (walkPlaces s0 dom va 3 1 root).foldl (fun s p => devMet s c.die dom (va.setWidth 64) g p) s0
  match walkFrom s0 dom va 3 1 root with
  | .stop code mal => (.error ⟨code, mal, none⟩, if mal then countErr s c.die 7 else s)
  | .leaf lvl e p =>
    let da := leafDa lvl e va
    match stage2 s dom da with
    | none => (.error ⟨cRangeMiss, false, some da⟩, s)
    | some t =>
      match placeOf s (e.extractLsb' 8 2) (e.extractLsb' 12 2) (e.extractLsb' 10 2) t.pa with
      | .error .rangeMiss => (.error ⟨cRangeMiss, false, some da⟩, s)
      | .error .malformed => (.error ⟨cPageNotPresent, true, some da⟩, countErr s c.die 7)
      | .ok _ =>
        let u := tlbOf dom va lvl e da t
        if !u.allows acc then (.error ⟨cPermission, false, some da⟩, s)
        else if accWrites acc && u.st == 1 then (.error ⟨cDiscarded, false, some da⟩, s)
        else
          let setD := accWrites acc && !u.dirty
          let x := domAt s dom
          let size : Word := (3 - BitVec.ofNat 64 lvl) &&& 3
          let page : Word := ((if lvl = 1 then da.extractLsb' 38 14 ++ (0 : BitVec 20) else if lvl = 2 then da.extractLsb' 28 24 ++ (0 : BitVec 10)
            else da.extractLsb' 18 34) ++ (0 : BitVec 18)).setWidth 64 ||| size
          let logged : Option State := if setD && x.dlog then dirtyAppend s c.die x page else some s
          match logged with
          | none => (.error ⟨cDirtyLogFull, false, some da⟩, event s x.parent 6 2 [x.id.setWidth 64])
          | some s =>
            let e' : Word := e ||| 64 ||| (if accWrites acc then 128 else 0)
            let s := if e' == e then s else devPut s c.die dom (va.setWidth 64) g p 8 e'.toNat
            let u := { u with dirty := u.dirty || accWrites acc }
            (.ok u, tlbFill s c u)

/-- The TLB entry that serves an access: a clean entry does not authorise a write (R317). -/
def tlbFind (l : List Tlb) (dom : BitVec 12) (va : BitVec 48) (acc : Access) : Option Tlb :=
  l.find? fun t => t.dom == dom && t.vpn == va.extractLsb' 18 30 && (t.dirty || !accWrites acc)

/-- A request of die `src` is held: its home is on a die that has failed and is not declared yet, until step 4 of its deadbolting; or no path of the ring
leads to the home, or to the port to it, until links or conditions change (R9, R10, R15, R397). -/
def homeAwaited (s : State) (src : Fin 4) (p : Place) : Bool :=
  match p with
  | .lost d => (regSt s d == .live || regSt s d == .testing) && (dieAt s d).fenced
  | .mem d _ => !pathUp s src d
  | .host _ => (hostPort s).any fun d => !pathUp s src d
  | .pkg q _ _ => (s.route[q.val]).any fun f => !pathUp s src f.sdie

/-- The access under a translation: permission, page state, place (R182, R185, R186, R193, R194). -/
def useTlb (s : State) (c : CoreId) (t : Tlb) (va : BitVec 48) (acc : Access) : Tr :=
  let da : BitVec 52 := t.dpn ++ va.extractLsb' 0 18
  if !t.allows acc then .bad ⟨cPermission, false, some da⟩ s
  else if t.st == 1 && (accWrites acc || acc == .fetch) then .bad ⟨cDiscarded, false, some da⟩ s
  else if t.st == 2 then .wait s
  else match placeOf s t.pl t.ps t.hd (t.ppn ++ va.extractLsb' 0 18) with
    | .ok p => if homeAwaited s c.die p then .wait s else .ok t p s
    | .error .rangeMiss => .bad ⟨cRangeMiss, false, some da⟩ s
    | .error .malformed => .bad ⟨cPageNotPresent, true, some da⟩ (countErr s c.die 7)

/-- Translates an address of a domain for an access made on a core, by a strand of group `g` (R181 to R186, R305, R317). -/
def translate (s : State) (c : CoreId) (dom : BitVec 12) (g : Word) (va : BitVec 48) (acc : Access) : Tr :=
  match tlbFind (coreAt s c).tlb dom va acc with
  | some t => useTlb s c t va acc
  | none => match tlbFind (dieAt s c.die).tlb dom va acc with
    | some t => useTlb (tlbFill s c t) c t va acc
    | none => match pageWalk s c dom g va acc with
      | (.error f, s) => .bad f s
      | (.ok t, s) => useTlb s c t va acc

/-- The operand record of a memory cause (R380). -/
def accOpnd (f : AccFault) (write fetch tile : Bool) : List Word :=
  [BitVec.ofNat 64 ((if f.mal then 1 else 0) + (if write then 2 else 0) + (if fetch then 4 else 0) + (if tile then 8 else 0)),
    (f.da.getD 0).setWidth 64]

/-! ### Fetch (R5, R45, R186, R193) -/

/-- The outcome of a fetch. -/
inductive Fetch where
  | ok (w : BitVec 320) (s : State)
  | bad (va : BitVec 48) (f : AccFault) (s : State)
  | wait (s : State)
  /-- The bytes lie outside the package: a read of n bytes is to be sent (R11, R266). -/
  | ask (p : Place) (va : BitVec 48) (n : Nat) (s : State)

/-- The instruction store's capacity in bundles (R5: 64 KiB). -/
def istoreCap : Nat := 1638

/-- Reads the part of a bundle that lies in one granule: zeros from a lost home (R192); from outside, what its read has returned. -/
def fetchPart (s : State) (got : List (BitVec 48 × Nat)) (c : CoreId) (dom : BitVec 12) (g : Word) (va : BitVec 48) (n : Nat) : Except Fetch (Nat × State) :=
  match translate s c dom g va .fetch with
  | .bad f s => .error (.bad va f s)
  | .wait s => .error (.wait s)
  | .ok _ p s => match p with
    | .mem d off => .ok (memRead s.mem (memKey d off) n, devSeen (devSeen s p) (p.plus (n - 1)))
    | .lost _ => .ok (0, readLost s c.die dom (va.setWidth 64) g)
    | _ => match got.find? fun q => q.1 == va with
      | some q => .ok (q.2, s)
      | none => .error (.ask p va n s)

/-- Fetches the bundle at a virtual address; it can straddle two granules (R45). -/
def fetchBundle (s : State) (got : List (BitVec 48 × Nat)) (c : CoreId) (dom : BitVec 12) (g : Word) (va : BitVec 48) : Fetch :=
  match tabGet? (coreAt s c).istore (dom, va) with
  | some w => .ok w s
  | none =>
    let room := 2 ^ 18 - va.toNat % 2 ^ 18
    let n := if room < 40 then room else 40
    match fetchPart s got c dom g va n with
    | .error f => f
    | .ok (lo, s) =>
      let hi := if n = 40 then .ok (0, s) else fetchPart s got c dom g (va + BitVec.ofNat 48 n) (40 - n)
      match hi with
      | .error f => f
      | .ok (h, s) =>
        let w : BitVec 320 := BitVec.ofNat 320 (lo + h * 2 ^ (8 * n))
        .ok w (modCore s c fun k => { k with istore := (((dom, va), w) :: k.istore).take istoreCap })

end Sys2Proof.Machine
end

