-- ==== Sys2Proof/Machine/Group.lean ====
section
/-! DEFINITION. Groups, their members, tiles and completion: the tile table's frees (spec/08 R200; spec/09 R230), barriers (spec/14 R354),
completion posts (spec/02 R30), kills (spec/02 R18, spec/13 R332) and range shares (spec/02 R32 to R34). -/

namespace Sys2Proof.Machine

/-! ### Launch records (R27) -/

def lEntry (r : Vector Word 16) : Pc := r[0].setWidth 40
def lCbase (r : Vector Word 16) : BitVec 48 := r[1].setWidth 48
def lDmask (r : Vector Word 16) : BitVec 4 := r[2].extractLsb' 32 4
def lRng (r : Vector Word 16) : Bool := r[2].getLsbD 31
def lPri (r : Vector Word 16) : BitVec 3 := r[2].extractLsb' 28 3
def lGcnt (r : Vector Word 16) : Nat := (r[2].extractLsb' 8 16).toNat
def lScnt (r : Vector Word 16) : Nat := (r[2].extractLsb' 0 7).toNat
def lPack (r : Vector Word 16) : Nat := (r[3].extractLsb' 10 2).toNat + 1
def lAtiles (r : Vector Word 16) : Nat := (r[3].extractLsb' 6 4).toNat
def lSbanks (r : Vector Word 16) : Nat := (r[3].extractLsb' 0 6).toNat
def lRbase (r : Vector Word 16) : Word := r[8]
def lRend (r : Vector Word 16) : Word := r[9]
def lChunk (r : Vector Word 16) : Nat := (r[10].extractLsb' 0 32).toNat
def lCdie (r : Vector Word 16) : BitVec 2 := r[11].extractLsb' 13 2
def lCcore (r : Vector Word 16) : BitVec 6 := r[11].extractLsb' 7 6
def lCflag (r : Vector Word 16) : BitVec 5 := r[11].extractLsb' 2 5
def lCkind (r : Vector Word 16) : BitVec 2 := r[11].extractLsb' 0 2
def lCaddr (r : Vector Word 16) : Word := r[12]
def lArg (r : Vector Word 16) : Word := r[13]

/-! ### Finding groups -/

/-- The die of a group. -/
def groupDie (s : State) (g : BitVec 20) : Option (Fin 4) := allDies.find? fun d => (dieAt s d).groups.any fun x => x.id == g

def groupAt (s : State) (g : BitVec 20) : Option Group :=
  match groupDie s g with
  | some d => (dieAt s d).groups.find? fun x => x.id == g
  | none => none

def modGroup (s : State) (g : BitVec 20) (f : Group → Group) : State :=
  match groupDie s g with
  | some d => modDie s d fun x => { x with groups := x.groups.map fun y => if y.id == g then f y else y }
  | none => s

def dropGroup (s : State) (g : BitVec 20) : State :=
  match groupDie s g with
  | some d => modDie s d fun x => { x with groups := x.groups.filter fun y => !(y.id == g) }
  | none => s

def launchAt (s : State) (n : Nat) : Option Launch := s.launches.find? fun l => l.id == n
def modLaunch (s : State) (n : Nat) (f : Launch → Launch) : State :=
  { s with launches := s.launches.map fun l => if l.id == n then f l else l }

/-! ### Tiles of a core -/

def tileAt (s : State) (c : CoreId) (tid : Nat) : Option Tile := (coreAt s c).tiles.find? fun t => t.tid == tid
def modTile (s : State) (c : CoreId) (tid : Nat) (f : Tile → Tile) : State :=
  modCore s c fun k => { k with tiles := k.tiles.map fun t => if t.tid == tid then f t else t }

def setBanks (k : Core) (l : List (Fin 32)) (st : SBankSt) : Core :=
  { k with sbank := l.foldl (fun v b => v.set b.val { v[b.val] with st := st }) k.sbank }

/-- Frees a tile of a core's table: its banks start their clear (R200, R230). -/
def freeTile (s : State) (c : CoreId) (tid : Nat) : State :=
  match tileAt s c tid with
  | none => s
  | some t => modCore s c fun k =>
    setBanks { k with tiles := k.tiles.filter fun u => !(u.tid == tid) } (match t.st with
      | .spilled _ => []
      | .alloc => []
      | .live => t.banks
      | .parked => t.banks
      | .discarded => []
      | .dying => t.banks) .clearing

/-- Gives a spill slot back; what has not been written to it yet is not written any more. -/
def freeSlot (s : State) (d : BitVec 12) (slot : Nat) : State :=
  let s := modDom s d fun x => { x with used := x.used.filter fun k => !(k == slot) }
  { s with cores := s.cores.map fun p => (p.1, { p.2 with spillq := p.2.spillq.filter fun q => !(q.dom == d && q.k == slot) }) }

/-- The free spill slots of a domain. -/
def freeSlots (s : State) (d : BitVec 12) : List Nat := (List.range (domAt s d).slots.toNat).filter fun k => !(domAt s d).used.contains k

/-- The lowest free spill slot of a domain (R316, R383). -/
def freeSlotOf (s : State) (d : BitVec 12) : Option Nat := (freeSlots s d).head?

def takeSlot (s : State) (d : BitVec 12) (slot : Nat) : State := modDom s d fun x => { x with used := slot :: x.used }

/-- Frees every tile of a strand on a core, spill slots included. -/
def freeStrandTiles (s : State) (c : CoreId) (g : BitVec 20) (ix : BitVec 6) : State :=
  ((coreAt s c).tiles.filter fun t => t.grp == g && t.ix == ix).foldl (fun s t =>
    let s := match t.st with
      | .spilled k => freeSlot s t.dom k
      | _ => s
    freeTile s c t.tid) s

/-- The tile that a reference names. -/
def refTile (s : State) (c : CoreId) (g : BitVec 20) (r : TRef) : Option Tile :=
  match r with
  | .own n => tileAt s c n
  | .grp h => match groupAt s g with
    | some x => x.dt[h.val]
    | none => none

def modRef (s : State) (c : CoreId) (g : BitVec 20) (r : TRef) (f : Tile → Tile) : State :=
  match r with
  | .own n => modTile s c n f
  | .grp h => modGroup s g fun x => { x with dt := x.dt.set h.val (x.dt[h.val].map f) }

/-- Frees the tile that a reference names: an own tile, or the group's D tile whose units are released (R203, R230). -/
def freeRef (s : State) (c : CoreId) (g : BitVec 20) (r : TRef) : State :=
  match r with
  | .own n => freeTile s c n
  | .grp h => modGroup s g fun x => { x with dt := x.dt.set h.val none }

/-! ### Barriers (R354) -/

def Group.doneCount (g : Group) : Nat := (g.members.filter fun m => m == .done).length

/-- Completes a barrier whose arrivals and done members make the strand count. -/
def barCheck (g : Group) (k : Fin 4) : Group :=
  let b := g.bars[k.val]
  if b.arrivals != 0 && b.arrivals + g.doneCount == g.members.length then { g with bars := g.bars.set k.val ⟨0, !b.phase⟩ } else g

/-- One arrival at a barrier. -/
def barArrive (g : Group) (k : Fin 4) : Group :=
  barCheck { g with bars := g.bars.set k.val { g.bars[k.val] with arrivals := g.bars[k.val].arrivals + 1 } } k

/-- A barrier wait ends when the phase has changed (R42). -/
def Ctx.passBar (s : State) (c : Ctx) : Ctx :=
  match c.wait with
  | .bar k ph => match groupAt s c.grp with
    | some g => if g.bars[k.val].phase == ph then c else c.nextWait
    | none => c
  | _ => c

/-- The barrier waits whose phase has changed end. -/
def barWake (s : State) : State :=
  { s with ctx := s.ctx.passBar s, ctxs := List.map (fun p : CtxId × Ctx => (p.1, p.2.passBar s)) s.ctxs }

/-! ### Completion (R30) -/

/-- The atomic add of a completion target of kind 2, translated in the launch's domain; it stalls at a migrating page (R30, R194). -/
def completeWord (s : State) (dom : BitVec 12) (a g : Word) : State :=
  let c : CoreId := ((domAt s dom).cores.head?.map MapEntry.core).getD ⟨0, 0⟩
  if 2 ^ 48 ≤ a.toNat then event s dom 3 7 [a, g]
  else match translate s c dom g (a.setWidth 48) .atomic with
    | .bad _ s => event s dom 3 7 [a, g]
    | .wait s => { s with stalls := s.stalls ++ [.word dom a g] }
    | .ok t p s => match p with
      | .mem d off =>
        let r := readMem s d off 8
        (homeWrite r.st d off 8 (r.val + 1) t.mirrorOf).1
      | .lost _ => readLost s c.die dom a g
      | _ => sendAsk s c.die p 8 (.atomic 0x91 1 0) .nobody

/-- The posts that complete a launch. -/
def launchTotal (l : Launch) : Nat := if lRng l.record then lGcnt l.record * l.shares.length else lGcnt l.record

/-- One post of a launch's completion target (R30). A target of kind 1 that names a core outside the domain's core map has no flag: nothing is
posted and no event is queued, and the core map is the one in force at the post, not at the record's acceptance (DESIGN CHOICE, log entry 58). -/
def postTarget (s : State) (l : Launch) (g : Word) : State :=
  match lCkind l.record with
  | 1 => match physOf s l.dom (lCdie l.record) (lCcore l.record) with
    | some c => postFlag s ⟨c, fin32 (lCflag l.record).toNat⟩ 1
    | none => s
  | 2 => if l.record[12].extractLsb' 0 3 == 0 then completeWord s l.dom (lCaddr l.record) g else s
  | _ => s

/-- Posts a group's completion once, and ends a complete launch; the last launch of a task set's frame ends the frame (R30, R405). -/
def postCompletion (s : State) (n : Nat) (g : Word) : State :=
  match launchAt s n with
  | none => s
  | some l =>
    let s := modLaunch (postTarget s l g) n fun l => { l with posted := l.posted + 1 }
    if launchTotal l ≤ l.posted + 1 then
      let s := { s with launches := s.launches.filter fun l => !(l.id == n) }
      { s with tasksets := s.tasksets.map fun t =>
        if t.running.contains n then
          let r := t.running.filter fun k => !(k == n)
          { t with running := r, ckptDue := r.isEmpty && t.refused.isEmpty }
        else t }
    else s

/-- A group whose members are all Done: its D tiles go, its completion is posted (R24, R30). -/
def groupEnd (s : State) (g : BitVec 20) : State :=
  match groupAt s g with
  | none => s
  | some x => if x.members.all fun m => m == .done then postCompletion (dropGroup s g) x.launch (groupWord g) else s

def setMember (s : State) (g : BitVec 20) (ix : BitVec 6) (m : Member) : State :=
  modGroup s g fun x => { x with members := x.members.set ix.toNat m }

/-- The chunks that a strand holds are open no longer (R34). -/
def closeChunks (s : State) (g : BitVec 20) (ix : BitVec 6) : State :=
  { s with launches := s.launches.map fun l => { l with shares := l.shares.map fun h =>
    { h with held := h.held.filter fun k => !(k.2.1 == g && k.2.2 == ix) } } }

/-- A member reaches Done: barriers, chunks, the group's end (R30, R34, R354). -/
def memberDone (s : State) (g : BitVec 20) (ix : BitVec 6) : State :=
  let s := closeChunks (setMember s g ix .done) g ix
  let s := modGroup s g fun x => barCheck (barCheck (barCheck (barCheck x 0) 1) 2) 3
  groupEnd (barWake s) g

/-! ### Operating points (R362) -/

/-- The OP that a core should run at: the largest request of its residents under the partition's limit and the die's ceilings. -/
def opTarget (s : State) (c : CoreId) : BitVec 3 :=
  let l := residents s c
  let req := l.foldl (fun m x => Nat.max m (ctxAt s x).opreq.toNat) 0
  let lim := l.foldl (fun m x => Nat.min m (limitsOf s (ctxAt s x).dom).opmax.toNat) 7
  BitVec.ofNat 3 (Nat.min (Nat.min req lim) (Nat.min (dieAt s c.die).ceil.toNat (dieAt s c.die).slackCeil.toNat))

/-- A change of operating point starts where none settles, caused by the requests of some slots. -/
def opUpdate (s : State) (c : CoreId) (by_ : List (Fin 4)) : State :=
  let k := coreAt s c
  if (residents s c).isEmpty || k.settle.isSome || k.opCur == opTarget s c then s
  else putCore s c { k with settle := some ⟨opTarget s c, by_, []⟩ }

/-- A slot's request has moved the target of its core: it causes a change at once, or the one after the change that settles now (R362). -/
def opRequest (s : State) (c : CoreId) (k : Fin 4) : State :=
  match (coreAt s c).settle with
  | none => opUpdate s c [k]
  | some v => modCore s c fun q => { q with settle := some { v with next := k :: v.next } }

/-- A strand that leaves its slot waits for no change any more. -/
def dropSettle (s : State) (x : CtxId) : State :=
  let f (l : List (Fin 4)) : List (Fin 4) := l.filter fun k => !(decide (k = x.slot))
  modCore s x.core fun q => { q with settle := q.settle.map fun v => { v with by_ := f v.by_, next := f v.next } }

/-! ### Leaving a context slot -/

/-- A domain's deficit is dropped when its last resident context on the core leaves (R359). -/
def dropDeficit (s : State) (c : CoreId) (d : BitVec 12) : State :=
  if (residents s c).any fun x => (ctxAt s x).dom == d then s
  else modCore s c fun k => { k with deficits := tabDel k.deficits d }

/-- The flag that a context watches (R353). -/
def Wait.watched : Wait → Option FlagRef
  | .fwait fl false _ true _ _ _ _ => some fl
  | _ => Option.none

/-- The context's watch at its flag's core ends. -/
def dropWatch (s : State) (x : CtxId) : State :=
  match ((ctxAt s x).wait :: (ctxAt s x).waits ++ (ctxAt s x).resume).findSome? Wait.watched with
  | some fl => modCore s fl.core fun k => { k with watches := k.watches.filter fun p => !(decide (p.2 = x)) }
  | none => s

/-- A context that starts to wait again takes a watch, or polls while none is free (R353, R391). -/
def takeWatch (s : State) (x : CtxId) : State :=
  match (ctxAt s x).wait with
  | .fwait fl false v true vd vc _ sat =>
    let full := 64 ≤ (coreAt s fl.core).watches.length
    let s := if full then s else modCore s fl.core fun k => { k with watches := k.watches ++ [(x.slot, x)] }
    modCtx s x fun c => { c with wait := .fwait fl false v true vd vc full sat }
  | _ => s

/-- A slot that no strand stands on any more: its registers stay as the strand left them until another strand starts there, its tiles, window, queue and
waits are gone (R146, R431, R433, R437). -/
def Ctx.leave (c : Ctx) : Ctx :=
  { Ctx.reset with
    sreg := c.sreg, vreg := c.vreg, vpar := c.vpar, preg := c.preg, livev := c.livev, livep := c.livep, vbank := c.vbank, pc := c.pc, cbase := c.cbase
    vrb := c.vrb, prb := c.prb, lc := c.lc, esc := c.esc, lrp := c.lrp, lcs := c.lcs, tvb := c.tvb, trp := c.trp, tcause := c.tcause, tepc := c.tepc
    tscr := c.tscr, dom := c.dom, depth := c.depth, grp := c.grp, strix := c.strix, ebud := c.ebud, nf := c.nf, rwp := c.rwp, te := c.te, priv := c.priv
    fpc := c.landAll.fpc, pri := c.pri, wdc := c.wdc }

/-- Empties a context slot. -/
def vacate (s : State) (x : CtxId) : State :=
  let d := (ctxAt s x).dom
  let s := putCtx (dropSettle (dropWatch (orphan s x) x) x) x (ctxAt s x).leave
  let s := modCore s x.core fun k => { k with copyq := k.copyq.filter fun p => !(decide (p.1 = x.slot)) }
  let s := { s with turn := if x = s.cur then false else s.turn, second := if s.second = some x then none else s.second }
  dropDeficit s x.core d

/-- Ends the strand on a slot: its tiles are free, its queue entries gone (R146, R332). -/
def endStrand (s : State) (x : CtxId) : State :=
  let c := ctxAt s x
  vacate (freeStrandTiles s x.core c.grp c.strix) x

/-- A reflection strand serves a strand of group g (R383). -/
def servesGroup (s : State) (c : Ctx) (g : BitVec 20) : Bool :=
  match c.occ with
  | .refl h k => allDies.any fun d => (dieAt s d).reflected.any fun r => r.h == h && r.slot == k && r.base.grp == g
  | _ => false

/-- Ends a reflection strand whose served strand is killed, and frees its spill slot. -/
def endReflection (s : State) (x : CtxId) : State :=
  match (ctxAt s x).occ with
  | .refl h k => vacate (freeSlot s h k) x
  | _ => s

/-- Ends what a slot holds of group g. -/
def endMember (s : State) (g : BitVec 20) (x : CtxId) : State :=
  let c := ctxAt s x
  if c.occ == .strand && c.grp == g then endStrand s x else s

/-- Kills a group: every member Done, its completion posted once (R18, R30, R332). -/
def killGroup (s : State) (g : BitVec 20) : State :=
  match groupDie s g, groupAt s g with
  | some d, some x =>
    let s := x.members.foldl (fun s m => match m with
      | .resident y => endMember s g y
      | _ => s) s
    let s := ((allResidents s).filter fun y => servesGroup s (ctxAt s y) g).foldl endReflection s
    let s := (dieAt s d).saved.foldl (fun s v => if v.base.grp == g then freeStrandTiles s v.core g v.base.strix else s) s
    let s := (coresOf d).foldl (fun s c => ((coreAt s c).tiles.filter fun t => t.grp == g).foldl (fun s t => freeTile s c t.tid) s) s
    let s := ((dieAt s d).reflected.filter fun v => v.base.grp == g).foldl (fun s v => freeSlot s v.h v.slot) s
    let s := modDie s d fun y =>
      { y with
        saved := y.saved.filter fun v => !(v.base.grp == g) && !(servesGroup s v.base g)
        reflected := y.reflected.filter fun v => !(v.base.grp == g)
        contq := y.contq.filter fun e => !((e.record.extractLsb' 76 8 ++ e.record.extractLsb' 84 12) == g) }
    let s := { s with launches := s.launches.map fun l => { l with shares := l.shares.map fun h =>
      { h with held := h.held.filter fun k => !(k.2.1 == g) } } }
    groupEnd (modGroup s g fun y => { y with members := y.members.map fun _ => .done }) g
  | _, _ => s

/-! ### Range shares (R32 to R34) -/

/-- The number of chunks of a range. -/
def chunkCount (r : Vector Word 16) : Nat :=
  ((lRend r).toNat - (lRbase r).toNat + lChunk r - 1) / lChunk r

/-- The shares of a share set: ascending, contiguous, one more chunk for the first C mod k (R32). -/
def makeShares (c k : Nat) : Nat → Nat → List (Fin 4) → List Share
  | _, _, [] => []
  | j, lo, d :: t =>
    let n := c / k + (if j < c % k then 1 else 0)
    ⟨d, lo, lo + n, [], [], [], []⟩ :: makeShares c k (j + 1) (lo + n) t

/-- The unclaimed ranges of a share, ascending. -/
def Share.ranges (h : Share) : List (Nat × Nat) := ((h.lo, h.hi) :: h.more).filter fun r => decide (r.1 < r.2)

def Share.withRanges (h : Share) (l : List (Nat × Nat)) : Share :=
  match l with
  | [] => { h with lo := h.hi, more := [] }
  | r :: t => { h with lo := r.1, hi := r.2, more := t }

/-- Unclaimed chunks of a share. -/
def Share.unclaimed (h : Share) : Nat := (h.ranges.map fun r => r.2 - r.1).sum

/-- Takes n chunks from descending ranges: what is taken and what stays, both descending. -/
def topChunks : Nat → List (Nat × Nat) → List (Nat × Nat) × List (Nat × Nat)
  | _, [] => ([], [])
  | n, (a, b) :: t =>
    if n = 0 then ([], (a, b) :: t)
    else if b - a ≤ n then
      let q := topChunks (n - (b - a)) t
      ((a, b) :: q.1, q.2)
    else ([(b - n, b)], (a, b - n) :: t)

/-- The victim of a dry die's steal: the member with the most unclaimed chunks, at least two, the lowest virtual die on a tie (R33). -/
def victimOf (l : List Share) : Option Share :=
  l.foldl (fun (b : Option Share) h =>
    if h.unclaimed < 2 then b
    else match b with
      | some v => if v.unclaimed < h.unclaimed then some h else b
      | none => some h) none

/-- A steal as its victim performs it: the upper half of its unclaimed chunks is on the way to the thief (R33, R296). -/
def steal (thief victim : Fin 4) (l : List Share) : List Share :=
  match l.find? fun h => decide (h.die = victim) with
  | none => l
  | some v =>
    let q := topChunks (v.unclaimed / 2) v.ranges.reverse
    l.map fun h => if h.die = victim then h.withRanges q.2.reverse else if h.die = thief then { h with coming := h.coming ++ q.1.reverse } else h

/-- Ranges that come to a share, ascending. -/
def Share.gains (h : Share) (l : List (Nat × Nat)) : Share := h.withRanges (sortBy (fun a b => decide (a.1 ≤ b.1)) (h.ranges ++ l))

/-- The response to a steal: what came is in the thief's share (R296). -/
def receiveSteal (thief : Fin 4) (l : List Share) : List Share :=
  l.map fun h => if h.die = thief then { h.gains h.coming with coming := [] } else h

/-- A die of a share set has nothing to claim: no inherited chunk, none of its own (R33, R34). -/
def shareDry (d : Fin 4) (l : List Share) : Bool := l.any fun h => decide (h.die = d) && h.again.isEmpty && h.ranges.isEmpty

/-- The next chunk of a die: inherited open chunks first, then the lowest of its share (R33, R34). -/
def claim (d : Fin 4) (g : BitVec 20) (ix : BitVec 6) (l : List Share) : Option Nat × List Share :=
  match l.find? fun h => decide (h.die = d) with
  | none => (none, l)
  | some h => match h.again with
    | k :: t => (some k, l.map fun y => if y.die = d then { y with again := t, held := (k, g, ix) :: y.held } else y)
    | [] => match h.ranges with
      | [] => (none, l)
      | (a, b) :: t => (some a, l.map fun y => if y.die = d then { y.withRanges ((a + 1, b) :: t) with held := (a, g, ix) :: y.held } else y)

end Sys2Proof.Machine
end

