-- ==== Sys2Proof/Machine/Save.lean ====
section
/-! DEFINITION. The context save record (spec/15 R389, R390) as words, the check and the reading back of a record (R391). -/

namespace Sys2Proof.Machine

/-- Pads a list of words to a multiple of 64 bytes (R389: each part begins on a 64-byte boundary). -/
def pad64 (l : List Word) : List Word := l ++ List.replicate ((8 - l.length % 8) % 8) 0

/-- The words of a number, lowest first. -/
def natWords (v : Nat) : Nat → List Word
  | 0 => []
  | n + 1 => BitVec.ofNat 64 v :: natWords (v / 2 ^ 64) n

/-- The number that a list of words holds, the first lowest. -/
def wordsNat : List Word → Nat
  | [] => 0
  | w :: t => w.toNat + 2 ^ 64 * wordsNat t

/-- Word k of a list, zero beyond its end. -/
def wordAt (l : List Word) (k : Nat) : Word := l.getD k 0

def EntrySt.code : EntrySt → BitVec 3
  | .pending => 0
  | .held => 1
  | .started => 2
  | .parked => 3

/-- The cause that a window entry owes: its own where it is parked, else its deadline's (R227, R357, R390). -/
def Ctx.owes (c : Ctx) (e : Entry) : Option (BitVec 8) :=
  match e.owed with
  | some t => some t.code
  | none => if c.missed.any fun m => m.n == e.n then some cDeadline else none

/-- A window entry in 32 words, with the cause that it owes (R390). -/
def entryWords (owed : Option (BitVec 8)) (e : Entry) : List Word :=
  let w0 : Word := (0 : BitVec 6) ++ e.fpc ++ BitVec.ofBool e.rwp ++ e.st.code ++ e.pc
  let cause : BitVec 8 := owed.getD 0
  let w1 : Word := (0 : BitVec 8) ++ cause ++ BitVec.ofBool e.inh ++ BitVec.ofBool e.rule.isSome
    ++ BitVec.ofNat 6 ((e.rule.map Fin.val).getD 0) ++ e.slot
  let opc (k : Nat) : Word := ((e.orig[k]?).map fun o => o.pc.setWidth 64).getD 0
  let ofo (k : Nat) : Word := ((e.orig[k]?).map fun o => o.slot.setWidth 64).getD 0
  let w11 : Word := (0 : BitVec 37) ++ BitVec.ofInt 11 e.phib ++ (0 : BitVec 5) ++ BitVec.ofInt 11 e.phia
  [w0, w1, e.sval, e.dl.getD 0, BitVec.ofNat 64 (e.prog % 2 ^ 40), opc 0, opc 1, opc 2, ofo 0, ofo 1, ofo 2, w11, 0, 0, 0, 0]
    ++ e.lay.toList ++ [0, 0, 0, 0]

/-- WAIT, WARG and WTGT of the header (R389). -/
def waitWords (w : Wait) : BitVec 3 × Word × Word :=
  match w with
  | .fwait fl _ v rt vd vc _ _ => (1, ((0 : BitVec 18) ++ vc ++ vd ++ BitVec.ofBool rt ++ BitVec.ofNat 5 fl.f.val ++ v), 0)
  | .bar k ph => (2, BitVec.ofNat 64 (k.val + if ph then 4 else 0), 0)
  | .tmwait t => (3, 0, t)
  | _ => (0, 0, 0)

def liveBits (h : Vector (Option Nat) 24) : BitVec 24 :=
  (List.finRange 24).foldl (fun m k => if (h[k.val]).isSome then m ||| oneBit 24 k.val else m) 0

/-- The context save record (R389). -/
def saveRecord (c : Ctx) (grade : BitVec 2) (pc : Pc) (tb : BitVec 64) : List Word :=
  let w := waitWords c.wait
  let c0 : Word := (0 : BitVec 16) ++ (c.livep ||| 1) ++ c.livev
  let c1 : Word := (0 : BitVec 8) ++ liveBits c.hmap ++ (0 : BitVec 5) ++ w.1 ++ (0 : BitVec 2) ++ grade ++ (0 : BitVec 2)
    ++ BitVec.ofNat 10 c.scq.length ++ (0 : BitVec 3) ++ BitVec.ofNat 5 c.win.length
  let c3 : Word := (0 : BitVec 29) ++ c.opreq ++ c.wdc
  let c4 : Word := (0 : BitVec 26) ++ c.strix ++ c.grp ++ c.dom
  let hdr := [c0, c1, pc.setWidth 64, c3, c4, tb, w.2.1, w.2.2]
  let regs := (c.sreg.toList.drop 1) ++ [0]
  let vs := (List.finRange 32).flatMap fun k => if bitOn c.livev k.val then natWords (c.vreg[k.val]).toNat 16 else []
  let ps := (List.finRange 16).flatMap fun k => if k.val ≠ 0 && bitOn c.livep k.val then natWords (c.preg[k.val]).toNat 2 else []
  let win := c.win.flatMap fun e => entryWords (c.owes e) e
  let sq := if c.scq.isEmpty then [] else
    let bytes := c.scq.foldr (fun x a => x.v.toNat + 256 * a) 0
    let bad := c.scq.foldr (fun x a => (if x.pois then 1 else 0) + 2 * a) 0
    pad64 (natWords bytes ((c.scq.length + 7) / 8)) ++ natWords bad 8
  let csrs : List Word := [c.landAll.fpc.setWidth 64, c.vrb.setWidth 64, c.prb.setWidth 64, c.lc, c.esc.setWidth 64, c.lrp.setWidth 64, c.lcs,
    c.tvb.setWidth 64, c.trp.setWidth 64, c.tcause.setWidth 64, c.tepc.setWidth 64, c.tscr, c.cst, c.ebud.setWidth 64, 0, 0]
  hdr ++ regs ++ vs ++ pad64 ps ++ win ++ sq ++ csrs

/-- The parts of a record by the counts of its header. -/
structure RecParts where
  c : List Word
  regs : List Word
  vs : List Word
  ps : List Word
  win : List Word
  sq : List Word
  csrs : List Word

def bitCount {w : Nat} (m : BitVec w) : Nat := (List.range w).foldl (fun n k => if m.getLsbD k then n + 1 else n) 0

def recNwin (l : List Word) : Nat := ((wordAt l 1).extractLsb' 0 5).toNat
def recNsq (l : List Word) : Nat := ((wordAt l 1).extractLsb' 8 10).toNat
def recLivev (l : List Word) : BitVec 32 := (wordAt l 0).extractLsb' 0 32
def recLivep (l : List Word) : BitVec 16 := (wordAt l 0).extractLsb' 32 16

def roundUp8 (n : Nat) : Nat := (n + 7) / 8 * 8

def recParts (l : List Word) : RecParts :=
  let nv := 16 * bitCount (recLivev l)
  let np := roundUp8 (2 * bitCount (recLivep l &&& 0xFFFE))
  let nw := 32 * recNwin l
  let ns := if recNsq l = 0 then 0 else roundUp8 ((recNsq l + 7) / 8) + 8
  let a := l.drop 8
  let b := a.drop 32
  let d := b.drop nv
  let e := d.drop np
  let f := e.drop nw
  ⟨l.take 8, a.take 32, b.take nv, d.take np, e.take nw, f.take ns, (f.drop ns).take 16⟩

/-- The length of a record in words. -/
def recLength (l : List Word) : Nat :=
  8 + 32 + 16 * bitCount (recLivev l) + roundUp8 (2 * bitCount (recLivep l &&& 0xFFFE)) + 32 * recNwin l
    + (if recNsq l = 0 then 0 else roundUp8 ((recNsq l + 7) / 8) + 8) + 16

/-- A reserved bit of a window entry (R390). -/
def entryReserved (w : List Word) : Bool :=
  (wordAt w 0).extractLsb' 58 6 != 0 || (wordAt w 0).extractLsb' 42 1 != 0 || (wordAt w 1).extractLsb' 56 8 != 0
    || (wordAt w 4).extractLsb' 40 24 != 0 || (List.range 6).any (fun k => (wordAt w (5 + k)).extractLsb' 40 24 != 0)
    || (wordAt w 11).extractLsb' 27 37 != 0 || (wordAt w 11).extractLsb' 11 5 != 0
    || [12, 13, 14, 15, 28, 29, 30, 31].any fun k => wordAt w k != 0

/-- Cuts a list of words into entries of 32. -/
def cut32 : Nat → List Word → List (List Word)
  | 0, _ => []
  | n + 1, l => l.take 32 :: cut32 n (l.drop 32)

/-- The bits of the 16 CSR words of a record that no field names (R117 to R119, R389). -/
def csrWordMask (k : Nat) : Word :=
  if k = 0 then ~~~0x3FFF else if k = 1 || k = 4 then ~~~0xF else if k = 2 then ~~~0x7 else if k = 3 || k = 6 || k = 11 then 0
  else if k = 5 || k = 7 || k = 10 then ~~~0xFFFFFFFFFF else if k = 8 then ~~~0xFFFFFFFFFF80 else if k = 9 then ~~~0xC0FF
  else if k = 12 then ~~~0xC5 else if k = 13 then ~~~0xFFFFFFFF else BitVec.allOnes 64

/-- A reserved bit of a record's CSR words, or a reserved RM (R83, R389). -/
def csrWordsReserved (l : List Word) : Bool :=
  ((List.range 16).any fun k => wordAt l k &&& csrWordMask k != 0) || decide (6 ≤ ((wordAt l 0).extractLsb' 0 3).toNat)

/-- The check of R391: a reserved bit, NWIN above 16, NSQ above 512, an inconsistent count. -/
def recGood (l : List Word) : Bool :=
  let p := recParts l
  recNwin l ≤ 16 && recNsq l ≤ 512 && recLength l ≤ l.length
    && (wordAt l 0).extractLsb' 48 16 == 0 && (wordAt l 0).getLsbD 32
    && (wordAt l 1).extractLsb' 56 8 == 0 && (wordAt l 1).extractLsb' 27 5 == 0 && (wordAt l 1).extractLsb' 22 2 == 0
    && (wordAt l 1).extractLsb' 18 2 == 0 && (wordAt l 1).extractLsb' 5 3 == 0
    && decide (((wordAt l 1).extractLsb' 24 3).toNat ≤ 3) && (wordAt l 1).extractLsb' 20 2 != 0
    && (wordAt l 2).extractLsb' 40 24 == 0 && (wordAt l 3).extractLsb' 35 29 == 0 && (wordAt l 4).extractLsb' 38 26 == 0
    && (wordAt l 6).extractLsb' 46 18 == 0 && ((wordAt l 1).extractLsb' 24 3 != 2 || (wordAt l 6).extractLsb' 3 61 == 0)
    && (cut32 (recNwin l) p.win).all (fun w => !entryReserved w)
    && !csrWordsReserved p.csrs

/-- A tile reference of a handle as the context's map has it. -/
def handleRef (hmap : Vector (Option Nat) 24) (h : BitVec 5) : Option TRef :=
  if hh : h.toNat < 24 then (hmap[h.toNat]).map TRef.own else some (.grp ⟨(h.toNat - 24) % 8, Nat.mod_lt _ (by decide)⟩)

/-- The originals that a record's entry names: RV, OPC and OF; what the record does not hold stays (R384, R390; log entry 14). -/
def restoreOrigs (hmap : Vector (Option Nat) 24) (base : List Orig) (w : List Word) : List Orig :=
  if (wordAt w 1).getLsbD 46 then
    (List.range 3).filterMap fun k =>
      let pc : Pc := (wordAt w (5 + k)).setWidth 40
      let v : SlotBits := (wordAt w (8 + k)).setWidth 40
      let fresh : Orig := ⟨pc, v, wordAt w 2, handleRef hmap (v.extractLsb' 27 5), handleRef hmap (v.extractLsb' 22 5), handleRef hmap (v.extractLsb' 17 5), []⟩
      if v = 0 then none else some (match base[k]? with
        | some o => if o.slot = v then { o with pc := pc } else fresh
        | none => fresh)
  else []

/-- An entry of a slot value that stands in no window yet. -/
def blankEntry (hmap : Vector (Option Nat) 24) (n : Nat) (slot : SlotBits) (a b : Bool) : Entry :=
  ⟨n, 0, 0, false, slot, 0, Vector.replicate 12 0, .pending, none, false, none, [], 0, 0, a, b, none, none, false, none, false, 0, 0, true, false, false,
    0, true, handleRef hmap (slot.extractLsb' 27 5), handleRef hmap (slot.extractLsb' 22 5), handleRef hmap (slot.extractLsb' 17 5), [], [], 0, 0, [], 0⟩

/-- An entry read back over the entry it was saved from: every entry but a parked one is pending again (R288, R384, R390, R391). -/
def restoreEntry (hmap : Vector (Option Nat) 24) (n cyc : Nat) (base : Option Entry) (w : List Word) : Entry :=
  let slot : SlotBits := (wordAt w 1).setWidth 40
  let code : BitVec 8 := (wordAt w 1).extractLsb' 48 8
  let parked := (wordAt w 0).extractLsb' 40 3 == 3
  let new := blankEntry hmap n slot (wordAt w 11 &&& 0x7FF != 0) (wordAt w 11 >>> 16 != 0)
  let e := match base with
    | some e => if e.slot = slot then e else { new with n := e.n }
    | none => new
  { e with
    pc := (wordAt w 0).setWidth 40, fpc := (wordAt w 0).extractLsb' 44 14, rwp := (wordAt w 0).getLsbD 43, sval := wordAt w 2
    lay := Vector.ofFn fun k : Fin 12 => wordAt w (16 + k.val)
    st := if parked then .parked else .pending
    dl := if wordAt w 3 == 0 then none else some (wordAt w 3)
    prog := ((wordAt w 4).setWidth 40).toNat, shut := true, queued := false, bparked := false, inh := (wordAt w 1).getLsbD 47, at_ := cyc
    rule := if (wordAt w 1).getLsbD 46 then some ⟨((wordAt w 1).extractLsb' 40 6).toNat, ((wordAt w 1).extractLsb' 40 6).isLt⟩ else none
    orig := restoreOrigs hmap e.orig w
    owed := if parked then (match e.owed with
      | some t => some { t with code := code }
      | none => some ⟨code, .d, 0, 0, []⟩) else none
    phia := ((wordAt w 11).extractLsb' 0 11).toInt, phib := ((wordAt w 11).extractLsb' 16 11).toInt }

def restoreEntries (hmap : Vector (Option Nat) 24) (cyc : Nat) : Nat → List Entry → List (List Word) → List Entry
  | _, _, [] => []
  | n, [], w :: t => restoreEntry hmap n cyc none w :: restoreEntries hmap cyc (n + 1) [] t
  | n, e :: l, w :: t => restoreEntry hmap n cyc (some e) w :: restoreEntries hmap cyc (n + 1) l t

/-- The scales of a saved queue. -/
def restoreScales (bytes bad : Nat) : Nat → List Scale
  | 0 => []
  | n + 1 => ⟨BitVec.ofNat 8 bytes, bad % 2 == 1⟩ :: restoreScales (bytes / 256) (bad / 2) n

/-- The wait of a record, on the core where the strand is restored; the drains of R142, R146 and R264, which have no code, go on (log entry 14). -/
def restoreWait (s : State) (c : CoreId) (dom : BitVec 12) (l : List Word) (base : Wait) : Wait :=
  let a := wordAt l 6
  let k := ((wordAt l 1).extractLsb' 24 3).toNat
  if k = 1 then
    let rt := a.getLsbD 37
    let vd := a.extractLsb' 38 2
    let vc := a.extractLsb' 40 6
    let sat := match base with
      | .fwait _ _ _ _ _ _ _ b => b
      | _ => false
    let core := if rt then physOf s dom vd vc else some c
    .fwait ⟨core.getD c, fin32 (a.extractLsb' 32 5).toNat⟩ core.isNone (a.setWidth 32) rt vd vc false sat
  else if k = 2 then .bar (fin4 (a.extractLsb' 0 2).toNat) (a.getLsbD 2)
  else if k = 3 then .tmwait (wordAt l 7)
  else match base with
    | .fence => .fence
    | .arrive b => .arrive b
    | .halt => .halt
    | .suspend => .suspend
    | _ => .none

/-- The live vector registers read back in ascending order. -/
def restoreV (livev : BitVec 32) (l : List Word) : Vector VReg 32 :=
  Vector.ofFn fun k : Fin 32 => if bitOn livev k.val then
    BitVec.ofNat 1024 (wordsNat ((l.drop (16 * bitCount (livev &&& BitVec.ofNat 32 (2 ^ k.val - 1)))).take 16)) else 0

def restoreP (livep : BitVec 16) (l : List Word) : Vector PReg 16 :=
  Vector.ofFn fun k : Fin 16 => if k.val ≠ 0 && bitOn livep k.val then
    BitVec.ofNat 128 (wordsNat ((l.drop (2 * bitCount (livep &&& BitVec.ofNat 16 (2 ^ k.val - 2)))).take 2)) else 0

/-- The banks after a restore: those of live registers wake as writes, the others are off (R391). -/
def restoreBanks (livev : BitVec 32) (cyc : Nat) : Vector VBank 8 :=
  Vector.ofFn fun b : Fin 8 => if (livev >>> (4 * b.val)) &&& 15 == 0 then VBank.reset else ⟨.waking, cyc, cyc + 24, 0⟩

/-- The context that a record gives, over the parts that other state holds (R391). A parity error that the save has met stays with its register
(DESIGN CHOICE, log entry 70). -/
def restoreCtx (s : State) (x : CtxId) (l : List Word) (base : Ctx) : Ctx :=
  let p := recParts l
  let cyc := (coreAt s x.core).cyc
  let livev := recLivev l
  let livep := recLivep l
  let cst := wordAt p.csrs 12
  let hlive : BitVec 24 := (wordAt l 1).extractLsb' 32 24
  let hmap := Vector.ofFn fun k : Fin 24 => if bitOn hlive k.val then base.hmap[k.val] else none
  let win := cut32 (recNwin l) p.win
  let dom : BitVec 12 := (wordAt l 4).extractLsb' 0 12
  let c : Ctx := { base with
    dom := dom
    depth := (domAt s dom).depth
    grp := (wordAt l 4).extractLsb' 12 20
    strix := (wordAt l 4).extractLsb' 32 6
    hmap := hmap
    missed := base.missed.filter fun m => (base.win.zip win).all fun q => !(q.1.n == m.n) || (wordAt q.2 1).extractLsb' 48 8 != 0
    sreg := Vector.ofFn fun k : Fin 32 => if k.val = 0 then 0 else wordAt p.regs (k.val - 1)
    vreg := restoreV livev p.vs
    vpar := base.vpar.filter fun q => bitOn livev q.1.val && (restoreV livev p.vs)[q.1.val] == base.vreg[q.1.val]
    flight := []
    fetched := []
    reply := []
    again := none
    preg := restoreP livep p.ps
    livev := livev
    livep := livep
    vbank := restoreBanks livev cyc
    pc := (wordAt l 2).setWidth 40
    opreq := (wordAt l 3).extractLsb' 32 3
    wdc := (wordAt l 3).setWidth 32
    fpc := (wordAt p.csrs 0).setWidth 14
    vrb := (wordAt p.csrs 1).setWidth 4
    prb := (wordAt p.csrs 2).setWidth 3
    lc := wordAt p.csrs 3
    esc := (wordAt p.csrs 4).setWidth 4
    lrp := (wordAt p.csrs 5).setWidth 40
    lcs := wordAt p.csrs 6
    tvb := (wordAt p.csrs 7).setWidth 40
    trp := (wordAt p.csrs 8).setWidth 48 &&& 0xFFFFFFFFFF80
    tcause := (wordAt p.csrs 9).setWidth 16 &&& 0xC0FF
    tepc := (wordAt p.csrs 10).setWidth 40
    tscr := wordAt p.csrs 11
    nf := cst.getLsbD 7
    rwp := cst.getLsbD 6 && (domAt s dom).rallow
    te := cst.getLsbD 2
    priv := cst.getLsbD 0
    ebud := (wordAt p.csrs 13).setWidth 32
    win := restoreEntries hmap cyc base.nextEntry base.win win
    nextEntry := base.nextEntry + recNwin l
    headAt := cyc
    scq := if recNsq l = 0 then [] else
      let k := roundUp8 ((recNsq l + 7) / 8)
      restoreScales (wordsNat (p.sq.take k)) (wordsNat (p.sq.drop k)) (recNsq l)
    wait := restoreWait s x.core dom l base.wait
    fresh := true
    region := ⟨0, 0, none, [], 0⟩
    preq := none
    draining := false
    saving := none
    due := none
    yieldTo := 0
    blocked := false
    pass := 0
    frozen := false }
  c.syncEff

end Sys2Proof.Machine
end

