-- ==== Sys2Proof/Machine/Ops.lean ====
section
/-! DEFINITION. The shared operations of a context: ending and rolling back a restart region (spec/03 R60 to R64), flush points (spec/12 R286),
taking a trap, its record and its reflection (spec/15 R326, R375 to R384), and the return from one (spec/06 R148). -/

namespace Sys2Proof.Machine

/-! ### Restart regions -/

/-- A page of a domain as the walk finds it now: its leaf and the physical address of one of its bytes. -/
def leafNow (s : State) (dom : BitVec 12) (va : BitVec 48) : Option (Word × BitVec 52) :=
  match walkFrom s dom va 3 1 (domAt s dom).ptroot with
  | .stop _ _ => none
  | .leaf lvl e _ => (stage2 s dom (leafDa lvl e va)).map fun t => (e, t.pa)

/-- The page of a store is migrating: the old home holds the access until the move is over (R194, R273). -/
def pageMoves (s : State) (dom : BitVec 12) (va : BitVec 48) : Bool :=
  match leafNow s dom va with
  | some (e, _) => e.extractLsb' 4 2 == 2
  | none => false

/-- Where a store that was translated before a page's move is performed after it: in the page's new frame (R194, R273). -/
def GStore.moved (s : State) (dom : BitVec 12) (g : GStore) : GStore :=
  match leafNow s dom g.va with
  | none => g
  | some (e, pa) => { g with loc := ⟨leafBits e, pa⟩ }

/-- Performs a store that its context has let go, at its home as homes stand now (R61, R192, R213, R214, R266, R274). -/
def performAt (s : State) (x : CtxId) (src : Fin 4) (dom : BitVec 12) (grp : BitVec 20) (g : GStore) : State :=
  let v := g.val.toNat % 256 ^ g.size
  match g.place s with
  | .mem d off => (homeWrite s d off g.size v g.loc.hd).1
  | .host a => hostPut s a g.size v (fullMask g.size)
  | .pkg q l pa => sendWrite s (.pkg q l pa) g.size v (fullMask g.size) false (.store x none g.va)
  | .lost _ => noteLost s src dom (g.va.setWidth 64) (groupWord grp)

/-- A store is held: its page is migrating, or its home is awaited (R194, R273, R397). -/
def storeHeld (s : State) (src : Fin 4) (dom : BitVec 12) (g : GStore) : Bool := pageMoves s dom g.va || homeAwaited s src (g.place s)

/-- A store waits for an earlier one of its context: one to the same home stalls (R260), or it is a release and an earlier store has not been
performed (R264). -/
def storeQueues (s : State) (x : CtxId) (g : GStore) : Bool := storeStalls s x (some (placeHome (g.place s))) || (g.rel && storesOut s x)

/-- A store stalls when it is let go. -/
def storeStops (s : State) (x : CtxId) (dom : BitVec 12) (g : GStore) : Bool := storeHeld s x.core.die dom g || storeQueues s x g

/-- Performs a buffered store, or lets it stall until the move, the deadbolting or the store before it is over (R194, R264, R273, R397). -/
def performStore (s : State) (held : Bool) (x : CtxId) (src : Fin 4) (dom : BitVec 12) (grp : BitVec 20) (g : GStore) : State :=
  if held || storeQueues s x g then { s with stalls := s.stalls ++ [.store x src dom grp g] } else performAt s x src dom grp g

/-- Performs stores of a context in program order, each one request (R370). What holds one is what holds it when they leave together: a move
begins with PGSTATE, not with one of these stores. -/
def performStores (s : State) (x : CtxId) (src : Fin 4) (dom : BitVec 12) (grp : BitVec 20) (l : List GStore) : State :=
  l.foldl (fun t g => performStore (countRequest t src (g.place t)) (storeHeld s src dom g) x src dom grp g) s

/-- What has stalled goes on where its page or home no longer holds it, in the order of arrival (R194, R273). -/
def resumeStalls (s : State) : State :=
  s.stalls.foldl (fun s q => match q with
    | .store x src dom grp g => performStore s (storeHeld s src dom g) x src dom grp g
    | .word dom a g => completeWord s dom a g) { s with stalls := [] }

/-- No region is open: the next bundle begins one (R60). -/
def Region.none : Region := ⟨0, 0, Option.none, [], 0⟩

/-- The registers of bank b among those of a mask. -/
def bankPart (m : BitVec 32) (b : Fin 8) : Bool := (m >>> (4 * b.val)) &&& 15 != 0

/-- The bank lost its last live register inside the open region (R113). -/
def Ctx.keptBank (c : Ctx) (b : Fin 8) : Bool :=
  match c.region.shadow with
  | none => false
  | some h => bankPart (h.livev ||| c.region.vw) b && !bankPart c.livev b

/-- No region is open any more; the idle count of a bank that it kept begins (R113). -/
def Ctx.closeRegion (c : Ctx) (cyc : Nat) : Ctx :=
  { c with region := Region.none
           vbank := Vector.ofFn fun b : Fin 8 => let k := c.vbank[b.val]; if c.keptBank b then { k with last := cyc } else k }

/-- Ends the open region of a slot: its buffered stores are performed (R61). -/
def endRegion (s : State) (x : CtxId) : State :=
  let c := ctxAt s x
  let s := putCtx s x (c.closeRegion (coreAt s x.core).cyc)
  performStores s x x.core.die c.dom c.grp c.region.stores

/-- What a region keeps of its first bundle (R61, R113). -/
def Ctx.shadowOf (c : Ctx) : Shadow := ⟨c.sreg, c.preg, c.livev, c.livep, c.vrb, c.prb, c.lc, c.esc, c.lrp, c.lcs⟩

/-- Opens a region at the next bundle where none is open (R60). -/
def Ctx.openRegion (c : Ctx) : Ctx :=
  match c.region.shadow with
  | some _ => c
  | none => { c with region := ⟨c.pc, 0, some c.shadowOf, [], 0⟩ }

/-- Steps 1 to 3 of a rollback (R64, R113). -/
def Ctx.rollback (c : Ctx) (cyc : Nat) : Ctx :=
  match c.region.shadow with
  | none => c
  | some h =>
    let k := c.closeRegion cyc
    { k with sreg := h.sreg, preg := h.preg, livev := h.livev, livep := h.livep, vrb := h.vrb, prb := h.prb, lc := h.lc,
             esc := h.esc, lrp := h.lrp, lcs := h.lcs, pc := c.region.start, region := Region.none }

/-! ### Flush points (R286) -/

/-- A flush point: no rule joins entries on its two sides, every held entry is released. -/
def Ctx.flush (c : Ctx) : Ctx :=
  { c with flushed := true,
           win := c.win.map fun e => { e with shut := true, st := match e.st with
             | .held => .pending
             | .pending => .pending
             | .started => .started
             | .parked => .parked } }

/-! ### The trap record (R379, R380) -/

/-- Where a trap is taken: origin, delivery and return PCs, and for an entry its T-slot value and its rewrite. -/
structure TrapAt where
  opc : Pc
  dpc : Pc
  tepc : Pc
  entry : Option (SlotBits × Option (Fin 64) × List Orig)
  /-- The number of that entry. -/
  num : Option Nat
  deriving DecidableEq, Repr

def TrapAt.plain (opc dpc tepc : Pc) : TrapAt := ⟨opc, dpc, tepc, none, none⟩

/-- The delivery of a deferred fault is recorded: it is owed no longer, and TRET will reissue its entry (R381). -/
def Ctx.markDelivered (c : Ctx) (n : Option Nat) : Ctx :=
  match n with
  | none => c
  | some k => { c with delivered := some k, missed := c.missed.filter fun e => !(e.n == k) }

/-- The 16 words of a trap record. -/
def trapWords (t : Trap) (a : TrapAt) (c : Ctx) (time : Word) (recf rfl_ : Bool) : List Word :=
  let rule : Option (Fin 64) := a.entry.bind fun e => e.2.1
  let origs : List Orig := (a.entry.map fun e => e.2.2).getD []
  let rv := rule.isSome
  let norig : BitVec 2 := if rv then BitVec.ofNat 2 (Nat.min origs.length 3) else 0
  let t0 : Word := (0 : BitVec 8) ++ c.dom ++ c.depth ++ BitVec.ofBool recf ++ BitVec.ofBool rfl_ ++ norig
    ++ BitVec.ofNat 6 ((rule.map Fin.val).getD 0) ++ BitVec.ofBool rv ++ t.mask ++ (0 : BitVec 4)
    ++ BitVec.ofBool (t.del == .d) ++ BitVec.ofBool (t.del == .b) ++ (0 : BitVec 8) ++ t.code
  let o (k : Nat) : Word := if rv then ((origs[k]?).map fun p => p.pc.setWidth 64).getD 0 else 0
  let gs : Word := (c.strix ++ c.grp).setWidth 64
  let opnd := (t.opnd ++ List.replicate 8 0).take 8
  let slot : SlotBits := match a.entry with
    | some e => match e.2.1, e.2.2 with
      | some _, x :: _ => x.slot
      | _, _ => e.1
    | none => 0
  let opnd := if t.del == .d then opnd.take 7 ++ [slot.setWidth 64] else opnd
  [t0, a.opc.setWidth 64, a.dpc.setWidth 64, t.va.setWidth 64, o 1, o 2, gs, time] ++ opnd

/-- TCAUSE after a delivery (R117). -/
def tcauseOf (t : Trap) : BitVec 16 := BitVec.ofBool (t.del == .d) ++ BitVec.ofBool (t.del == .b) ++ (0 : BitVec 6) ++ t.code

/-! ### The choice of the handling domain (R326) -/

/-- A domain's action for a cause: the root handles every cause. -/
def actionOf (s : State) (d : BitVec 12) (code : BitVec 8) : BitVec 2 := if d = 0 then 0 else tabGet (domAt s d).acts code 0

def climb (s : State) (code : BitVec 8) : Nat → BitVec 12 → BitVec 12
  | 0, h => h
  | n + 1, h => if actionOf s h code = 1 then climb s code n (domAt s h).parent else h

/-- Where the climb starts: one level up for a full dirty log and while TE = 0. -/
def handler (s : State) (c : Ctx) (code : BitVec 8) : BitVec 12 :=
  let h := if code == cDirtyLogFull || !c.te then (domAt s c.dom).parent else c.dom
  climb s code 9 h

/-- Kills the strand's group for a trap: a reflection strand takes the strand that it serves with it (R326, R384). -/
def trapKill (s : State) (x : CtxId) (h : BitVec 12) (pc : Pc) : State :=
  let c := ctxAt s x
  match c.occ with
  | .refl g slot =>
    let saved := allDies.findSome? fun d => (dieAt s d).reflected.find? fun r => r.h == g && r.slot == slot
    let s := vacate (freeSlot s g slot) x
    match saved with
    | some r => event (killGroup s r.base.grp) h 3 4 [r.base.pc.setWidth 64, groupWord r.base.grp]
    | none => s
  | _ => event (killGroup s c.grp) h 3 4 [pc.setWidth 64, groupWord c.grp]

/-- Delivery to an ancestor: the strand is saved with grade reflected into the lowest free slot of h's spill area (R383). -/
def reflectTo (s : State) (x : CtxId) (h : BitVec 12) (t : Trap) (a : TrapAt) (recf : Bool) : State :=
  match freeSlotOf s h with
  | none => trapKill s x h a.tepc
  | some k =>
    let c := ctxAt s x
    let w := trapWords t a c (tbView s x.core.die c.dom) recf true
    modCtx (takeSlot s h k) x fun c =>
      { c.flush with pc := a.tepc, wdc := 0, saving := some ⟨3, false, some (h, k, w)⟩ }

/-- The 16 stores of a trap record (R376, R379). -/
def recordStores (c : Ctx) (w : List Word) (l : Loc) : List GStore :=
  (List.finRange 16).map fun k => ⟨c.trp + BitVec.ofNat 48 (8 * k.val), 8, wordAt w k.val, { l with pa := l.pa + BitVec.ofNat 52 (8 * k.val) }, false, false⟩

/-- Taking a trap (R376 to R378, R383). A record whose page migrates stalls at the page's old home as every store does (R194); the handler's first
bundle waits until the record has been performed (R376). -/
def takeTrap (s0 : State) (x : CtxId) (t : Trap) (a : TrapAt) : State :=
  let s := match t.del with
    | .b => modCtx s0 x fun c => c.rollback (coreAt s0 x.core).cyc
    | _ => endRegion s0 x
  let s := modCtx s x fun c => c.markDelivered a.num
  let c := ctxAt s x
  let h := handler s c t.code
  if actionOf s h t.code = 2 then trapKill s x h a.tepc
  else if h ≠ c.dom then reflectTo s x h t a false
  else
    let enter (s : State) (stores : List GStore) : State :=
      let s := performStores s x x.core.die c.dom c.grp stores
      modCtx s x fun c =>
        { (c.flush).syncEff with tcause := tcauseOf t, tepc := a.tepc, te := false, wdc := 0, pc := c.tvb, due := none, wait := if storesOut s x then .fence else .none, waits := [], fresh := false }
    match translate s x.core c.dom (groupWord c.grp) c.trp .write with
    | .bad _ s =>
      let h := climb s t.code 9 (domAt s c.dom).parent
      if actionOf s h t.code = 2 then trapKill s x h a.tepc else reflectTo s x h t a true
    | .wait s =>
      let w := trapWords t a c (tbView s x.core.die c.dom) false false
      enter s ((recordStores c w ⟨0, 0⟩).map fun g => g.moved s c.dom)
    | .ok u _ s =>
      let w := trapWords t a c (tbView s x.core.die c.dom) false false
      enter s (recordStores c w (u.locOf c.trp))

/-! ### TRET (R148, R228, R287, R381) -/

/-- The originals of a rewritten entry, in program order, each with its own PC and captured state, each inhibited; an MMA among them keeps the blocks
that a parked MMA has completed (R242, R246, R287). They still belong to the group: no tile that one of them frees is cleared before all are done. -/
def revertEntry (e : Entry) (n cyc : Nat) : List Entry :=
  let keep := (e.owed.map fun t => t.code == cScaleQueue).getD false
  (e.orig.zipIdx).map fun (o, k) =>
    { e with n := n + k, pc := o.pc, slot := o.slot, sval := o.sval, td := o.td, ta := o.ta, tb := o.tb, frees := o.frees, paid := 0,
             charged := false,
             st := .pending, owed := none, inh := true, rule := none, orig := [], phia := 0, phib := 0, folda := false, foldb := false,
             marka := none, markb := none, spread := false, prog := if keep && o.slot.extractLsb' 32 8 == 0x10 then e.prog else 0, at_ := cyc, shut := true,
             queued := false, bparked := false, drawn := [], fl := 0, late := false, dl := none, pieces := [], xpois := 0 }

/-- Reissues the entry whose fault the handler was given: a rewritten one as its originals, its unstarted companions leaving;
an MMA parked between blocks resumes at its next block (R242). -/
def reissue (cyc : Nat) (c : Ctx) : Ctx :=
  match c.delivered with
  | none => c
  | some n =>
    match c.win.find? fun e => e.n == n && e.st == .parked with
    | none => { c with delivered := none }
    | some e =>
      let keep := (e.owed.map fun t => t.code == cScaleQueue).getD false
      let win := c.win.flatMap fun f =>
        if f.n == n then
          (if f.rule.isSome then revertEntry f c.nextEntry cyc
           else [{ f with st := .pending, owed := none, prog := if keep then f.prog else 0, drawn := [], shut := true, queued := false, paid := 0, charged := false, pieces := [], xpois := 0 }])
        else if e.rule.isSome && f.gid == e.gid && f.rule == e.rule && f.st != .started && f.st != .parked then []
        else [f]
      let new := if e.rule.isSome then (List.range e.orig.length).map fun k => c.nextEntry + k else []
      { c with win := win, nextEntry := c.nextEntry + e.orig.length, delivered := none,
               posts := c.posts.map fun p => if p.after.contains n then { p with after := p.after ++ new } else p }

/-- The return from a trap of a context that handles its own traps (R148): a flush point, the effective copies equal to the CSRs (R120). -/
def Ctx.tret (cyc : Nat) (c : Ctx) : Ctx :=
  let c := reissue cyc c.flush
  { c.syncEff with pc := c.tepc, te := true, wdc := 0, fresh := true, region := Region.none }.resumeWait

end Sys2Proof.Machine
end

