-- ==== Sys2Proof/Machine/Operands.lean ====
section
/-! DEFINITION. What a slot of the bundle in progress reads, writes and raises: sources as they stood before the bundle (spec/03 R53), causes
(R54, spec/15 R375), vector and predicate operands with their liveness, parity and bank checks (spec/05 R102 to R115), effective addresses
(spec/09 R211). -/

namespace Sys2Proof.Machine

/-- The context as the bundle in progress reads it: as it stood after the previous bundle (R53). -/
def State.src (s : State) : Ctx :=
  match s.frame with
  | some f => f.pre
  | none => s.ctx

def State.onFrame (s : State) (f : Frame → Frame) : State := { s with frame := s.frame.map f }

def State.onCtx (s : State) (f : Ctx → Ctx) : State := { s with ctx := f s.ctx }

/-- The core of the focused context. -/
def State.core (s : State) : CoreId := s.cur.core

/-! ### Scalar operands -/

/-- A scalar source of a slot. -/
def State.sv (s : State) (n : BitVec 5) : Word := s.src.s n

/-- Writes a scalar destination. -/
def State.setS (s : State) (n : BitVec 5) (v : Word) : State := { s with ctx := s.ctx.setS n v }

/-! ### Causes -/

/-- The mask bit of a slot (R54). -/
def slotBit : SlotId → BitVec 7
  | .c => 1
  | .s => 2
  | .v => 4
  | .w => 8
  | .x => 16
  | .t => 32
  | .y => 64

/-- A slot raises a cause: the bundle commits nothing (R54). -/
def State.raise (s : State) (sl : SlotId) (t : Trap) : State :=
  s.onFrame fun f => { f with faults := f.faults ++ [⟨sl, { t with mask := slotBit sl }⟩] }

/-- A precise cause with its operand record. -/
def precise (code : BitVec 8) (opnd : List Word) : Trap := ⟨code, .p, 0, 0, opnd⟩

/-- A memory cause of a scalar access: page-not-present and a full dirty log roll back (R374). -/
def memTrap (va : BitVec 48) (f : AccFault) (write : Bool) : Trap :=
  ⟨f.code, if f.code == cPageNotPresent || f.code == cDirtyLogFull then .b else .p, 0, va, accOpnd f write false false⟩

/-- A memory cause of an atomic: precise, never a rollback (R218). -/
def atomTrap (va : BitVec 48) (f : AccFault) : Trap := ⟨f.code, .p, 0, va, accOpnd f true false false⟩

/-- Whether the focused bundle has raised a cause. -/
def State.faulted (s : State) : Bool :=
  match s.frame with
  | some f => !f.faults.isEmpty
  | none => false

/-- The bundle waits: an access of it is held (R194). -/
def State.hold (s : State) : State := s.onFrame fun f => { f with stall := true }

/-- The bundle does not issue yet (R111, R175, R245, R279). -/
def State.unissue (s : State) : State := s.onFrame fun f => { f with stall := true, unissued := true }

/-- The context's bundle issues again with replies for its accesses outside the package. -/
def State.answered (s : State) : Bool := !s.src.reply.isEmpty

/-- The bundle needs the reply to an access outside: what has come is used, else the request goes out when every slot has executed (R54). -/
def State.askFor (s : State) (a : Ask) (k : State → Reply → State) : State :=
  match s.src.reply.find? fun r => r.key == a.key with
  | some r => k s r
  | none => s.onFrame fun f => { f with ask := f.ask <|> some a }

/-- An effect that stands even when the bundle commits nothing. -/
def State.stick (s : State) (k : Sticky) : State := s.onFrame fun f => { f with sticky := f.sticky ++ [k] }

/-- One increment of an error counter that stands even when the bundle commits nothing. -/
def State.countSticky (s : State) (d : Fin 4) (k : Fin 18) : State := countErr (s.stick (.count d k)) d k

/-! ### Predicates -/

def State.pv (s : State) (n : BitVec 4) : PReg := s.src.p n

/-- Writes a predicate destination under a rotation base and makes it live (R103, R106); a write to p0 is discarded. -/
def State.setPAt (s : State) (prb : BitVec 3) (n : BitVec 4) (v : PReg) : State :=
  let k := physP prb n
  if k = 0 then s
  else
    let s := { s with ctx := { s.ctx with preg := s.ctx.preg.set k.toNat v k.isLt } }
    s.onFrame fun f => { f with wrp := f.wrp ||| oneBit 16 k.toNat }

def State.setP (s : State) (n : BitVec 4) (v : PReg) : State := s.setPAt s.src.prb n v

/-! ### Vector registers -/

def bankOf (k : BitVec 5) : Fin 8 := ⟨k.toNat / 4, by have := k.isLt; omega⟩

/-- The bank of a physical register as it stands. -/
def Ctx.bank (c : Ctx) (k : BitVec 5) : VBank := c.vbank[(bankOf k).val]

/-- A source read of an encoded vector register: dead-register fault, parity, a bank that is not full holds the bundle (R107, R111, R115). Parity
is tested on every word of the register, whatever the width that is read (DESIGN CHOICE, log entry 70).
`layout` marks the layout-record register of a T-slot instruction (R380). -/
def State.useV (s : State) (sl : SlotId) (n : BitVec 5) (layout : Bool) : State :=
  let c := s.src
  let k := physV c.vrb n
  let s := s.onFrame fun f => { f with readv := f.readv ||| oneBit 32 k.toNat }
  if !bitOn c.livev k.toNat then
    s.raise sl (precise cDeadRegister [BitVec.ofNat 64 (n.toNat + 256 * k.toNat + if layout then 65536 else 0)])
  else match c.vpar.find? fun p => p.1.val == k.toNat with
    | some p =>
      let w := if bitOn c.region.vw k.toNat then 256 else 0
      (s.countSticky s.core.die 6).raise sl ⟨cParity, .b, 0, 0, [BitVec.ofNat 64 (k.toNat + w + 65536 * p.2.val)]⟩
    | none => if (c.bank k).st == .full then s else s.unissue

/-- The contents of an encoded vector register. -/
def State.vv (s : State) (n : BitVec 5) : VReg := s.src.v n

/-- A last-use mark on a vector source (R106). -/
def State.killV (s : State) (n : BitVec 5) (mark : BitVec 1) : State :=
  if mark == 1 then s.onFrame fun f => { f with killv := f.killv ||| oneBit 32 (physV s.src.vrb n).toNat } else s

/-- What a vector destination holds before the write: its value when live, zeros when dead (R102, R107). -/
def State.oldV (s : State) (n : BitVec 5) : VReg := if s.src.vLive n then s.src.v n else 0

/-- Writes the physical register of an encoded vector destination and makes it live; a word that is written gets new parity (R102, R106, R115).
`wrote` tells the words that the operation writes: the others keep the register's old contents, and their parity with them, unless the register
was dead and they are zeros now. -/
def State.setV (s : State) (n : BitVec 5) (wrote : Nat → Bool) (v : VReg) : State :=
  let k := physV s.src.vrb n
  let fresh := !s.src.vLive n
  let s := { s with ctx := { s.ctx with vreg := s.ctx.vreg.set k.toNat v k.isLt,
                                        vpar := s.ctx.vpar.filter fun p => !(p.1.val == k.toNat && (fresh || wrote p.2.val)) } }
  s.onFrame fun f => { f with wrv := f.wrv ||| oneBit 32 k.toNat }

/-! ### Elements (R102, R103) -/

/-- Element i of w bits of a vector's value. -/
def elemAt (v : Nat) (w i : Nat) : Nat := v / 2 ^ (w * i) % 2 ^ w

/-- The number whose elements of w bits are the list's, the first lowest. -/
def packElems (w : Nat) : List Nat → Nat
  | [] => 0
  | a :: t => a % 2 ^ w + 2 ^ w * packElems w t

/-- Whether element j of b bytes is active in a predicate (R103). -/
def active (p : PReg) (b j : Nat) : Bool := p.getLsbD (j * b)

/-- An operation on n elements of b bytes under a predicate writes word k of its destination: all its bytes are active ones, or lie above the
elements, where zeros are written (R102, R115, R166). -/
def wroteWord (p : PReg) (b n k : Nat) : Bool := decide (b * n ≤ 4 * k) || (List.range 4).all fun i => active p b ((4 * k + i) / b)

/-- The predicate whose elements of b bytes are the list's; bits beyond them are zero (R103). -/
def packPred (b : Nat) : List Bool → Nat
  | [] => 0
  | a :: t => (if a then 2 ^ b - 1 else 0) + 2 ^ b * packPred b t

/-- The bytes of an element-size code (R52). -/
def esBytes (es : BitVec 2) : Nat := 2 ^ es.toNat

end Sys2Proof.Machine
end

