-- ==== Sys2Proof/Machine/Flags.lean ====
section
/-! DEFINITION. Floating-point flags: what an operation raises on elements of each type, and what a bundle does with them (spec/04 R79, R80,
R84, R86, R132 to R135; spec/05 R121; spec/07 R156, R160 to R162, R166, R169). -/

namespace Sys2Proof.Machine

/-! ### Types of elements (R52) -/

/-- An element type: an integer width, T8, or a binary format. -/
inductive Ty where
  | int (w : Nat)
  | t8
  | fp (f : Fmt)
  deriving DecidableEq, Repr

/-- The type code of VE (R52). -/
def Ty.ofCode (c : BitVec 3) : Ty :=
  if c = 0 then .int 8 else if c = 1 then .int 16 else if c = 2 then .int 32 else if c = 3 then .int 64
  else if c = 4 then .t8 else if c = 5 then .fp .bf16 else if c = 6 then .fp .fp16 else .fp .fp32

/-- The element width in bits. -/
def Ty.eb : Ty → Nat
  | .int w => w
  | .t8 => 8
  | .fp f => f.width

/-- The rounding state that an operation captures (R120). -/
structure Rnd where
  rm : Rm
  ftz : Bool
  deriving DecidableEq, Repr

/-- The exact value of a floating-point or T8 element, FTZ applied (R79, R85). -/
def Ty.decode (t : Ty) (ftz : Bool) (b : Nat) : Val :=
  match t with
  | .int w => Val.ofInt (intOf w b)
  | .t8 => t8Decode b
  | .fp f => f.read ftz b

/-- The one rounding of an exact result to its type (R82, R87), FTZ applied (R79). -/
def Ty.finish (t : Ty) (r : Rnd) (v : VRes) : Res :=
  match t with
  | .int w => ⟨0 * w, v.fl⟩
  | .t8 => let x := t8Encode r.rm v.val
    ⟨x.bits, x.fl ||| v.fl⟩
  | .fp f => let x := f.flush r.ftz (f.round r.rm v.val)
    ⟨x.bits, x.fl ||| v.fl⟩

/-- The exact arithmetic operations. -/
inductive Arith where
  | add | sub | mul
  deriving DecidableEq, Repr

def Arith.int (op : Arith) (a b : Int) : Int :=
  match op with
  | .add => a + b
  | .sub => a - b
  | .mul => a * b

def Arith.val (op : Arith) (rdn : Bool) (a b : Val) : VRes :=
  match op with
  | .add => Val.add rdn a b
  | .sub => Val.add rdn a b.neg
  | .mul => Val.mul a b

/-- The integer reading of an element: signed, or unsigned (R157). -/
def readInt (w : Nat) (uns : Bool) (b : Nat) : Int := if uns then ((b % 2 ^ w : Nat) : Int) else intOf w b

/-- An integer result: wrapped, or saturated to the signed or unsigned range (R77, R157). -/
def intRes (w : Nat) (sat uns : Bool) (x : Int) : Res := ⟨intBits w (if sat then satInt x w (!uns) else x), 0⟩

/-- A binary operation on elements (R160). -/
def Ty.arith (t : Ty) (op : Arith) (r : Rnd) (sat uns : Bool) (a b : Nat) : Res :=
  match t with
  | .int w => intRes w sat uns (op.int (readInt w uns a) (readInt w uns b))
  | .t8 => Ty.t8.finish r (op.val false (t8Decode a) (t8Decode b))
  | .fp f => (Ty.fp f).finish r (op.val (r.rm == .rdn) (f.read r.ftz a) (f.read r.ftz b))

/-- a * b + d, or d - a * b where `neg` is set, with one rounding (R160). -/
def Ty.fma (t : Ty) (neg : Bool) (r : Rnd) (sat uns : Bool) (a b d : Nat) : Res :=
  match t with
  | .int w =>
    let p := readInt w uns a * readInt w uns b
    intRes w sat uns (if neg then readInt w uns d - p else p + readInt w uns d)
  | .t8 => Ty.t8.finish r (Val.fma false (if neg then (t8Decode a).neg else t8Decode a) (t8Decode b) (t8Decode d))
  | .fp f => let x := f.read r.ftz a
    (Ty.fp f).finish r (Val.fma (r.rm == .rdn) (if neg then x.neg else x) (f.read r.ftz b) (f.read r.ftz d))

/-- Below in the order of minimum and maximum: -0 is below +0 (R133). -/
def valBelow (a b : Val) : Bool :=
  match a.cmp b with
  | some .lt => true
  | some .eq => a.isZero && b.isZero && a.sign && !b.sign
  | _ => false

/-- The smaller or larger value of a binary format: a single NaN yields the other operand (R133). -/
def pickVal (max : Bool) (a b : Val) : VRes :=
  let fl := Fl.nv.when (a.isSnan || b.isSnan)
  if a.isNan then (if b.isNan then ⟨.nan false, fl⟩ else ⟨b, fl⟩)
  else if b.isNan then ⟨a, fl⟩
  else if max then ⟨if valBelow a b then b else a, fl⟩ else ⟨if valBelow b a then b else a, fl⟩

/-- Minimum and maximum of elements (R161); NaR yields NaR. -/
def Ty.pick (t : Ty) (max uns : Bool) (ftz : Bool) (a b : Nat) : Res :=
  match t with
  | .int w =>
    let x := readInt w uns a
    let y := readInt w uns b
    ⟨intBits w (if max then (if x < y then y else x) else (if y < x then y else x)), 0⟩
  | .t8 => if (t8Decode a).isNan || (t8Decode b).isNan then ⟨128, 0⟩
    else if max then ⟨if valBelow (t8Decode a) (t8Decode b) then b else a, 0⟩
    else ⟨if valBelow (t8Decode b) (t8Decode a) then b else a, 0⟩
  | .fp f => let p := pickVal max (f.read ftz a) (f.read ftz b)
    ⟨(f.round .rne p.val).bits, p.fl⟩

/-- Absolute value and negation of elements (R161). -/
def Ty.signOp (t : Ty) (neg sat ftz : Bool) (a : Nat) : Res :=
  match t with
  | .int w => let x := intOf w a
    intRes w sat false (if neg then -x else if x < 0 then -x else x)
  | .t8 => let c := a % 256
    if c == 0 || c == 128 then ⟨c, 0⟩ else if neg then ⟨c ^^^ 128, 0⟩ else ⟨c % 128, 0⟩
  | .fp f => let v := f.read ftz a
    if v.isNan then ⟨f.nanBits, Fl.nv.when v.isSnan⟩
    else ⟨(f.round .rne (if neg then v.neg else v.abs)).bits, 0⟩

/-- The clamp of R162. -/
def Ty.clamp (t : Ty) (pos uns ftz : Bool) (a b : Nat) : Res :=
  match t with
  | .int w =>
    let x := readInt w uns a
    let y := readInt w uns b
    let hi := if uns || pos then y else satInt (if y < 0 then -y else y) w true
    let lo : Int := if uns || pos then 0 else -hi
    let m := if x < hi then x else hi
    ⟨intBits w (if m < lo then lo else m), 0⟩
  | .t8 =>
    let x := t8Decode a
    let y := t8Decode b
    if x.isNan || y.isNan then ⟨128, 0⟩
    else
      let hi := if pos then y else y.abs
      let lo := if pos then Val.num false 0 0 else hi.neg
      ⟨(t8Encode .rne (pickVal true (pickVal false x hi).val lo).val).bits, 0⟩
  | .fp f =>
    let x := f.read ftz a
    let y := f.read ftz b
    if x.isNan || y.isNan then ⟨f.nanBits, Fl.nv.when (x.isSnan || y.isSnan)⟩
    else
      let hi := if pos then y else y.abs
      let lo := if pos then Val.num false 0 0 else hi.neg
      ⟨(f.round .rne (pickVal true (pickVal false x hi).val lo).val).bits, 0⟩

/-- A comparison with the flags it raises. -/
structure CmpRes where
  val : Bool
  fl : Fl
  deriving DecidableEq, Repr

/-- The relations of VCMP by code (R164). -/
def Ty.compare (t : Ty) (code : BitVec 4) (ftz : Bool) (a b : Nat) : CmpRes :=
  match t with
  | .int w =>
    let uns := decide (6 ≤ code.toNat)
    let x := readInt w uns a
    let y := readInt w uns b
    let c := code.toNat
    ⟨if c = 0 then x == y else if c = 1 then x != y
     else if c = 2 || c = 6 then decide (x < y) else if c = 3 || c = 7 then decide (x ≤ y)
     else if c = 4 || c = 8 then decide (y < x) else if c = 5 || c = 9 then decide (y ≤ x) else false, 0⟩
  | t =>
    let x := t.decode ftz a
    let y := t.decode ftz b
    let c := code.toNat
    let nan := x.isNan || y.isNan
    let o := x.cmp y
    let v := if c = 0 then o == some .eq else if c = 1 then nan || o != some .eq
      else if c = 2 then o == some .lt else if c = 3 then o == some .lt || o == some .eq
      else if c = 4 then o == some .gt else if c = 5 then o == some .gt || o == some .eq
      else if c = 10 then nan else false
    let fl := if t == .t8 then 0 else if 2 ≤ c && c ≤ 5 then Fl.nv.when nan else Fl.nv.when (x.isSnan || y.isSnan)
    ⟨v, fl⟩

/-- A conversion between element types (R84, R87, R166). Int to t8 with U = 1 reads the source unsigned (DESIGN CHOICE, log entry 80). -/
def Ty.convert (src dst : Ty) (r : Rnd) (sat uns : Bool) (a : Nat) : Res :=
  match src, dst with
  | .int w, .int v => intRes v sat uns (readInt w uns a)
  | .int w, .t8 => t8Encode r.rm (Val.ofInt (readInt w uns a))
  | .int w, .fp f => f.flush r.ftz (f.round r.rm (Val.ofInt (readInt w uns a)))
  | s, .int v => let x := (s.decode r.ftz a).toInt r.rm v (!uns)
    ⟨intBits v x.val, x.fl⟩
  | .t8, .t8 => ⟨a % 256, 0⟩
  | s, d => d.finish r ⟨s.decode r.ftz a, 0⟩

/-! ### Special functions (R94, R95, R169) -/

/-- VRCP, VRSQ and VSQRT of a format (R94). -/
def rcpOf (f : Fmt) (rm : Rm) (v : Val) : Res :=
  match v with
  | .nan s => ⟨f.nanBits, Fl.nv.when s⟩
  | .inf n => ⟨f.signed n 0, 0⟩
  | .num n m e => if m == 0 then ⟨f.signed n f.infBits, Fl.dz⟩ else f.divMag rm n 1 0 m e

def rsqOf (f : Fmt) (rm : Rm) (v : Val) : Res :=
  match v with
  | .nan s => ⟨f.nanBits, Fl.nv.when s⟩
  | .inf n => if n then ⟨f.nanBits, Fl.nv⟩ else ⟨0, 0⟩
  | .num n m e => if m == 0 then ⟨f.signed n f.infBits, Fl.dz⟩ else if n then ⟨f.nanBits, Fl.nv⟩ else f.rsqrtMag rm m e

def sqrtOf (f : Fmt) (rm : Rm) (v : Val) : Res :=
  match v with
  | .nan s => ⟨f.nanBits, Fl.nv.when s⟩
  | .inf n => if n then ⟨f.nanBits, Fl.nv⟩ else ⟨f.infBits, 0⟩
  | .num n m e => if m == 0 then ⟨f.signed n 0, 0⟩ else if n then ⟨f.nanBits, Fl.nv⟩ else f.sqrtMag rm m e

/-- A correctly rounded function of an element, FTZ applied to operand and result. -/
def specialRound (f : Fmt) (g : Fmt → Rm → Val → Res) (r : Rnd) (a : Nat) : Res := f.flush r.ftz (g f r.rm (f.read r.ftz a))

/-- A reference sequence on an element (R95): the operand converted exactly to FP32, the result rounded to the operand's type. -/
def specialRef (f : Fmt) (g : Nat → Res) (r : Rnd) (a : Nat) : Res :=
  let v := f.read r.ftz a
  if v.isNan then ⟨f.nanBits, Fl.nv.when v.isSnan⟩
  else
    let x := g (Fmt.fp32.round .rne v).bits
    if f = .fp32 then f.flush r.ftz x
    else
      let y := f.round r.rm (f32 x.bits)
      f.flush r.ftz ⟨y.bits, y.fl ||| x.fl⟩

/-! ### Trees (R93) -/

/-- One level of the pairwise tree. -/
def treeLevel (op : Nat → Nat → Res) : List Nat → List Nat × Fl
  | a :: b :: t => let r := op a b
    let q := treeLevel op t
    (r.bits :: q.1, r.fl ||| q.2)
  | l => (l, 0)

/-- `tree_reduce` of a power of two of elements, with the flags of every node. -/
def treeReduce (op : Nat → Nat → Res) : Nat → List Nat → Res
  | 0, l => ⟨l.headD 0, 0⟩
  | n + 1, l =>
    let q := treeLevel op l
    let r := treeReduce op n q.1
    ⟨r.bits, r.fl ||| q.2⟩

/-- One output of `tree_scan`: the blocks of the set bits of i + 1, from the largest down. -/
def scanAt (op : Nat → Nat → Res) (x : List Nat) (i : Nat) : Nat → Nat → Option Res → Res
  | 0, base, acc =>
    if (i + 1) % 2 = 1 then
      let node := x.getD base 0
      match acc with
      | none => ⟨node, 0⟩
      | some a => let r := op a.bits node
        ⟨r.bits, r.fl ||| a.fl⟩
    else acc.getD ⟨0, 0⟩
  | b + 1, base, acc =>
    if (i + 1) / 2 ^ (b + 1) % 2 = 1 then
      let node := treeReduce op (b + 1) ((x.drop base).take (2 ^ (b + 1)))
      let acc := match acc with
        | none => node
        | some a => let r := op a.bits node.bits
          ⟨r.bits, r.fl ||| a.fl ||| node.fl⟩
      scanAt op x i b (base + 2 ^ (b + 1)) (some acc)
    else scanAt op x i b base acc

/-- The operators of reductions and scans. -/
inductive RedOp where
  | add | min | max | mul
  deriving DecidableEq, Repr

/-- One node (R168). -/
def Ty.node (t : Ty) (op : RedOp) (r : Rnd) (sat uns : Bool) (a b : Nat) : Res :=
  match op with
  | .add => t.arith .add r sat uns a b
  | .mul => t.arith .mul r sat uns a b
  | .min => t.pick false uns r.ftz a b
  | .max => t.pick true uns r.ftz a b

/-- The identity of an operator (R93, R168). -/
def Ty.identity (t : Ty) (op : RedOp) (uns : Bool) : Nat :=
  match t, op with
  | .int _, .add => 0
  | .int _, .mul => 1
  | .int w, .min => intBits w (intMax w (!uns))
  | .int w, .max => intBits w (intMin w (!uns))
  | .t8, .add => 0
  | .t8, .mul => 0x20
  | .t8, .min => 0x01
  | .t8, .max => 0x81
  | .fp f, .add => f.signBit
  | .fp f, .mul => f.bias * 2 ^ f.fb
  | .fp f, .min => f.infBits
  | .fp f, .max => f.signed true f.infBits

/-! ### Flags of a bundle (R80, R121, R131, R156) -/

/-- The rounding state of the focused context for this bundle (R120). -/
def State.rnd (s : State) : Rnd := ⟨Rm.ofBits s.src.rm, s.src.ftz⟩

/-- The core cycle in which the bundle in progress issues. -/
def State.cyc (s : State) : Nat :=
  match s.frame with
  | some f => f.cyc
  | none => 0

/-- A slot's flags: an enabled one traps precisely, with the flags and the lowest element that raised one; otherwise they are in flight
until the operation completes, `lat` core cycles after the issue (R121, R152, R180). -/
def State.fpDone (s : State) (sl : SlotId) (lat : Nat) (dst : RegRef) (fl : Fl) (elem : Option Nat) : State :=
  if fl &&& s.src.en != 0 then
    s.raise sl (precise cFpException (fl.setWidth 64 :: (match elem with
      | some k => [BitVec.ofNat 64 k]
      | none => [])))
  else if fl == 0 then s
  else s.onFrame fun f => { f with flight := f.flight ++ [⟨s.cyc + lat, dst, fl⟩] }

end Sys2Proof.Machine
end

