-- ==== Sys2Proof/Machine/Elem.lean ====
section
/-! DEFINITION. Elements of tiles and what the engines compute on them (spec/04 R76, R84, R89 to R92; spec/08 R205; spec/09 R234; spec/10 R239,
R248 to R255). -/

namespace Sys2Proof.Machine

/-! ### Formats and sizes (R52, R76, R78, R205) -/

def fmtBits (f : BitVec 4) : Nat :=
  match f.toNat with
  | 0 => 2 | 1 => 4 | 2 => 8 | 3 => 16 | 4 => 32 | 5 => 8 | 6 => 16 | 7 => 16 | 8 => 32 | _ => 128

def fmtTy (f : BitVec 4) : Ty :=
  match f.toNat with
  | 0 => .int 2 | 1 => .int 4 | 2 => .int 8 | 3 => .int 16 | 4 => .int 32 | 5 => .t8 | 6 => .fp .bf16 | 7 => .fp .fp16 | 8 => .fp .fp32
  | _ => .int 128

def fmtPlanes (f : BitVec 4) : Nat :=
  match f.toNat with
  | 0 => 2 | 1 => 4 | 2 => 8 | 3 => 16 | 5 => 5 | 6 => 8 | 7 => 11 | 8 => 24 | _ => 0

/-- Bytes of the side array per element (R205). -/
def fmtSide (f : BitVec 4) : Nat := if f.toNat = 5 then 1 else if f.toNat = 6 || f.toNat = 7 || f.toNat = 8 then 2 else 0

/-- RB: bytes of a row in row layout. -/
def rowBytes (f : BitVec 4) (cols : Nat) : Nat := (cols * fmtBits f + 7) / 8

/-- Bytes of a tile (R205). -/
def tileBytes (f : BitVec 4) (rows cols : Nat) (plane : Bool) : Nat :=
  if plane then fmtPlanes f * (rows * ((cols + 7) / 8)) + rows * cols * fmtSide f else rows * rowBytes f cols

/-- Banks or units of 16 KiB that a tile takes. -/
def tileBanks (f : BitVec 4) (rows cols : Nat) (plane : Bool) : Nat := (tileBytes f rows cols plane + 16383) / 16384

def Tile.bytes (t : Tile) : Nat := tileBytes t.fmt t.rows t.cols t.plane
def Tile.rb (t : Tile) : Nat := rowBytes t.fmt t.cols

/-! ### Elements -/

/-- Row i of a tile as a number, elements packed from bit 0 (R76). -/
def Tile.row (t : Tile) (i : Nat) : Nat := t.data.getD i 0

/-- Element (i, j). -/
def Tile.elem (t : Tile) (i j : Nat) : Nat := elemAt (t.row i) (fmtBits t.fmt) j

/-- The rows of a tile from its elements. -/
def rowsOf (bits rows cols : Nat) (f : Nat → Nat → Nat) : List Nat :=
  (List.range rows).map fun i => packElems bits ((List.range cols).map (f i))

def rowPoisoned (p r : Nat) : Bool := p.testBit r

/-- Rows with the flags that computing them raised. -/
structure RowsRes where
  data : List Nat
  fl : Fl
  deriving DecidableEq, Repr

/-- A row of elements computed one by one. -/
def mapRow (w bits cols : Nat) (g : Nat → Res) (row : Nat) : Res :=
  let l := (List.range cols).map fun j => g (elemAt row w j)
  ⟨packElems bits (l.map Res.bits), l.foldl (fun a r => a ||| r.fl) 0⟩

/-- Every element of a tile computed from its own value. -/
def mapTile (t : Tile) (bits : Nat) (g : Nat → Res) : RowsRes :=
  let l := t.data.map (mapRow (fmtBits t.fmt) bits t.cols g)
  ⟨l.map Res.bits, l.foldl (fun a r => a ||| r.fl) 0⟩

/-- The transpose of a tile's elements (R234). -/
def transRows (t : Tile) : List Nat := rowsOf (fmtBits t.fmt) t.cols t.rows fun i j => t.elem j i

/-- One element under TCVT (R234): FTZ never applies. -/
def tcvtElem (src dst : Ty) (rm : Rm) (a : Nat) : Res := src.convert dst ⟨rm, false⟩ true false a

/-- One element under TSCALE by 2^k (R250). -/
def tscaleElem (t : Ty) (rm : Rm) (k : Int) (a : Nat) : Res :=
  match t with
  | .int w =>
    let x := intOf w a
    if 0 ≤ k then ⟨intBits w (satInt (x * 2 ^ k.toNat) w true), 0⟩
    else
      let q : Int := rm.round (decide (x < 0)) (cutAt x.natAbs k 0 false)
      ⟨intBits w (if x < 0 then -q else q), 0⟩
  | .t8 => t8Encode rm ((t8Decode a).scale k)
  | .fp f => f.round rm ((f.decode a).scale k)

/-- k of R250: beyond ±1,023 it acts as ±1,023. -/
def scaleOf (x : Word) (imm : BitVec 7) : Int :=
  let k := x.toInt + imm.toInt
  if k < -1023 then -1023 else if 1023 < k then 1023 else k

/-! ### Accumulator cells (R89, R90) -/

def cellMax : Int := 2 ^ 127 - 1

def satSign (x : Int) : Int := if x < 0 then -cellMax else cellMax

def Cell.zero : Cell := ⟨0, false, false⟩

/-- Adds an integer to a cell, which saturates once (R90). -/
def Cell.addInt (c : Cell) (k : Int) : Cell :=
  if c.o then c
  else
    let n := c.n + k
    if cellMax < (n.natAbs : Int) then { c with n := satSign n, o := true } else { c with n := n }

/-- An integer with the mark that rounding changed the value. -/
structure AnchorRes where
  k : Int
  inexact : Bool
  deriving DecidableEq, Repr

/-- `round_to_anchor` of an exact number m * 2^e at anchor q (R90). -/
def roundToAnchor (neg : Bool) (m : Nat) (e q : Int) : AnchorRes :=
  let c := cutAt m e q false
  let k : Int := Rm.rne.round neg c
  ⟨if neg then -k else k, c.rest.isSome⟩

/-- A cell after a product, with the mark that counts it. -/
structure CellStep where
  cell : Cell
  inexact : Bool
  deriving DecidableEq, Repr

/-- `acc_add` (R90). -/
def Cell.addProd (c : Cell) (a b : Val) (q : Int) : CellStep :=
  match (Val.mul a b).val with
  | .nan _ => ⟨{ c with i := true }, false⟩
  | .inf neg => ⟨if c.o then c else { c with n := if neg then -cellMax else cellMax, o := true }, false⟩
  | .num neg m e =>
    let k := roundToAnchor neg m e q
    ⟨c.addInt k.k, k.inexact⟩

def Acc.clear (q : Int) : Acc where
  q := q
  cv := true
  cells := Vector.replicate 1024 Cell.zero
  rowck := Vector.replicate 32 Cell.zero
  colck := Vector.replicate 32 Cell.zero
  rcRow := Vector.replicate 32 0
  rcCol := Vector.replicate 32 0
  ckRow := Vector.replicate 32 0
  ckCol := Vector.replicate 32 0
  ckPois := false

def Acc.cell (a : Acc) (i j : Nat) : Cell := a.cells.toList.getD (32 * i + j) Cell.zero

/-- Row i as its bytes: cells of an A-level tile are 16 bytes of n each (R176). -/
def Tile.rowNat (t : Tile) (i : Nat) : Nat :=
  match t.acc with
  | some a => packElems 128 ((List.range 32).map fun j => intBits 128 (a.cell i j).n)
  | none => t.row i

/-- Bytes of a row. -/
def Tile.rowLen (t : Tile) : Nat := if t.acc.isSome then 512 else t.rb

/-- Counters plus counts, saturating (R92). -/
def addCounts (v : Vector (BitVec 32) 32) (f : Nat → Nat) : Vector (BitVec 32) 32 :=
  Vector.ofFn fun k : Fin 32 => BitVec.ofNat 32 (Nat.min (v[k.val].toNat + f k.val) 0xFFFFFFFF)

def countIf (n : Nat) (f : Nat → Bool) : Nat := (List.range n).foldl (fun c k => if f k then c + 1 else c) 0

/-- The exact sum of R92. -/
def sumVals (l : List Val) : Val := l.foldl (fun a b => (Val.add false a b).val) (.num false 0 0)

/-- One k of `mma` (R239): the products of a column of A and a row of B, with the checksums. -/
def Acc.mmaStep (x : Acc) (ck : Bool) (a b : List Val) : Acc :=
  let z := Val.num false 0 0
  let steps : Vector CellStep 1024 := Vector.ofFn fun k : Fin 1024 => x.cells[k.val].addProd (a.getD (k.val / 32) z) (b.getD (k.val % 32) z) x.q
  let hit (i j : Nat) : Bool := (steps.toList.getD (32 * i + j) ⟨Cell.zero, false⟩).inexact
  let y : Acc := { x with cells := steps.map CellStep.cell
                          rcRow := addCounts x.rcRow fun i => countIf 32 fun j => hit i j
                          rcCol := addCounts x.rcCol fun j => countIf 32 fun i => hit i j }
  if ck then
    let bs := sumVals b
    let as := sumVals a
    let rs : Vector CellStep 32 := Vector.ofFn fun i : Fin 32 => x.rowck[i.val].addProd (a.getD i.val z) bs x.q
    let cs : Vector CellStep 32 := Vector.ofFn fun j : Fin 32 => x.colck[j.val].addProd as (b.getD j.val z) x.q
    { y with rowck := rs.map CellStep.cell
             colck := cs.map CellStep.cell
             ckRow := addCounts x.ckRow fun i => if (rs.toList.getD i ⟨Cell.zero, false⟩).inexact then 1 else 0
             ckCol := addCounts x.ckCol fun j => if (cs.toList.getD j ⟨Cell.zero, false⟩).inexact then 1 else 0 }
  else y

/-- One K block of `mma` (R239). -/
def Acc.mmaBlock (x : Acc) (ck : Bool) (kb : Nat) (a b : Nat → Nat → Val) : Acc :=
  (List.range 32).foldl (fun x d =>
    let k := 32 * kb + d
    x.mmaStep ck ((List.range 32).map fun i => a i k) ((List.range 32).map fun j => b k j)) x

/-! ### ASETQ and AADDT (R248, R249) -/

/-- A cell or checksum moved to an anchor. -/
def Cell.setQ (c : Cell) (q0 q : Int) : CellStep :=
  if c.o || c.i then ⟨c, false⟩
  else
    let k := roundToAnchor (decide (c.n < 0)) c.n.natAbs q0 q
    ⟨if cellMax < (k.k.natAbs : Int) then { c with n := satSign k.k, o := true } else { c with n := k.k }, k.inexact⟩

/-- Multiplies counters by 2^d, saturating. -/
def scaleCounts (v : Vector (BitVec 32) 32) (d : Nat) : Vector (BitVec 32) 32 :=
  v.map fun c => BitVec.ofNat 32 (Nat.min (c.toNat * 2 ^ d) 0xFFFFFFFF)

/-- The counters of a tile after steps over its cells and checksums. -/
def Acc.withSteps (x : Acc) (cells : Vector CellStep 1024) (rs cs : Vector CellStep 32) : Acc :=
  let hit (i j : Nat) : Bool := (cells.toList.getD (32 * i + j) ⟨Cell.zero, false⟩).inexact
  { x with cells := cells.map CellStep.cell
           rowck := rs.map CellStep.cell
           colck := cs.map CellStep.cell
           rcRow := addCounts x.rcRow fun i => countIf 32 fun j => hit i j
           rcCol := addCounts x.rcCol fun j => countIf 32 fun i => hit i j
           ckRow := addCounts x.ckRow fun i => if (rs.toList.getD i ⟨Cell.zero, false⟩).inexact then 1 else 0
           ckCol := addCounts x.ckCol fun j => if (cs.toList.getD j ⟨Cell.zero, false⟩).inexact then 1 else 0 }

/-- `asetq` (R248). -/
def Acc.setQ (x : Acc) (q : Int) : Acc :=
  let d := (x.q - q).toNat
  let y := { x with rcRow := scaleCounts x.rcRow d, rcCol := scaleCounts x.rcCol d, ckRow := scaleCounts x.ckRow d, ckCol := scaleCounts x.ckCol d }
  { y.withSteps (x.cells.map fun c => c.setQ x.q q) (x.rowck.map fun c => c.setQ x.q q) (x.colck.map fun c => c.setQ x.q q) with q := q }

/-- A cell or checksum takes its partner (R249). -/
def Cell.addCell (x y : Cell) (qd qa : Int) : CellStep :=
  let x := if y.i then { x with i := true } else x
  if x.o || x.i then ⟨x, false⟩
  else if y.o then ⟨{ x with n := satSign y.n, o := true }, false⟩
  else
    let k := roundToAnchor (decide (y.n < 0)) y.n.natAbs qa qd
    ⟨x.addInt k.k, k.inexact⟩

/-- AADDT (R249). -/
def Acc.addTile (x y : Acc) : Acc :=
  let d := (y.q - x.q).toNat
  let gain (v w : Vector (BitVec 32) 32) : Vector (BitVec 32) 32 :=
    addCounts v fun k => ((scaleCounts w d).toList.getD k 0).toNat
  let zip32 (v w : Vector Cell 32) : Vector CellStep 32 := Vector.ofFn fun k : Fin 32 => v[k.val].addCell w[k.val] x.q y.q
  let z := x.withSteps (Vector.ofFn fun k : Fin 1024 => x.cells[k.val].addCell y.cells[k.val] x.q y.q) (zip32 x.rowck y.rowck) (zip32 x.colck y.colck)
  { z with rcRow := gain z.rcRow y.rcRow, rcCol := gain z.rcCol y.rcCol, ckRow := gain z.ckRow y.ckRow, ckCol := gain z.ckCol y.ckCol,
           cv := x.cv && y.cv, ckPois := x.ckPois || y.ckPois }

/-! ### ACVT (R91, R251) -/

def acvtCell (t : Ty) (rm : Rm) (q : Int) (c : Cell) : Res :=
  let v := Val.num (decide (c.n < 0)) c.n.natAbs q
  match t with
  | .int w => if c.i then ⟨0, Fl.nv⟩ else
    let r := v.toInt rm w true
    ⟨intBits w r.val, r.fl⟩
  | .t8 => if c.i then ⟨128, Fl.nv⟩ else t8Encode rm v
  | .fp f => if c.i then ⟨f.nanBits, Fl.nv⟩ else f.round rm v

/-- The rows that ACVT gives. -/
def acvtRows (f : BitVec 4) (rm : Rm) (a : Acc) : RowsRes :=
  let res (i j : Nat) := acvtCell (fmtTy f) rm a.q (a.cell i j)
  ⟨rowsOf (fmtBits f) 32 32 fun i j => (res i j).bits,
    (List.range 1024).foldl (fun g k => g ||| (res (k / 32) (k % 32)).fl) 0⟩

/-! ### ACHK and AFIX (R252 to R255) -/

/-- What a check finds. -/
structure Check where
  dr : List Int
  dc : List Int
  failR : List Bool
  failC : List Bool
  unR : List Bool
  unC : List Bool
  nock : Bool
  pois : Bool
  deriving DecidableEq, Repr

def boolMask : List Bool → Nat
  | [] => 0
  | b :: t => (if b then 1 else 0) + 2 * boolMask t

def Acc.rowSum (a : Acc) (i : Nat) : Int := (List.range 32).foldl (fun s j => s + (a.cell i j).n) 0
def Acc.colSum (a : Acc) (j : Nat) : Int := (List.range 32).foldl (fun s i => s + (a.cell i j).n) 0

def counterAt (v : Vector (BitVec 32) 32) (k : Nat) : Nat := (v.toList.getD k 0).toNat
def cellIn (v : Vector Cell 32) (k : Nat) : Cell := v.toList.getD k Cell.zero

/-- The tolerance test of a residue (R92, R254). -/
def passes (d : Int) (tol : Nat) : Bool := decide (2 * d.natAbs ≤ tol)

def Acc.tolR (a : Acc) (i : Nat) : Nat := counterAt a.rcRow i + counterAt a.ckRow i
def Acc.tolC (a : Acc) (j : Nat) : Nat := counterAt a.rcCol j + counterAt a.ckCol j

/-- The check of R254; the residues of R253 are taken whatever it finds. The steps are taken in their order and the first that applies decides
the report, so a poisoned tile with CV = 0 reports NOCK alone (DESIGN CHOICE, log entry 60). -/
def Acc.check (a : Acc) (pois : Bool) : Check :=
  let bad (c : Cell) : Bool := c.o || c.i
  let dr := (List.range 32).map fun i => a.rowSum i - (cellIn a.rowck i).n
  let dc := (List.range 32).map fun j => a.colSum j - (cellIn a.colck j).n
  let none := List.replicate 32 false
  if !a.cv then ⟨dr, dc, none, none, none, none, true, false⟩
  else if pois then ⟨dr, dc, none, none, none, none, false, true⟩
  else
    let unR := (List.range 32).map fun i => bad (cellIn a.rowck i) || ((List.range 32).any fun j => bad (a.cell i j))
      || counterAt a.rcRow i == 0xFFFFFFFF || counterAt a.ckRow i == 0xFFFFFFFF
    let unC := (List.range 32).map fun j => bad (cellIn a.colck j) || ((List.range 32).any fun i => bad (a.cell i j))
      || counterAt a.rcCol j == 0xFFFFFFFF || counterAt a.ckCol j == 0xFFFFFFFF
    let failR := (List.range 32).map fun i => !(unR.getD i false) && !passes (dr.getD i 0) (a.tolR i)
    let failC := (List.range 32).map fun j => !(unC.getD j false) && !passes (dc.getD j 0) (a.tolC j)
    ⟨dr, dc, failR, failC, unR, unC, false, false⟩

def Check.failed (c : Check) : Bool := (c.failR ++ c.failC).any id
def Check.unchecked (c : Check) : Bool := (c.unR ++ c.unC).any id

/-- What AFIX does: the action, place and bit of R253. -/
structure Fix where
  action : Nat
  place : Nat
  bit : Nat
  acc : Acc
  deriving DecidableEq, Repr

def noPlace : Nat := 0xFFFFFFFF

def trueAt (l : List Bool) : List Nat := (List.range l.length).filter fun k => l.getD k false

def Acc.putCell (a : Acc) (i j : Nat) (n : Int) : Acc :=
  if h : 32 * i + j < 1024 then { a with cells := a.cells.set (32 * i + j) { a.cells[32 * i + j] with n := n } h } else a

/-- The signed 128-bit value of a cell with bit b flipped. -/
def flipBit (n : Int) (b : Nat) : Int := intOf 128 (intBits 128 n ^^^ 2 ^ b)

/-- The cell of action 2: the exact number where a cell can hold it, else a free value that one can (R89, R255; log entry 59). -/
def replaced (m : Int) : Int :=
  if -2 ^ 127 < m && m < 2 ^ 127 then m else ((Config.freeCell m).toNat % (2 ^ 128 - 1) : Nat) - (2 ^ 127 - 1)

/-- AFIX on a tile whose check found a failure with nothing unchecked (R255); a flip that would give -2^127 is no candidate, since no operation
produces that value (R89). -/
def Acc.repair (a : Acc) (c : Check) : Fix :=
  let stuck : Fix := ⟨5, noPlace, noPlace, a⟩
  match trueAt c.failR, trueAt c.failC with
  | [i], [j] =>
    let dr := c.dr.getD i 0
    let dc := c.dc.getD j 0
    let n := (a.cell i j).n
    let ok (m : Int) : Bool := m != -2 ^ 127 && passes (dr + (m - n)) (a.tolR i) && passes (dc + (m - n)) (a.tolC j)
    let cost (m : Int) : Nat := (dr + (m - n)).natAbs + (dc + (m - n)).natAbs
    let best := (List.range 128).foldl (fun (b : Option Nat) k =>
      if ok (flipBit n k) then
        match b with
        | none => some k
        | some v => if cost (flipBit n k) < cost (flipBit n v) then some k else b
      else b) none
    match best with
    | some b => ⟨1, 32 * i + j, b, a.putCell i j (flipBit n b)⟩
    | none => if passes (dc - dr) (a.tolC j) then ⟨2, 32 * i + j, noPlace, a.putCell i j (replaced (n - dr))⟩ else stuck
  | [i], [] => ⟨3, i, noPlace, if h : i < 32 then { a with rowck := a.rowck.set i (Cell.addInt { a.rowck[i] with n := 0, o := false } (a.rowSum i)) h } else a⟩
  | [], [j] => ⟨4, j, noPlace, if h : j < 32 then { a with colck := a.colck.set j (Cell.addInt { a.colck[j] with n := 0, o := false } (a.colSum j)) h } else a⟩
  | _, _ => stuck

/-- The fix that ACHK or AFIX makes. -/
def Acc.fix (a : Acc) (c : Check) (afix : Bool) : Fix :=
  if !afix || !c.failed then ⟨0, noPlace, noPlace, a⟩
  else if c.unchecked then ⟨5, noPlace, noPlace, a⟩
  else a.repair c

/-- The three rows of the report (R253). PASS is 0 where NOCK or POIS is set, since nothing was checked then (DESIGN CHOICE, log entry 60). -/
def reportRows (c : Check) (f : Fix) : List Nat :=
  let sat (x : Int) : Nat := intBits 32 (satInt x 32 true)
  let status := (if c.pois then 8 else 0) + (if c.unchecked then 4 else 0) + (if c.nock then 2 else 0)
    + (if !c.pois && !c.nock && !c.failed then 1 else 0)
  [packElems 32 (c.dr.map sat), packElems 32 (c.dc.map sat),
    packElems 32 [status, boolMask c.failR, boolMask c.failC, boolMask c.unR, boolMask c.unC, f.action, f.place, f.bit]]

end Sys2Proof.Machine
end

