-- ==== Sys2Proof/Machine/Layout.lean ====
section
/-! DEFINITION. The layout record and the transfers that it describes (spec/09 R219 to R223, R228, R231 to R233; spec/08 R193, R197, R207,
R208; spec/16 R404). -/

namespace Sys2Proof.Machine

/-! ### Fields of a record (R219) -/

abbrev Lay := Vector Word 12

def Lay.fmt (l : Lay) : BitVec 4 := l[0].extractLsb' 0 4
def Lay.ndim (l : Lay) : Nat := (l[0].extractLsb' 4 2).toNat + 1
def Lay.dst (l : Lay) : Bool := l[0].getLsbD 6
def Lay.fill (l : Lay) : BitVec 2 := l[0].extractLsb' 8 2
def Lay.pitch (l : Lay) : BitVec 16 := l[0].extractLsb' 16 16
def Lay.pat (l : Lay) : Word := l[1]
def Lay.word (l : Lay) (k : Nat) : Word := l.toList.getD k 0
/-- Extent, origin, window size and stride of dimension k. -/
def Lay.ext (l : Lay) (k : Nat) : Nat := ((l.word (2 + k / 2)).extractLsb' (32 * (k % 2)) 32).toNat
def Lay.org (l : Lay) (k : Nat) : Int := ((l.word (7 + k / 2)).extractLsb' (32 * (k % 2)) 32).toInt
def Lay.win (l : Lay) (k : Nat) : Nat := (l[9].extractLsb' (16 * k) 16).toNat
def Lay.stride (l : Lay) (k : Nat) : Int := if k = 0 then 0 else ((l.word (3 + k)).setWidth 48).toInt
def Lay.run (l : Lay) : BitVec 3 := l[10].extractLsb' 0 3
def Lay.rot (l : Lay) : BitVec 5 := l[10].extractLsb' 3 5

/-- The window size of a dimension, 1 when it is unused. -/
def Lay.size (l : Lay) (k : Nat) : Nat := if k < l.ndim then l.win k else 1

/-- The record that a vector register holds (R219). -/
def recordOf (v : VReg) : Lay := Vector.ofFn fun k : Fin 12 => v.extractLsb' (64 * k.val) 64

/-- Check 2 of R220: a reserved bit or code. -/
def recordReserved (v : VReg) : Bool :=
  let l := recordOf v
  let unused (k : Nat) : Bool := l.ndim ≤ k && (l.ext k != 0 || l.org k != 0 || l.win k != 0 || (k != 0 && l.stride k != 0))
  v.extractLsb' 768 256 != 0 || l[0].extractLsb' 32 32 != 0 || l[0].extractLsb' 10 6 != 0 || l[0].getLsbD 7
    || l[4].extractLsb' 48 16 != 0 || l[5].extractLsb' 48 16 != 0 || l[6].extractLsb' 48 16 != 0
    || l[10].extractLsb' 8 56 != 0 || l[11] != 0 || decide (9 < l.fmt.toNat)
    || [1, 2, 3].any unused
    || (if l.fill = 1 then (if l.fmt = 9 then false else l.pat.toNat ≥ 2 ^ fmtBits l.fmt) else l.pat != 0)
    || l.fill = 3 || l.run = 7

/-- The placement of R223 fits b banks. -/
def placementFits (l : Lay) (rows rb b : Nat) : Bool :=
  let pitch := if l.pitch = 0 then rb else l.pitch.toNat
  let run := 2 ^ l.run.toNat
  let runs := (rows + run - 1) / run
  (runs + b - 1) / b * run * pitch ≤ 16384

/-! ### Elements of the window (R221, R222) -/

/-- Where a window element lies in memory: a byte address (an exact integer) and the bit inside it. -/
structure ElemAddr where
  inside : Bool
  addr : Int
  bit : Nat
  deriving DecidableEq, Repr

/-- The coordinates' memory position, clamped to the extents where the element is not inside. -/
def elemAddr (l : Lay) (base : Word) (r c : Nat) : ElemAddr :=
  let n1 := l.size 1
  let n2 := l.size 2
  let i (k : Nat) : Nat := if k = 0 then c else if k = 1 then r % n1 else if k = 2 then r / n1 % n2 else r / n1 / n2
  let g (k : Nat) : Int := if k < l.ndim then l.org k + (i k : Int) else 0
  let inside := (List.range l.ndim).all fun k => decide (0 ≤ g k) && decide (g k < (l.ext k : Int))
  let h (k : Nat) : Int :=
    if l.ndim ≤ k then 0 else if g k < 0 then 0 else if (l.ext k : Int) ≤ g k then (l.ext k : Int) - 1 else g k
  let bits := fmtBits l.fmt
  let b0 := (h 0).toNat * bits
  ⟨inside, (base.toNat : Int) + (b0 / 8 : Nat) + h 1 * l.stride 1 + h 2 * l.stride 2 + h 3 * l.stride 3, b0 % 8⟩

/-! ### Tile elements with ACC128 (R231, R232) -/

/-- Element (i, j) as its bits: n of the cell in an A-level tile. -/
def Tile.get (t : Tile) (i j : Nat) : Nat :=
  match t.acc with
  | some a => intBits 128 (a.cell i j).n
  | none => t.elem i j

def putElem (w j row v : Nat) : Nat := row - elemAt row w j * 2 ^ (w * j) + v % 2 ^ w * 2 ^ (w * j)

/-- Writes element (i, j); in an A-level tile n is written, O and I are cleared. -/
def Tile.put (t : Tile) (i j v : Nat) : Tile :=
  match t.acc with
  | some a => if h : 32 * i + j < 1024 then { t with acc := some { a with cells := a.cells.set (32 * i + j) ⟨intOf 128 v, false, false⟩ h } } else t
  | none => { t with data := t.data.set i (putElem (fmtBits t.fmt) j (t.row i) v) }

def Tile.poisonRow (t : Tile) (i : Nat) : Tile := if rowPoisoned t.pois i then t else { t with pois := t.pois + 2 ^ i }

/-! ### Steps of a transfer (R193, R197, R207, R208, R222, R226, R228, R259) -/

/-- Byte offset of an element inside its tile, by which a step covers it (log entry 9). -/
def elemOff (bits rb cols p : Nat) : Nat := p / cols * rb + p % cols * bits / 8

/-- The flat indices whose offset lies in [lo, lo + 1024). -/
def stepElems (bits rows cols lo : Nat) : List Nat :=
  let rb := (cols * bits + 7) / 8
  (List.range (rows * cols)).filter fun p => lo ≤ elemOff bits rb cols p && elemOff bits rb cols p < lo + 1024

/-- A transfer in the middle of a step. -/
structure Xfer where
  s : State
  tile : Tile
  bad : Option Trap
  wait : Bool
  /-- Rows that have received poison in this transfer. -/
  xpois : Nat
  /-- Granules outside the package whose reads the step still needs. -/
  need : List Place

/-- What a transfer is made for. -/
structure XferCtx where
  x : CtxId
  n : Nat
  dom : BitVec 12
  grp : BitVec 20
  lay : Lay
  base : Word
  /-- TLOAD, as against TSTORE and TCKPT. -/
  load : Bool
  /-- TCKPT (R233). -/
  ckpt : Bool
  /-- The memory format, narrower than the tile's in a narrow checkpoint. -/
  fmt : BitVec 4
  /-- What its reads outside have returned. -/
  pieces : List Piece

def XferCtx.die (k : XferCtx) : Fin 4 := k.x.core.die

def deferred (code : BitVec 8) (va : BitVec 48) (opnd : List Word) : Trap := ⟨code, .d, 0, va, opnd⟩

/-- Element p touches memory: it is inside, or a load replicates the edge (R222). -/
def XferCtx.touches (k : XferCtx) (e : ElemAddr) : Bool := e.inside || (k.load && k.lay.fill == 2)

/-- The lines that hold a bit of an element, ascending (R197). -/
def elemLines (k : XferCtx) (cols p : Nat) : List Int :=
  let e := elemAddr k.lay k.base (p / cols) (p % cols)
  if k.touches e then
    let a := e.addr / 64
    let b := (8 * e.addr + (e.bit : Int) + (fmtBits k.fmt : Int) - 1) / 512
    if a = b then [a] else [a, b]
  else []

/-- Row r can have a bit in a line: in one row no address falls from a column to the next (R222). -/
def rowMeets (k : XferCtx) (cols : Nat) (line : Int) (r : Nat) : Bool :=
  let a := elemAddr k.lay k.base r 0
  let b := elemAddr k.lay k.base r (cols - 1)
  decide (a.addr / 64 ≤ line) && decide (line ≤ (8 * b.addr + (b.bit : Int) + (fmtBits k.fmt : Int) - 1) / 512)

/-- The elements with a bit in a line, in the order of R222. -/
def lineElems (k : XferCtx) (rows cols : Nat) (line : Int) : List Nat :=
  ((List.range rows).filter (rowMeets k cols line)).flatMap fun r =>
    ((List.range cols).map fun c => r * cols + c).filter fun p => (elemLines k cols p).contains line

/-- A list without immediate repeats. -/
def squeeze (l : List Int) : List Int := l.foldr (fun a m => if m.head? == some a then m else a :: m) []

/-- The lines that some element of a list touches and no element before the list's first does. -/
def newLines (k : XferCtx) (rows cols : Nat) (els : List Nat) : List Int :=
  (dedup (squeeze (els.flatMap (elemLines k cols)))).filter fun l => (lineElems k rows cols l).headD 0 ≥ els.headD 0

/-- The lines of a tile that a step from `lo` handles: those that one of its elements is the first to touch. A line is handled whole in one
step, since it is a single-copy atomic granule (R226, R259). -/
def stepLines (k : XferCtx) (rows cols lo : Nat) : List Int := newLines k rows cols (stepElems (fmtBits k.fmt) rows cols lo)

/-- The lines that a transfer of progress `lo` has still to handle. -/
def restLines (k : XferCtx) (rows cols lo : Nat) : List Int :=
  let bits := fmtBits k.fmt
  let rb := (cols * bits + 7) / 8
  newLines k rows cols ((List.range (rows * cols)).filter fun p => lo ≤ elemOff bits rb cols p)

/-- Where an element's bits lie in a line: from bit `at_` of the line, `n` bits, the element's bits from `off`. -/
structure Span where
  at_ : Nat
  n : Nat
  off : Nat
  deriving DecidableEq, Repr

/-- The part of an element that lies in a line. -/
def elemSpan (k : XferCtx) (e : ElemAddr) (line : Int) : Span :=
  let start := 8 * e.addr + (e.bit : Int) - 512 * line
  let lo := max 0 start
  let hi := min 512 (start + (fmtBits k.fmt : Int))
  ⟨lo.toNat, (hi - lo).toNat, (lo - start).toNat⟩

/-- A number with n bits from `off` replaced. -/
def putBits (old off n v : Nat) : Nat := old - old / 2 ^ off % 2 ^ n * 2 ^ off + v % 2 ^ n * 2 ^ off

/-- The bytes of a line reach the tile's elements; a poisoned line poisons their rows (R207). -/
def loadLine (k : XferCtx) (t : Tile) (line : Int) (v : Nat) (pois : Bool) : Tile :=
  (lineElems k t.rows t.cols line).foldl (fun t p =>
    let r := p / t.cols
    let c := p % t.cols
    let q := elemSpan k (elemAddr k.lay k.base r c) line
    let t := t.put r c (putBits (t.get r c) q.off q.n (v / 2 ^ q.at_))
    if pois then t.poisonRow r else t) t

/-- The rows of a line's elements. -/
def lineRows (k : XferCtx) (t : Tile) (line : Int) : Nat :=
  (lineElems k t.rows t.cols line).foldl (fun m p => if rowPoisoned m (p / t.cols) then m else m + 2 ^ (p / t.cols)) 0

/-- What a store writes of a line: which of its 512 bits, and their values; the last element of one bit stands (R222). -/
structure LineWr where
  mask : Nat
  val : Nat
  deriving DecidableEq, Repr

/-- The bits of an element in the memory's format (R232, R233). -/
def storedBits (k : XferCtx) (t : Tile) (r c : Nat) : Nat :=
  if k.fmt != t.fmt then (Fmt.bf16.round .rne (f32 (t.get r c))).bits else t.get r c

def storeLine (k : XferCtx) (t : Tile) (line : Int) : LineWr :=
  (lineElems k t.rows t.cols line).foldl (fun w p =>
    let q := elemSpan k (elemAddr k.lay k.base (p / t.cols) (p % t.cols)) line
    ⟨putBits w.mask q.at_ q.n (2 ^ q.n - 1), putBits w.val q.at_ q.n (storedBits k t (p / t.cols) (p % t.cols) / 2 ^ q.off)⟩) ⟨0, 0⟩

/-- A poisoned row of the tile gives a bit to a line (R207). -/
def linePois (k : XferCtx) (t : Tile) (line : Int) : Bool := (lineElems k t.rows t.cols line).any fun p => rowPoisoned t.pois (p / t.cols)

/-- The address that a fault or a lost home reports: that of the first element of the line (R305, R380). -/
def lineVa (k : XferCtx) (t : Tile) (line : Int) : Int :=
  match lineElems k t.rows t.cols line with
  | p :: _ => (elemAddr k.lay k.base (p / t.cols) (p % t.cols)).addr
  | [] => 64 * line

/-- A line with the written bits over what it held. -/
def LineWr.over (w : LineWr) (old : Nat) : Nat := (old &&& (2 ^ 512 - 1 - w.mask)) ||| (w.val &&& w.mask)

/-- The task set of a domain. -/
def taskSetOf (s : State) (dom : BitVec 12) : Option TaskSet := s.tasksets.find? fun t => t.reg.dom == dom

/-- Puts one line of a checkpoint source into the open epoch of its die's mirror area (R404). -/
def mirrorLine (s : State) (src : Fin 4) (ts : BitVec 32) (epoch line v : Nat) (narrow : Bool) : State :=
  match hingePartner s src with
  | none => s
  | some p => modDie s p fun d =>
    let l := if d.mirror.any fun m => decide (m.src = src) && m.ts == ts && m.epoch == epoch then d.mirror
      else ⟨src, ts, epoch, false, []⟩ :: d.mirror.filter fun m => !(decide (m.src = src) && m.ts == ts && m.epoch % 2 == epoch % 2)
    { d with mirror := l.map fun m =>
      if decide (m.src = src) && m.ts == ts && m.epoch == epoch then
        { m with lines := (line, v, narrow) :: m.lines.filter fun q => !(q.1 == line) } else m }

/-- TCKPT's copy of the line of a written byte. -/
def ckptLine (s : State) (dom : BitVec 12) (d : Fin 4) (off : Nat) (va : BitVec 48) : State :=
  let ts := taskSetOf s dom
  let id : BitVec 32 := (ts.map fun t => t.reg.tsid).getD 0
  let ep := (ts.map TaskSet.epoch).getD 0 + 1
  mirrorLine s d id ep (va.toNat / 64) (memRead s.mem (memKey d (off / 64 * 64)) 64) false

/-- The reply that the transfer holds for a granule outside. -/
def XferCtx.got (k : XferCtx) (p : Place) : Option (Nat × Bool) := (k.pieces.find? fun q => q.at_ == p).bind Piece.got

/-- The reply says that the granule has no home. -/
def XferCtx.missed (k : XferCtx) (p : Place) : Bool := k.pieces.any fun q => q.at_ == p && q.lost

/-- The lines of a store at their home: one write, single-copy atomic; what it does not write keeps its value there (R222, R259). -/
def putLine (k : XferCtx) (x : Xfer) (line : Int) (hd : Option (Fin 4)) (p : Place) (w : LineWr) : Xfer :=
  let pois := linePois k x.tile line
  let src := k.die
  match p with
  | .mem d off =>
    let s := if w.mask = fullMask 64 then x.s else meetLatent x.s d (lineKey d off)
    let s := (homeWrite s d off 64 (w.over (memRead s.mem (memKey d off) 64)) hd).1
    let s := homeWritten s d off hd pois (w.mask = fullMask 64)
    { x with s := if k.ckpt then ckptLine s k.dom d off (BitVec.ofInt 48 (64 * line)) else s }
  | .host a => { x with s := hostPut x.s a 64 w.val w.mask }
  | .pkg _ _ _ => { x with s := sendWrite x.s p 64 w.val w.mask pois (.store k.x (some k.n) (BitVec.ofInt 48 (lineVa k x.tile line))) }
  | .lost _ => { x with s := noteLost x.s src k.dom (BitVec.ofInt 64 (lineVa k x.tile line)) (groupWord k.grp) }

/-- The line of a load: its bytes with their poison mark, or the read that it needs. No tile entry consumes poison: it carries it on, and parks for none
(R207, R225; DESIGN CHOICE, log entry 75). -/
def getLine (k : XferCtx) (x : Xfer) (line : Int) (p : Place) : Xfer :=
  let take (s : State) (v : Nat) (pois : Bool) : Xfer :=
    { x with s := s, tile := loadLine k x.tile line v pois, xpois := if pois then x.xpois ||| lineRows k x.tile line else x.xpois }
  match p with
  | .mem d off => let r := readMem x.s d off 64; take r.st r.val r.pois
  | .lost _ => take (readLost x.s k.die k.dom (BitVec.ofInt 64 (lineVa k x.tile line)) (groupWord k.grp)) 0 true
  | _ => match k.got p with
    | some (v, pois) => take (if k.missed p then readLost x.s k.die k.dom (BitVec.ofInt 64 (lineVa k x.tile line)) (groupWord k.grp) else x.s) v pois
    | none => { x with need := x.need ++ [p] }

/-- One line of a transfer: translated, counted as one request, performed if `go` (R197, R228, R370). A fault after the first leaves nothing. -/
def xferLine (k : XferCtx) (go : Int → Bool) (x : Xfer) (line : Int) : Xfer :=
  let ea := lineVa k x.tile line
  let va : BitVec 48 := BitVec.ofInt 48 ea
  let flags : Nat := if k.load then 8 else 10
  let fail (s : State) (t : Trap) : Xfer := match x.bad with
    | some _ => x
    | none => { x with s := s, bad := some t }
  if x.bad.isSome && !go line then x
  else if ea < 0 || (2 ^ 48 : Int) ≤ ea || line < 0 || (2 ^ 42 : Int) ≤ line then fail x.s (deferred cPageNotPresent va [BitVec.ofNat 64 flags])
  else
    match translate x.s k.x.core k.dom (groupWord k.grp) (BitVec.ofInt 48 (64 * line)) (if k.load then .read else .write) with
    | .wait s => { x with s := s, wait := true }
    | .bad f s => fail s (deferred f.code va (accOpnd { f with da := f.da.map fun d => d + (va - BitVec.ofInt 48 (64 * line)).setWidth 52 } (!k.load) false true))
    | .ok t p s =>
      if k.ckpt && !t.hm then fail s (deferred cPermission va (accOpnd ⟨cPermission, false, some (t.dpn ++ va.extractLsb' 0 18)⟩ true false true))
      else if !go line then { x with s := s }
      else
        let s := countRequest s k.die p
        if k.load && t.st == 1 then { x with s := countReq s k.die 3, tile := loadLine k x.tile line 0 false }
        else if k.load then getLine k { x with s := s } line p
        else putLine k { x with s := s } line t.mirrorOf p (storeLine k x.tile line)

/-- The elements of a step that a load fills without memory (R222). -/
def fillElems (k : XferCtx) (t : Tile) (lo : Nat) : Tile :=
  if !k.load then t
  else (stepElems (fmtBits k.fmt) t.rows t.cols lo).foldl (fun t p =>
    let e := elemAddr k.lay k.base (p / t.cols) (p % t.cols)
    if k.touches e then t
    else t.put (p / t.cols) (p % t.cols)
      (if k.lay.fill = 1 then (if k.fmt = 9 then intBits 128 k.lay.pat.toInt else k.lay.pat.toNat) else 0)) t

/-- Rows that a load has written whole, from unpoisoned data, hold poison no more (R208). -/
def clearRows (k : XferCtx) (t : Tile) (xpois lo : Nat) : Tile :=
  let bits := fmtBits k.fmt
  let rb := (t.cols * bits + 7) / 8
  let done (r : Nat) : Bool := elemOff bits rb t.cols (r * t.cols + (t.cols - 1)) < lo + 1024
  { t with pois := (List.range t.rows).foldl (fun m r => if done r && rowPoisoned m r && !rowPoisoned xpois r then m - 2 ^ r else m) t.pois }

/-- One step of a transfer from progress `lo`: when a granule faults, an unspecified subset of the step's granules is performed, the walks of
those before it standing (R228; log entry 9). -/
def xferStep (k : XferCtx) (s : State) (t : Tile) (xpois lo : Nat) : Xfer :=
  let lines := stepLines k t.rows t.cols lo
  let x0 : Xfer := ⟨s, t, none, false, xpois, []⟩
  let x := lines.foldl (xferLine k fun _ => true) x0
  match x.bad with
  | none => { x with tile := if k.load then clearRows k (fillElems k x.tile lo) x.xpois lo else x.tile }
  | some b => { lines.foldl (xferLine k fun l => Config.granuleDone s.clk l.toNat) x0 with bad := some b }

end Sys2Proof.Machine
end

