-- ==== Sys2Proof/Machine/Window.lean ====
section
/-! DEFINITION. Window entries on their units: operand checks, starting, copy steps, MMA blocks, completion (spec/09 R224 to R235; spec/10 R236
to R256; spec/12 R278 to R280, R289 to R291, R297 to R299; spec/08 R200; spec/13 R315, R316). -/

namespace Sys2Proof.Machine

/-! ### The slot value of an entry (R51) -/

def Entry.op (e : Entry) : Nat := (e.slot.extractLsb' 32 8).toNat
def Entry.hD (e : Entry) : BitVec 5 := e.slot.extractLsb' 27 5
def Entry.hA (e : Entry) : BitVec 5 := e.slot.extractLsb' 22 5
def Entry.hB (e : Entry) : BitVec 5 := e.slot.extractLsb' 17 5
def Entry.fn (e : Entry) : BitVec 9 := e.slot.extractLsb' 0 9

/-- The carrier of an entry (R280). -/
inductive Carrier where
  | window | copy | array | accu
  deriving DecidableEq, Repr

def carrierOf (op : Nat) : Carrier :=
  if op ≤ 4 then .window else if op = 0x10 then .array else if 0x11 ≤ op && op ≤ 0x16 then .accu else .copy

def isTransfer (op : Nat) : Bool := op == 5 || op == 6 || op == 0x18

/-- FE and the flag of a slot value, by format (R226). -/
def slotFlag (w : SlotBits) : Option (Fin 32) :=
  let op := (w.extractLsb' 32 8).toNat
  let pick (fe fl : Nat) : Option (Fin 32) := if w.getLsbD fe then some (fin32 (w.extractLsb' fl 5).toNat) else none
  if isTransfer op then pick 10 11
  else if op = 0x10 then pick 9 4
  else if op = 1 || op = 0x11 || op = 0x12 then none
  else pick 14 9

def Entry.flag (e : Entry) : Option (Fin 32) := slotFlag e.slot

/-- Tiles that an entry writes; the frees of its last-use marks count (R230). -/
def Entry.writes (e : Entry) : List TRef :=
  let d := e.td.toList
  (if e.op == 6 || e.op == 0x18 || e.op == 0x0D then [] else if e.op == 0x16 then d ++ e.ta.toList else d) ++ e.frees

/-- Tiles that an entry reads. -/
def Entry.reads (e : Entry) : List TRef :=
  (if e.op == 6 || e.op == 0x18 then e.td.toList else []) ++ e.ta.toList ++ e.tb.toList

def Entry.names (e : Entry) : List TRef := e.td.toList ++ e.ta.toList ++ e.tb.toList

/-- The busy bit: an earlier entry holds a later one (R224). -/
def blocks (f e : Entry) : Bool :=
  (f.writes.any fun r => e.names.contains r || e.frees.contains r) || f.reads.any fun r => e.writes.contains r

/-- The entry accesses a tile of the die store (R271). -/
def Entry.touchesStore (e : Entry) : Bool := decide (4 < e.op) && e.names.any fun r => match r with
  | .own _ => false
  | .grp _ => true

/-- An earlier entry holds a later one because the strand's accesses to the die store keep their order there, and a transfer starts after every
earlier access (R213, R264, R271). -/
def orders (f e : Entry) : Bool := f.touchesStore && (e.touchesStore || isTransfer e.op)

/-- The entries before entry n. -/
def earlier (win : List Entry) (n : Nat) : List Entry := win.takeWhile fun e => !(e.n == n)

def entryAt (c : Ctx) (n : Nat) : Option Entry := c.win.find? fun e => e.n == n
def modEntry (s : State) (x : CtxId) (n : Nat) (f : Entry → Entry) : State :=
  modCtx s x fun c => { c with win := c.win.map fun e => if e.n == n then f e else e }

/-! ### Operand checks (R220, R225, R229, R234, R238, R248 to R252, R290) -/

/-- A failed check: its cause and its number in its rule's table, 0 where there is no table (R380). -/
structure Bad where
  code : BitVec 8
  num : Nat
  deriving DecidableEq, Repr

/-- An operand as a check sees it: a tile that is checked at the die store, a free handle, a tile. -/
inductive Opnd where
  | later
  | free
  | tile (t : Tile)

def Opnd.isFree : Opnd → Bool
  | .later => false
  | .free => true
  | .tile _ => false

/-- Free or discarded (R174, R225). -/
def Opnd.dead : Opnd → Bool
  | .later => false
  | .free => true
  | .tile t => t.st == .discarded

/-- A tile passes a test; what is not checked yet passes. -/
def Opnd.ok (o : Opnd) (p : Tile → Bool) : Bool :=
  match o with
  | .later => true
  | .free => true
  | .tile t => p t

def Opnd.ok2 (a b : Opnd) (p : Tile → Tile → Bool) : Bool :=
  match a, b with
  | .tile t, .tile u => p t u
  | _, _ => true

def firstBad : List (Bool × BitVec 8 × Nat) → Option Bad
  | [] => none
  | (b, c, n) :: t => if b then some ⟨c, n⟩ else firstBad t

def sameShape (t u : Tile) : Bool := t.rows == u.rows && t.cols == u.cols

/-- The checks of an instruction on its tiles (D, A, B), `same` when D and A name one handle. -/
def tileChecks (w : SlotBits) (sval : Word) (same : Bool) (d a b : Opnd) : List (Bool × BitVec 8 × Nat) :=
  let op := (w.extractLsb' 32 8).toNat
  let fn : BitVec 9 := w.extractLsb' 0 9
  let tgt : BitVec 4 := w.extractLsb' 5 4
  let notA (o : Opnd) : Bool := o.ok fun t => t.lvl != .a
  let isA (o : Opnd) : Bool := o.ok fun t => t.lvl == .a
  let dead2 := (d.dead || a.dead, cDeadTile, 0)
  match op with
  | 2 => [(d.isFree, cDeadTile, 0)]
  | 3 => [(d.dead, cDeadTile, 0)]
  | 4 => [(d.dead, cDeadTile, 0)]
  | 7 => [(d.dead, cDeadTile, 0), (!notA d, cTileOperand, 0)]
  | 8 => [dead2, (same || !notA d || !notA a || !(d.ok2 a fun t u => t.fmt == u.fmt && sameShape t u), cTileOperand, 0)]
  | 9 => [dead2, (same || !notA d || !notA a || !(d.ok2 a fun t u => t.fmt == u.fmt && t.rows == u.cols && t.cols == u.rows), cTileOperand, 0)]
  | 0xA => [dead2, (same || !notA d || !notA a || !(d.ok fun t => t.fmt == tgt) || !(a.ok fun u => u.fmt != tgt)
      || !(d.ok2 a fun t u => t.fmt != u.fmt && sameShape t u), cTileOperand, 0)]
  | 0xB => [dead2, (same || !(d.ok fun t => t.fmt != 4) || !(a.ok fun u => u.fmt != 4) || !notA d || !notA a || !(d.ok2 a fun t u => t.fmt == u.fmt && sameShape t u && t.plane != u.plane), cTileOperand, 0)]
  | 0xC => if fn.extractLsb' 7 2 == 0 then
      [dead2, (same || !notA d || !notA a || !(d.ok2 a fun t u => t.fmt == u.fmt && sameShape t u && t.plane == u.plane), cTileOperand, 0)]
    else [(d.dead, cDeadTile, 0), (!notA d || !(d.ok fun t => t.fmt == 5), cTileOperand, 0)]
  | 0xD => [(a.dead, cDeadTile, 0), (!(a.ok fun t => t.fmt == 2 && !t.plane && t.lvl != .a && decide (sval.toNat + fn.toNat + 1 ≤ t.rows * t.cols)), cTileOperand, 0)]
  | 0x10 =>
    let tr := w.getLsbD 13
    [(d.dead || a.dead || b.dead, cDeadTile, 1), (!isA d || !notA a || !notA b, cTileOperand, 2),
      (!(a.ok fun t => t.plane && t.rows == 32) || !(b.ok fun t => !t.plane), cTileOperand, 3),
      (!(a.ok fun t => t.cols % 32 == 0) || !(b.ok fun t => if tr then t.rows == 32 else t.cols == 32)
        || !(a.ok2 b fun t u => if tr then t.cols == u.cols else t.cols == u.rows), cTileOperand, 4),
      (!(a.ok fun t => t.fmt != 4 && t.fmt != 9) || !(b.ok fun t => t.fmt != 4 && t.fmt != 9), cTileOperand, 5)]
  | 0x11 => [(d.dead, cDeadTile, 0), (!isA d, cTileOperand, 0)]
  | 0x12 => [(d.dead, cDeadTile, 0), (!isA d, cTileOperand, 0)]
  | 0x13 => [dead2, (!notA d || !isA a || tgt == 9 || !(d.ok fun t => t.rows == 32 && t.cols == 32 && t.fmt == tgt), cTileOperand, 0)]
  | 0x14 => [dead2, (same || !isA d || !isA a, cTileOperand, 0)]
  | 0x15 => [dead2, (!notA d || !isA a || !(d.ok fun t => t.fmt == 4 && !t.plane && t.rows == 3 && t.cols == 32), cTileOperand, 0)]
  | 0x16 => [dead2, (!notA d || !isA a || !(d.ok fun t => t.fmt == 4 && !t.plane && t.rows == 3 && t.cols == 32), cTileOperand, 0)]
  | _ => []

/-- The checks of a transfer on its tile and record, in the order of R220 and R225. -/
def transferChecks (op : Nat) (l : Lay) (base : Word) (d : Opnd) : List (Bool × BitVec 8 × Nat) :=
  let used := List.range l.ndim
  let bytes := fmtBits l.fmt / 8
  [(d.dead, cDeadTile, 0),
   (!(d.ok fun t => (t.fmt == l.fmt || (op == 0x18 && t.fmt == 8 && l.fmt == 6)) && t.plane == l.dst
      && !(used.any fun k => l.ext k == 0 || l.win k == 0)
      && l.win 0 == t.cols && l.size 1 * l.size 2 * l.size 3 == t.rows), cTileOperand, 3),
   (fmtBits l.fmt < 8 && (l.org 0 * (fmtBits l.fmt : Int)) % 8 != 0, cTileOperand, 4),
   (8 ≤ fmtBits l.fmt && (base.toNat % bytes != 0 || used.any fun k => l.stride k % (bytes : Int) != 0), cAlignment, 5),
   (op == 5 && !(d.ok fun t => t.plane || t.lvl == .a || ((l.pitch == 0 || (t.rb ≤ l.pitch.toNat && l.pitch.toNat % 4 == 0))
      && placementFits l t.rows t.rb t.units)), cTileOperand, 6)]

/-- The operand record of a failed check (R380). -/
def badOpnd (b : Bad) (w : SlotBits) (base : Word) : List Word :=
  if b.code == cAlignment then [base] else [w.setWidth 64, BitVec.ofNat 64 b.num]

/-! ### Parking -/

/-- A context that waits in FWAIT on a flag that a parked entry would post is given the fault; TRET goes back to the wait (R352, R381). -/
def breakWait (s : State) (x : CtxId) (n : Nat) : State :=
  let c := ctxAt s x
  match c.wait, (entryAt c n).bind Entry.flag with
  | .fwait fl _ _ _ _ _ _ _, some f =>
    if c.te && fl == ⟨x.core, f⟩ then putCtx s x c.breakWait else s
  | _, _ => s

/-- An entry parks with a deferred fault (R225); it leaves the copy queue. -/
def parkEntry (s : State) (x : CtxId) (n : Nat) (t : Trap) : State :=
  let s := breakWait (modEntry s x n fun e => { e with st := .parked, owed := some t, queued := false }) x n
  modCore s x.core fun k => { k with copyq := k.copyq.filter fun q => !(decide (q = (x.slot, n))) }

/-! ### Banks (R200, R315, R316) -/

def offBanks (k : Core) : List (Fin 32) := (List.finRange 32).filter fun b => k.sbank[b.val].st == .off

def banksFull (k : Core) (l : List (Fin 32)) : Bool := l.all fun b => k.sbank[b.val].st == .full

/-- Owner-tagged tiles of a level of strands that are not resident, the longest pre-empted first (R388). -/
def evictable (s : State) (c : CoreId) (l : Lvl) : List Tile :=
  sortBy (fun a b => decide (a.since ≤ b.since))
    ((coreAt s c).tiles.filter fun t => t.slot.isNone && t.lvl == l && (t.st == .live || t.st == .parked))

/-- The accumulator tiles of a core's store in use. -/
def usedAcc (k : Core) : List (Fin 8) := k.tiles.filterMap Tile.aslot

/-- A free place of the accumulator store. -/
def freeAcc (k : Core) : Option (Fin 8) := (List.finRange 8).find? fun a => !(usedAcc k).contains a

/-- Commands of a core's copy queue (R277). -/
def copyDepth (k : Core) : Nat := k.copyq.length + k.spillq.length

/-- Lines of a spill command's bytes are written to its slot, from a position (R316; log entry 44). -/
def spillLines (s : State) (p : Spill) (from_ lines : Nat) : State :=
  (List.range lines).foldl (fun s k =>
    let off := from_ + 64 * k
    if p.len ≤ off then s
    else match devPlace s p.dom ((domAt s p.dom).spill + BitVec.ofNat 52 (524288 * p.k + off)) true with
      | some q => devPut s (keyDie s) p.dom (((domAt s p.dom).spill + BitVec.ofNat 52 (524288 * p.k + off)).setWidth 64) noStrand q 64 (p.val / 256 ^ off % 256 ^ 64)
      | none => s) s

/-- A spill command enters the copy queue; a full queue lets it act at once (R277, R300; log entry 44). -/
def queueSpill (s : State) (c : CoreId) (p : Spill) : State :=
  if copyDepth (coreAt s c) < 32 then modCore s c fun k => { k with spillq := k.spillq ++ [p] } else spillLines s p 0 ((p.len + 63) / 64)

/-- One step of the oldest spill command of a core (R298). -/
def spillStep (s : State) (c : CoreId) (p : Spill) : State :=
  let s := spillLines s p p.prog 16
  modCore s c fun k => { k with spillq := if p.prog + 1024 < p.len then { p with prog := p.prog + 1024 } :: k.spillq.tail else k.spillq.tail }

/-- Spills a tile to its owner domain's spill area; none when no slot is free (R316). -/
def spillTile (s : State) (c : CoreId) (t : Tile) : Option State :=
  match freeSlotOf s t.dom with
  | none => none
  | some k =>
    let s := queueSpill (takeSlot s t.dom k) c ⟨t.dom, k, packElems (8 * t.rowLen) ((List.range t.rows).map t.rowNat), t.rowLen * t.rows, 0⟩
    let s := modCore s c fun q => setBanks q t.banks .clearing
    some (modTile s c t.tid fun u => { u with st := .spilled k, banks := [], aslot := none })

/-- Gives a tile banks: those that are off, the lowest first, start their wake. -/
def giveBanks (s : State) (c : CoreId) (t : Tile) : State :=
  let l := (offBanks (coreAt s c)).take t.units
  let s := modCore s c fun q => setBanks q l .waking
  modTile s c t.tid fun u => { u with banks := l, st := match u.st with
    | .dying => .dying
    | _ => .live }

/-- An accumulator tile gets its place. -/
def giveAcc (s : State) (c : CoreId) (t : Tile) (k : Fin 8) : State :=
  modTile s c t.tid fun u => { u with aslot := some k, st := match u.st with
    | .dying => .dying
    | _ => .live }

/-- The storage that a tile needs is free now. -/
def hasRoom (s : State) (c : CoreId) (t : Tile) : Bool :=
  match t.lvl with
  | .s => decide (t.units ≤ (offBanks (coreAt s c)).length)
  | .a => (freeAcc (coreAt s c)).isSome
  | .d => true

/-- Gives a tile its storage. -/
def giveRoom (s : State) (c : CoreId) (t : Tile) : State :=
  match t.lvl with
  | .s => giveBanks s c t
  | .a => match freeAcc (coreAt s c) with
    | some k => giveAcc s c t k
    | none => s
  | .d => s

/-- Storage is free for a tile, or a tile can be evicted for it. -/
def roomFor (s : State) (c : CoreId) (t : Tile) : Bool := hasRoom s c t || !(evictable s c t.lvl).isEmpty

/-- Room for a tile: taken when it is free, else the next tile is evicted; without a free spill slot the entry parks with the tile-table-full
cause. -/
def takeBanks (s : State) (x : CtxId) (n : Nat) (t : Tile) (w : SlotBits) : State :=
  if hasRoom s x.core t then giveRoom s x.core t
  else match evictable s x.core t.lvl with
    | [] => s
    | u :: _ => match spillTile s x.core u with
      | some s => s
      | none => parkEntry s x n (deferred cTileTableFull 0 [w.setWidth 64, 0])

/-- What a named own tile needs before an access: nothing, a wake, or banks again. -/
inductive Need where
  | ready | wake | unspill | wait
  deriving DecidableEq, Repr

def needOf (k : Core) (t : Tile) : Need :=
  match t.st with
  | .parked => .wake
  | .spilled _ => .unspill
  | .alloc => .wait
  | .live => if t.lvl != .s || banksFull k t.banks then .ready else .wait
  | .dying => if t.lvl != .s || banksFull k t.banks then .ready
    else if (t.banks.any fun b => k.sbank[b.val].st == .retention) then .wake else .wait
  | .discarded => .ready

/-- Brings a parked tile's banks back (R200, R230). -/
def wakeTile (s : State) (c : CoreId) (t : Tile) : State :=
  let s := modCore s c fun q => setBanks q t.banks .waking
  modTile s c t.tid fun u => { u with st := match u.st with
    | .dying => .dying
    | _ => .live }

/-- A spilled tile gets banks again and gives its slot back (R315). -/
def unspill (s : State) (x : CtxId) (n : Nat) (t : Tile) (w : SlotBits) : State :=
  match t.st with
  | .spilled k =>
    let had := hasRoom s x.core t
    let s := takeBanks s x n t w
    if had then freeSlot s t.dom k else s
  | _ => s

/-- The own tiles that an entry names, with what they need. -/
def entryNeeds (s : State) (x : CtxId) (e : Entry) : List (Tile × Need) :=
  e.names.filterMap fun r => match r with
    | .own tid => (tileAt s x.core tid).map fun t => (t, needOf (coreAt s x.core) t)
    | .grp _ => none

/-! ### MMA (R239 to R246) -/

/-- K of an operand A. -/
def Tile.kBlocks (a : Tile) : Nat := a.cols / 32

/-- R243: occupancy, with a fold's extra cycles. -/
def occupancy (a : Tile) (folded : Bool) : Nat := fmtPlanes a.fmt * a.kBlocks + if folded then 2 * a.kBlocks else 0

/-- The debit of R245. -/
def mmaDebit (w : SlotBits) (a : Tile) (folded : Bool) : Nat := ((w.extractLsb' 10 3).toNat + 1) * occupancy a folded

/-- Draws a debit from EBUD, not below 0 (R245). -/
def drawEnergy (s : State) (x : CtxId) (n : Nat) : State :=
  modCtx s x fun c => { c with ebud := BitVec.ofNat 32 (c.ebud.toNat - n) }


/-- The exact value of an operand's element, a folded TSCALE applied first (R247). -/
def mmaVal (t : Tile) (fold : Bool) (phi : Int) (rm : Rm) (i j : Nat) : Val :=
  let b := t.elem i j
  let ty := fmtTy t.fmt
  ty.decode false (if fold then (tscaleElem ty rm phi b).bits else b)

/-- The flags that the folds of an entry would raise (R247). -/
def foldFlags (e : Entry) (a b : Tile) : Fl :=
  let rm := Rm.ofBits (e.fpc.setWidth 3)
  (if e.folda then (mapTile a (fmtBits a.fmt) (tscaleElem (fmtTy a.fmt) rm e.phia)).fl else 0)
    ||| if e.foldb then (mapTile b (fmtBits b.fmt) (tscaleElem (fmtTy b.fmt) rm e.phib)).fl else 0

/-- The operands of an entry as tiles. -/
def entryTile (s : State) (x : CtxId) (r : Option TRef) : Option Tile :=
  match r with
  | some r => refTile s x.core (ctxAt s x).grp r
  | none => none

/-- An operand of an MMA is block-scaled: by its tile's mark, a folded one by the mark of the tile that the TSCALE would have written (R241, R247,
R250). -/
def scaledBy (s : State) (x : CtxId) (t : Tile) (mark : Option TRef) : Bool :=
  match mark with
  | none => t.bs
  | some r => ((entryTile s x (some r)).map Tile.bs).getD false

/-- An MMA is charged its debit, less what the originals that it replaces have been charged; once (R245). -/
def chargeMma (s : State) (x : CtxId) (e : Entry) (a : Tile) : State × Entry :=
  let d := mmaDebit e.slot a (e.folda || e.foldb)
  if e.charged then (s, e) else (drawEnergy s x (d - e.paid), { e with paid := Nat.max d e.paid, charged := true })

/-- Scales that one block draws: for A, for B (R241). -/
def scaleNeed (s : State) (x : CtxId) (e : Entry) (a b : Tile) : Nat :=
  (if scaledBy s x a e.marka then 32 else 0) + if scaledBy s x b e.markb then 32 else 0

/-- The poisoned rows of an entry's source: all of them where the entry stands for a pair of transpositions (R284). -/
def srcPois (e : Entry) (u : Tile) : Nat := if e.spread && u.pois != 0 then 2 ^ u.rows - 1 else u.pois

/-- Every checksum is poisoned when `p` holds (R207, R246). -/
def Acc.poisonChecks (q : Acc) (p : Bool) : Acc := { q with ckPois := q.ckPois || p }

/-- The scales of A's rows among those that a block drew: the first 32 (R241). -/
def scalesA (ma : Bool) (sc : List Scale) : List Scale := if ma then sc.take 32 else []

/-- The scales of B's columns among those that a block drew: the next 32 (R241). -/
def scalesB (ma mb : Bool) (sc : List Scale) : List Scale := if mb then (if ma then sc.drop 32 else sc) else []

/-- The exponent of scale i of a list; 0 where the operand is not block-scaled (R88). -/
def scaleExp (l : List Scale) (i : Nat) : Int := ((l[i]?).map fun v => v.v.toInt).getD 0

/-- A[i, k] as the array uses it in a block that drew the scales `sc`; `ma`: A is block-scaled (R239, R241). -/
def mmaA (e : Entry) (a : Tile) (ma : Bool) (sc : List Scale) (i k : Nat) : Val :=
  (mmaVal a e.folda e.phia (Rm.ofBits (e.fpc.setWidth 3)) i k).scale (scaleExp (scalesA ma sc) i)

/-- B[k, j] as the array uses it, with TRB the element (j, k) of the tile; `mb`: B is block-scaled (R239, R241). -/
def mmaB (e : Entry) (b : Tile) (ma mb : Bool) (sc : List Scale) (k j : Nat) : Val :=
  let rm := Rm.ofBits (e.fpc.setWidth 3)
  (if e.slot.getLsbD 13 then mmaVal b e.foldb e.phib rm j k else mmaVal b e.foldb e.phib rm k j).scale (scaleExp (scalesB ma mb sc) j)

/-- One K block into the accumulator with its drawn scales; `ma` and `mb`: A and B are block-scaled. -/
def mmaBlock (e : Entry) (tc a b : Tile) (ma mb : Bool) (kb : Nat) (sc : List Scale) : Tile :=
  let sa := scalesA ma sc
  let sb := scalesB ma mb sc
  let bad (l : List Scale) (i : Nat) : Bool := match l[i]? with
    | some v => v.pois
    | none => false
  let all := b.pois != 0 || (List.range 32).any (bad sb)
  let row (i : Nat) : Bool := all || rowPoisoned (srcPois e a) i || bad sa i
  let tc := (List.range 32).foldl (fun (t : Tile) i => if row i then t.poisonRow i else t) tc
  { tc with acc := tc.acc.map fun q => (q.mmaBlock (e.slot.getLsbD 16) kb (mmaA e a ma sc) (mmaB e b ma mb sc)).poisonChecks ((List.range 32).any row) }

/-- Performs the blocks of a started MMA while the scale queue holds what they draw. -/
def mmaAdvance (x : CtxId) (n : Nat) : Nat → State → State
  | 0, s => s
  | fuel + 1, s =>
    match entryAt (ctxAt s x) n with
    | none => s
    | some e => match entryTile s x e.td, entryTile s x e.ta, entryTile s x e.tb with
      | some tc, some a, some b =>
        let need := scaleNeed s x e a b
        let q := (ctxAt s x).scq
        if e.prog < a.kBlocks && need ≤ q.length then
          let tc' := mmaBlock e tc a b (scaledBy s x a e.marka) (scaledBy s x b e.markb) e.prog (q.take need)
          let s := match e.td with
            | some r => modRef s x.core (ctxAt s x).grp r fun _ => tc'
            | none => s
          let s := modCtx s x fun c => { c with scq := c.scq.drop need }
          mmaAdvance x n fuel (modEntry s x n fun e => { e with prog := e.prog + 1, drawn := e.drawn ++ q.take need })
        else s
      | _, _, _ => s

/-- A started MMA that waits at the start of a block for scales. -/
def mmaWaits (s : State) (x : CtxId) (e : Entry) : Bool :=
  e.op == 0x10 && e.st == .started && match entryTile s x e.ta, entryTile s x e.tb with
    | some a, some b => decide (e.prog < a.kBlocks) && decide ((ctxAt s x).scq.length < scaleNeed s x e a b)
    | _, _ => false

/-- An MMA has all its blocks; it holds the array until it completes (R236). -/
def mmaDone (s : State) (x : CtxId) (e : Entry) : Bool :=
  e.op == 0x10 && e.st == .started && match entryTile s x e.ta with
    | some a => decide (a.kBlocks ≤ e.prog)
    | none => false

/-- A started MMA that has waited and can take the array again: the scales of its next block are there (R236). -/
def mmaAgain (s : State) (x : CtxId) (e : Entry) : Bool := e.op == 0x10 && e.st == .started && !mmaDone s x e && !mmaWaits s x e

/-- The imbalance fault of R242, where an MMA of the context stands at its condition. -/
def imbalance (s : State) (x : CtxId) : State :=
  let c := ctxAt s x
  if (c.flushed || c.fullHeld) && !(c.win.any fun e => e.op == 0x0D) then
    match c.win.find? (mmaWaits s x) with
    | none => s
    | some e =>
      let need := match entryTile s x e.ta, entryTile s x e.tb with
        | some a, some b => scaleNeed s x e a b
        | _, _ => 0
      parkEntry s x e.n (deferred cScaleQueue 0 [BitVec.ofNat 64 (need + 65536 * c.scq.length)])
  else s

/-- A trap is delivered: a flush point, at which an MMA may stand at the condition of R242 (R286, R376). -/
def deliverTrap (s : State) (x : CtxId) (t : Trap) (a : TrapAt) : State := imbalance (takeTrap s x t a) x

/-- The started entries of a core's contexts. -/
def startedOn (s : State) (c : CoreId) : List (CtxId × Entry) :=
  (residents s c).flatMap fun y => ((ctxAt s y).win.filter fun f => f.st == .started).map fun f => (y, f)

/-- Some MMA holds the array of a core (R236). -/
def arrayHeld (s : State) (c : CoreId) : Bool := (startedOn s c).any fun p => mmaDone s p.1 p.2

/-- MMAs that have waited for scales take the free array of the core, the lowest slot first (R236 orders starts only; DESIGN CHOICE, log entry 69); one that still waits may stand at its condition
now (R242). -/
def mmaResume (s : State) (x : CtxId) : State :=
  imbalance ((startedOn s x.core).foldl (fun s p =>
    if !arrayHeld s p.1.core && mmaAgain s p.1 p.2 then imbalance (mmaAdvance p.1 p.2.n 16 s) p.1 else s) s) x

/-! ### Starting (R224, R236, R244, R290, R297) -/

/-- Scales that a TSQLD appends. -/
def Entry.scaleCount (e : Entry) : Nat := e.fn.toNat + 1

/-- The unit can take an entry now. -/
def unitReady (s : State) (x : CtxId) (e : Entry) : Bool :=
  let c := ctxAt s x
  let before := (earlier c.win e.n).filter fun f => carrierOf f.op == carrierOf e.op
  let others := startedOn s x.core
  match carrierOf e.op with
  | .window => before.isEmpty
  | .copy => before.isEmpty && !e.bparked && decide (copyDepth (coreAt s x.core) < 32)
      && (e.op != 0x0D || decide (c.scq.length + e.scaleCount ≤ 512))
  | .array => before.isEmpty && !(others.any fun p => mmaDone s p.1 p.2 || mmaAgain s p.1 p.2)
  | .accu => (before.all fun f => f.st == .started) && !(others.any fun p => carrierOf p.2.op == .accu)

/-- The last replacement of a rewrite starts only after the others of its group have completed (R283). -/
def groupWait (c : Ctx) (e : Entry) : Bool := e.rule.isSome && (earlier c.win e.n).any fun f => f.rule.isSome && f.gid == e.gid

/-- An entry stands free of the entries before it and of its own state. -/
def entryFree (s : State) (x : CtxId) (e : Entry) : Bool :=
  let c := ctxAt s x
  c.occupied && c.saving.isNone && e.st == .pending && !e.queued && !groupWait c e && !((earlier c.win e.n).any fun f => blocks f e || orders f e)
    && !(isTransfer e.op && storesOut s x)

/-- An operand at the die store. -/
def grpOpnd (s : State) (x : CtxId) (r : Option TRef) : Opnd :=
  match r with
  | none => .later
  | some q => match refTile s x.core (ctxAt s x).grp q with
    | some t => .tile t
    | none => .free

/-- Units of a die store in use. -/
def unitsUsed (s : State) (d : Fin 4) : Nat :=
  ((dieAt s d).groups.map fun g => ((g.dt.toList.filterMap id).map Tile.units).sum).sum

/-- The description that a TALLOC gives (R229). -/
def allocTile (c : Ctx) (w : SlotBits) (tid : Nat) : Tile :=
  let fmt : BitVec 4 := w.extractLsb' 21 4
  let lv : BitVec 2 := w.extractLsb' 25 2
  let rows := (w.extractLsb' 12 9).toNat + 1
  let cols := (w.extractLsb' 3 9).toNat + 1
  let plane := w.getLsbD 2
  let acc := lv == 1
  { tid := tid, dom := c.dom, grp := c.grp, ix := c.strix, slot := none, handle := ⟨(w.extractLsb' 27 5).toNat, (w.extractLsb' 27 5).isLt⟩,
    st := .alloc, lvl := if lv == 0 then .s else if acc then .a else .d, fmt := fmt, rows := rows, cols := cols, plane := plane, bs := false,
    dense := true, pitch := 0, run := 0, rot := 0, banks := [], aslot := none, unit0 := 0,
    units := if acc then 0 else tileBanks fmt rows cols plane,
    data := if acc then [] else List.replicate rows 0, pois := 0, acc := if acc then some (Acc.clear 0) else none, since := 0 }

/-- Limits of R229, R204 and R205 on a TALLOC's fields. -/
def allocRefused (w : SlotBits) : Bool :=
  let t := allocTile Ctx.reset w 0
  let h := (w.extractLsb' 27 5).toNat
  (if h < 24 then t.lvl == .d else t.lvl != .d)
    || (t.lvl == .a && (t.fmt != 9 || t.rows != 32 || t.cols != 32 || t.plane))
    || (t.lvl != .a && t.fmt == 9) || (t.fmt == 4 && t.plane)
    || (t.lvl == .s && decide (32 < t.units)) || (t.lvl == .d && decide (128 < t.units))

/-- A D-level TALLOC at the die store (R203, R229). -/
def startAllocD (s : State) (x : CtxId) (e : Entry) (h : Fin 8) : State :=
  let c := ctxAt s x
  let t := allocTile c e.slot e.n
  match groupAt s c.grp with
  | none => s
  | some g =>
    if (g.dt[h.val]).isSome || allocRefused e.slot then parkEntry s x e.n (deferred cTileOperand 0 [e.slot.setWidth 64, 0])
    else if 1536 < unitsUsed s x.core.die + t.units then parkEntry s x e.n (deferred cTileTableFull 0 [e.slot.setWidth 64, 0])
    else
      let s := modGroup s c.grp fun g => { g with dt := g.dt.set h.val (some { t with st := .live, unit0 := unitsUsed s x.core.die }) }
      modEntry s x e.n fun e => { e with st := .started }

/-- The window's own instructions take effect (R229, R230). -/
def startWindow (s : State) (x : CtxId) (e : Entry) : State :=
  let go (s : State) : State := modEntry s x e.n fun e => { e with st := .started }
  match e.op, e.td with
  | 1, some (.grp h) => startAllocD s x e h
  | 1, some (.own tid) => match tileAt s x.core tid with
    | none => go s
    | some t => if hasRoom s x.core t then go (giveRoom s x.core t) else takeBanks s x e.n t e.slot
  | 2, some (.grp _) => match grpOpnd s x e.td with
    | .free => parkEntry s x e.n (deferred cDeadTile 0 [e.slot.setWidth 64, 0])
    | _ => go s
  | 3, some (.own tid) => match tileAt s x.core tid with
    | some t => if t.lvl == .s && t.st == .live then
        go (modTile (modCore s x.core fun k => setBanks k t.banks .retention) x.core tid fun t => { t with st := .parked }) else go s
    | none => go s
  | 4, some (.own tid) => match tileAt s x.core tid with
    | some t => if t.lvl == .s && t.st == .parked then go (wakeTile s x.core t) else go s
    | none => go s
  | _, _ => if (grpOpnd s x e.td).dead then parkEntry s x e.n (deferred cDeadTile 0 [e.slot.setWidth 64, 0]) else go s

/-- The checks that an entry makes at the die store (R225, R238). -/
def startBad (s : State) (x : CtxId) (e : Entry) : Option Bad :=
  let d := grpOpnd s x e.td
  let a := grpOpnd s x e.ta
  let b := grpOpnd s x e.tb
  if isTransfer e.op then firstBad (transferChecks e.op e.lay e.sval d)
  else firstBad (tileChecks e.slot e.sval (e.td == e.ta && e.ta.isSome) d a b)

/-- The pass of a context whose command arrives (R298). -/
def arrivalPass (s : State) (c : CoreId) : Nat :=
  match ((coreAt s c).copyq.map fun p => (ctxAt s ⟨c, p.1⟩).pass) with
  | [] => 0
  | a :: t => t.foldl Nat.min a

/-- ENTRY_START (R224, R236, R242, R244, R245, R247, R297): an entry starts on its unit, first waking or refilling a tile that it names. -/
def startEntry (s : State) (x : CtxId) (e : Entry) : State :=
  match carrierOf e.op with
  | .window => startWindow s x e
  | k =>
    match startBad s x e with
    | some b => parkEntry s x e.n (deferred b.code 0 (badOpnd b e.slot e.sval))
    | none =>
      match (entryNeeds s x e).find? fun p => p.2 != .ready with
      | some (t, .wake) => wakeTile s x.core t
      | some (t, .unspill) => unspill s x e.n t e.slot
      | some (_, _) => s
      | none =>
        match k with
        | .copy =>
          let pass := arrivalPass s x.core
          let s := modCtx (modEntry s x e.n fun e => { e with queued := true }) x fun c => { c with pass := pass }
          modCore s x.core fun q => { q with copyq := q.copyq ++ [(x.slot, e.n)] }
        | .accu => modEntry s x e.n fun e => { e with st := .started }
        | _ => match entryTile s x e.ta, entryTile s x e.tb with
          | some a, some b =>
            let fl := foldFlags e a b
            if fl &&& e.fpc.extractLsb' 4 5 != 0 then parkEntry s x e.n (deferred cFpException 0 [fl.setWidth 64])
            else
              let q := chargeMma s x e a
              let s := modEntry q.1 x e.n fun e => { e with st := .started, drawn := [], paid := q.2.paid, charged := true, fl := fl }
              imbalance (mmaAdvance x e.n 16 s) x
          | _, _ => s

/-- An entry could start, or do what its start needs, were its context alone. -/
def couldStart (s : State) (x : CtxId) (e : Entry) : Bool :=
  entryFree s x e && unitReady s x e && match carrierOf e.op with
    | .window => match e.op, e.td with
      | 1, some (.own tid) => match tileAt s x.core tid with
        | some t => roomFor s x.core t
        | none => true
      | _, _ => true
    | _ => (startBad s x e).isSome || !((entryNeeds s x e).any fun p => p.2 == .wait)
      && (entryNeeds s x e).all fun p => p.2 != .unspill || roomFor s x.core p.1

/-- An entry that its unit could take at once. -/
def takesUnit (s : State) (x : CtxId) (e : Entry) : Bool :=
  couldStart s x e && (startBad s x e).isNone && (entryNeeds s x e).all fun p => p.2 == .ready

/-- When an entry reached the head of its context's window; one that has not stands behind every one that has (R236; log entry 69). -/
def headKey (s : State) (x : CtxId) (e : Entry) : Nat × Nat :=
  let c := ctxAt s x
  if (c.win.head?.map Entry.n) == some e.n then (0, c.headAt) else (1, 0)

/-- Entry e of x is taken before entry f of y: the one that reached the head of its window earlier, on a tie the lower slot's (R236). -/
def takenBefore (s : State) (x : CtxId) (e : Entry) (y : CtxId) (f : Entry) : Bool :=
  let a := headKey s x e
  let b := headKey s y f
  decide (a.1 < b.1) || (a.1 == b.1 && (decide (a.2 < b.2) || (a.2 == b.2 && decide (x.slot < y.slot))))

/-- No other context of the core has an entry ready for the matrix array or the accumulator unit that comes first (R236). -/
def unitTurn (s : State) (x : CtxId) (e : Entry) : Bool :=
  let k := carrierOf e.op
  if (k == .array || k == .accu) && takesUnit s x e then
    (residents s x.core).all fun y => decide (y = x) || (ctxAt s y).win.all fun f =>
      carrierOf f.op != k || !takesUnit s y f || !takenBefore s y f x e
  else true

/-- An entry can start, or do what its start needs. -/
def canStart (s : State) (x : CtxId) (e : Entry) : Bool := couldStart s x e && unitTurn s x e

/-- A started MMA takes the array again (R236). -/
def canResume (s : State) (x : CtxId) (e : Entry) : Bool := mmaAgain s x e && !arrayHeld s x.core

/-! ### Completion (R226, R230, R234, R243, R248 to R256, R290) -/

/-- Performs the FPOSTRs whose earlier accesses have been performed: entries have left the window, stores have reached their homes (R264). -/
def duePosts (s : State) (x : CtxId) : State :=
  let c := ctxAt s x
  let sent (p : Post) : Bool := storeStalls s x none || s.pend.any fun q => decide (q.tag < p.tag) && match q.who with
    | .store y _ _ => y == x
    | _ => false
  let due (p : Post) : Bool := !(p.after.any fun n => c.win.any fun e => e.n == n) && !sent p
  let s := putCtx s x { c with posts := c.posts.filter fun p => !due p }
  (c.posts.filter due).foldl (fun s p => postFlag s p.fl p.v) s

/-- Every FPOSTR that is due. -/
def dueAll (s : State) : State := (allCtx s).foldl (fun s x => if (ctxAt s x).posts.isEmpty then s else duePosts s x) s

/-- The deadline of an entry has passed and it has not completed (R227, R357). -/
def deadlinePassed (s : State) (x : CtxId) (e : Entry) : Bool :=
  !e.late && match e.dl with
    | some t => t.ule (tbOf s x.core.die)
    | none => false

/-- A miss is owed, as its entry stands (R227, R357). -/
def Ctx.owesMiss (c : Ctx) (e : Entry) : Ctx := { c with missed := c.missed ++ [{ e with late := true }] }

/-- Every deadline of the context that has passed is owed (R227, R381). -/
def noteMisses (s : State) (x : CtxId) : State :=
  ((ctxAt s x).win.filter (deadlinePassed s x)).foldl (fun s e =>
    modCtx (modEntry s x e.n fun e => { e with late := true }) x fun c => c.owesMiss e) s

/-- The window has changed: a new first entry stands at the head from now on (R236). -/
def Ctx.setWin (c : Ctx) (l : List Entry) (cyc : Nat) : Ctx :=
  { c with win := l, headAt := if (c.win.head?.map Entry.n) == l.head?.map Entry.n then c.headAt else cyc }

/-- The entry that a tile's free passes to when the entry that carries it completes: another one of its rewrite (R287), else the youngest earlier one
that still names the tile (R230, R283). -/
def freeHeir (c : Ctx) (e : Entry) (r : TRef) : Option Entry :=
  match c.win.find? fun f => e.gid != 0 && f.gid == e.gid && !(f.n == e.n) with
  | some f => some f
  | none => ((earlier c.win e.n).filter fun f => f.names.contains r).getLast?

/-- A tile that a completed entry frees is free, or its free waits for the entries that still need the tile. -/
def dropRef (e : Entry) (before : Ctx) (x : CtxId) (s : State) (r : TRef) : State :=
  match freeHeir before e r with
  | some f => modEntry s x f.n fun f => { f with frees := f.frees ++ [r] }
  | none => freeRef s x.core before.grp r

/-- A completed entry leaves the window: AF, frees, a deadline that it has missed, the completion post. -/
def finishEntry (s : State) (x : CtxId) (e : Entry) (fl : Fl) : State :=
  let c := ctxAt s x
  let c := if deadlinePassed s x e then c.owesMiss e else c
  let s := putCtx s x ((c.setWin (c.win.filter fun f => !(f.n == e.n)) (coreAt s x.core).cyc).accrue fl)
  let s := e.frees.foldl (dropRef e c x) s
  let s := match e.flag with
    | some k => postFlag s ⟨x.core, k⟩ 1
    | none => s
  duePosts s x

/-- An entry's result in its destination, or its park with an enabled flag (R80, R225). -/
def finishWith (s : State) (x : CtxId) (e : Entry) (fl : Fl) (f : Tile → Tile) : State :=
  if fl &&& e.fpc.extractLsb' 4 5 != 0 then parkEntry s x e.n (deferred cFpException 0 [fl.setWidth 64])
  else match e.td with
    | some r => finishEntry (modRef s x.core (ctxAt s x).grp r f) x e fl
    | none => finishEntry s x e fl

/-- ACHK and AFIX (R252 to R256). A tile whose checksums alone are poisoned counts as poisoned, as R253 words it (DESIGN CHOICE, log entry 60). -/
def finishCheck (s : State) (x : CtxId) (e : Entry) (u : Tile) (afix : Bool) : State :=
  match u.acc with
  | none => s
  | some a =>
    let k := a.check (u.pois != 0 || a.ckPois)
    let f := a.fix k afix
    let s := if k.failed then countErr s x.core.die 11 else s
    let s := if 1 ≤ f.action && f.action ≤ 4 then countErr s x.core.die 12 else if f.action == 5 then countErr s x.core.die 13 else s
    let s := match e.ta with
      | some r => modRef s x.core (ctxAt s x).grp r fun t => { t with acc := some f.acc }
      | none => s
    finishWith s x e 0 fun t => { t with data := reportRows k f, pois := 0 }

/-- What a copy-engine or accumulator entry does to its destination when it completes. -/
def completeEntry (s : State) (x : CtxId) (e : Entry) : State :=
  let rm := Rm.ofBits (e.fpc.setWidth 3)
  match e.op, entryTile s x e.ta with
  | 7, _ => finishWith s x e 0 fun t =>
      { t with data := List.replicate t.rows (packElems (fmtBits t.fmt) (List.replicate t.cols e.sval.toNat)), pois := 0 }
  | 8, some u => finishWith s x e 0 fun t => { t with data := u.data, pois := srcPois e u }
  | 9, some u => finishWith s x e 0 fun t => { t with data := transRows u, pois := if u.pois != 0 then 2 ^ t.rows - 1 else 0 }
  | 0xA, some u =>
    let dst : BitVec 4 := e.slot.extractLsb' 5 4
    let r := mapTile u (fmtBits dst) (tcvtElem (fmtTy u.fmt) (fmtTy dst) rm)
    finishWith s x e r.fl fun t => { t with data := r.data, pois := srcPois e u }
  | 0xB, some u => finishWith s x e 0 fun t => { t with data := u.data, pois := srcPois e u }
  | 0xC, some u =>
    let r := mapTile u (fmtBits u.fmt) (tscaleElem (fmtTy u.fmt) rm (scaleOf e.sval (e.slot.extractLsb' 0 7)))
    finishWith s x e r.fl fun t => { t with data := r.data, pois := srcPois e u }
  | 0xC, none => finishWith s x e 0 fun t => { t with bs := e.fn.extractLsb' 7 2 == 1 }
  | 0xD, some u =>
    let l := (List.range e.scaleCount).map fun i =>
      let p := e.sval.toNat + i
      (⟨BitVec.ofNat 8 (u.elem (p / u.cols) (p % u.cols)), rowPoisoned u.pois (p / u.cols)⟩ : Scale)
    mmaResume (finishEntry (modCtx s x fun c => { c with scq := c.scq ++ l }) x e 0) x
  | 0x11, _ => finishWith s x e 0 fun t => { t with acc := some (Acc.clear (e.slot.extractLsb' 0 10).toInt), pois := 0 }
  | 0x12, _ => finishWith s x e 0 fun t => { t with acc := t.acc.map fun a => a.setQ (e.slot.extractLsb' 0 10).toInt }
  | 0x13, some u => match u.acc with
    | some a =>
      let r := acvtRows (e.slot.extractLsb' 5 4) rm a
      finishWith s x e r.fl fun t => { t with data := r.data, pois := u.pois }
    | none => s
  | 0x14, some u => match u.acc with
    | some b => finishWith s x e 0 fun t => { t with acc := t.acc.map fun a => a.addTile b, pois := t.pois ||| u.pois }
    | none => s
  | 0x15, some u => finishCheck s x e u false
  | 0x16, some u => finishCheck s x e u true
  | _, _ => finishEntry s x e 0

/-- Destination bytes of a copy command (R298). -/
def destBytes (s : State) (x : CtxId) (e : Entry) : Nat :=
  if e.op == 0x0D then e.scaleCount
  else match entryTile s x e.td with
    | none => 1
    | some t =>
      if e.op == 0xC && e.ta.isNone then 1
      else if e.op == 6 || e.op == 0x18 then tileBytes (Lay.fmt e.lay) t.rows t.cols false
      else if e.op == 5 then tileBytes t.fmt t.rows t.cols false
      else t.bytes

/-- A started entry has done its work and can complete. -/
def canComplete (s : State) (x : CtxId) (e : Entry) : Bool :=
  e.st == .started && match carrierOf e.op with
    | .window => (e.op != 1 && e.op != 4) || match entryTile s x e.td with
      | some t => t.lvl != .s || banksFull (coreAt s x.core) t.banks
      | none => true
    | .copy => !e.queued && !e.bparked && decide (destBytes s x e ≤ e.prog) && !storePending s x (some e.n)
    | .array => false
    | .accu => true

/-- MMA_COMPLETE (R236, R239, R243): the array is free for an MMA that has waited. -/
def finishMma (s : State) (x : CtxId) (e : Entry) : State :=
  let s := if e.slot.getLsbD 16 then s else match e.td with
    | some r => modRef s x.core (ctxAt s x).grp r fun t => { t with acc := t.acc.map fun a => { a with cv := false } }
    | none => s
  mmaResume (finishEntry s x e e.fl) x

/-! ### The copy engine (R298, R299, R364) -/

/-- The command with the least pass, the lowest slot on a tie. -/
def nextCommand (s : State) (c : CoreId) : Option (CtxId × Entry) :=
  let l := (coreAt s c).copyq.filterMap fun q => (entryAt (ctxAt s ⟨c, q.1⟩) q.2).map fun e => ((⟨c, q.1⟩ : CtxId), e)
  l.foldl (fun (b : Option (CtxId × Entry)) p =>
    match b with
    | none => some p
    | some v =>
      let a := (ctxAt s p.1).pass
      let m := (ctxAt s v.1).pass
      if a < m || (a == m && p.1.slot < v.1.slot) then some p else b) none

def bbudOf (s : State) (d : Fin 4) (dom : BitVec 12) : BitVec 32 :=
  let p := partitionOf s dom
  tabGet (dieAt s d).bbud p (limitsOf s dom).bcap

/-- The command leaves the queue. -/
def dequeue (s : State) (x : CtxId) (n : Nat) : State :=
  modEntry (modCore s x.core fun k => { k with copyq := k.copyq.filter fun q => !(decide (q = (x.slot, n))) }) x n fun e => { e with queued := false }

/-- BUDGET_PARK (R299, R366). -/
def budgetPark (s : State) (x : CtxId) (e : Entry) : State :=
  let s := modEntry (dequeue s x e.n) x e.n fun e => { e with bparked := true }
  throttleEvent (modCtx s x fun c => { c with frozen := true }) x.core (ctxAt s x).dom .bandwidth

/-- A transfer's context. -/
def xferCtxOf (s : State) (x : CtxId) (e : Entry) : XferCtx :=
  let c := ctxAt s x
  ⟨x, e.n, c.dom, c.grp, e.lay, e.sval, e.op == 5, e.op == 0x18, Lay.fmt e.lay, e.pieces⟩

/-- The destination bytes of a command's next step (R298). -/
def stepBytes (e : Entry) (total : Nat) : Nat := Nat.min 1024 (total - e.prog)

/-- A step of the copy engine is charged: to its context's pass, and its bytes to its partition's budget (R298, R364). -/
def chargeStep (s : State) (x : CtxId) (bytes : Nat) : State :=
  let c := ctxAt s x
  let w := (domAt s c.dom).bw.toNat
  let s := modCtx s x fun c => { c with pass := (c.pass + 65536 / w) % 2 ^ 32 }
  if (limitsOf s c.dom).bcap == 0 then s else modDie s x.core.die fun d =>
    { d with bbud := tabPut d.bbud (partitionOf s c.dom) (BitVec.ofNat 32 ((bbudOf s x.core.die c.dom).toNat - bytes)) }

/-- The bookkeeping of one step: progress, pass, budget. -/
def stepDone (s : State) (x : CtxId) (e : Entry) (total : Nat) : State :=
  let bytes := stepBytes e total
  let s := chargeStep s x bytes
  let s := modEntry s x e.n fun e => { e with st := .started, prog := e.prog + bytes, pieces := [] }
  if total ≤ e.prog + bytes then dequeue s x e.n else s

/-- Where a TLOAD has placed its rows (R223). -/
def placeTile (l : Lay) (t : Tile) : Tile :=
  if t.plane || t.lvl == .a then t else { t with dense := false, pitch := l.pitch, run := l.run, rot := l.rot }

/-- The reads outside that a step needs leave, each once (R258, R266, R271). -/
def askPieces (s : State) (x : CtxId) (e : Entry) (l : List Place) : State :=
  ((dedup l).filter fun p => !e.pieces.any fun q => q.at_ == p).foldl (fun s p =>
    let tag := s.nextTag
    modEntry (sendAsk s x.core.die p 64 .read (.piece x e.n)) x e.n fun e => { e with st := .started, pieces := e.pieces ++ [⟨p, 64, tag, none, false⟩] }) s

/-- The copy engine has a command. -/
def copyDue (s : State) (c : CoreId) : Bool := !(coreAt s c).spillq.isEmpty || (nextCommand s c).isSome

/-- COPY_STEP (R228, R231 to R233, R298 to R300): spill commands go before the others (log entry 44). -/
def copyEngineStep (s : State) (c : CoreId) : State :=
  match (coreAt s c).spillq with
  | p :: _ => spillStep s c p
  | [] => match nextCommand s c with
  | none => s
  | some (x, e) =>
    let dom := (ctxAt s x).dom
    if (limitsOf s dom).bcap != 0 && bbudOf s c.die dom == 0 then budgetPark s x e
    else
      let total := destBytes s x e
      if isTransfer e.op then
        match e.td, entryTile s x e.td with
        | some r, some t =>
          let load := e.op == 5
          let t0 := if load && e.prog == 0 then placeTile e.lay t else t
          let q := xferStep (xferCtxOf s x e) s t0 e.xpois e.prog
          if q.wait then s
          else if !q.need.isEmpty then askPieces s x e q.need
          else
            let s := if load then modRef q.s c (ctxAt s x).grp r fun _ => q.tile else q.s
            let s := modEntry s x e.n fun e => { e with xpois := q.xpois }
            match q.bad with
            | some b => parkEntry (chargeStep s x (stepBytes e total)) x e.n b
            | none => stepDone s x e total
        | _, _ => parkEntry s x e.n (deferred cDeadTile 0 [e.slot.setWidth 64, 0])
      else stepDone s x e total

end Sys2Proof.Machine
end

