-- ==== Sys2Proof/Machine/Tumbler.lean ====
section
/-! DEFINITION. The tumbler stage: rewrite rules, matching, replacement, holding, and the entry of a T-slot instruction into the window
(spec/12 R281 to R285; spec/13 R338, R339; spec/10 R245, R247). -/

namespace Sys2Proof.Machine

/-! ### Rules (R338, R339) -/

abbrev Rule := BitVec 256

def Rule.valid (r : Rule) : Bool := r.getLsbD 255
def Rule.classR (r : Rule) : Bool := r.getLsbD 254
def Rule.inh (r : Rule) : Bool := r.getLsbD 253
def Rule.dom (r : Rule) : BitVec 12 := r.extractLsb' 240 12
def Rule.np (r : Rule) : Nat := (r.extractLsb' 238 2).toNat + 1
def Rule.nt (r : Rule) : Nat := (r.extractLsb' 236 2).toNat
def Rule.pat (r : Rule) (k : Nat) : BitVec 48 := r.extractLsb' (184 - 48 * k) 48
def Rule.tpl (r : Rule) (k : Nat) : BitVec 44 := r.extractLsb' (44 * (1 - k)) 44

/-- The option word of a slot value (R339). -/
def optionWord (w : SlotBits) : BitVec 9 :=
  let op := (w.extractLsb' 32 8).toNat
  if op = 0x10 then w.extractLsb' 16 1 ++ w.extractLsb' 13 1 ++ w.extractLsb' 10 3 ++ (0 : BitVec 4)
  else w.extractLsb' 0 9

/-- Writes the option word of a slot value. -/
def putOption (w : SlotBits) (v : BitVec 9) : SlotBits :=
  let op := (w.extractLsb' 32 8).toNat
  if op = 0x10 then
    w.extractLsb' 17 23 ++ v.extractLsb' 8 1 ++ w.extractLsb' 14 2 ++ v.extractLsb' 7 1 ++ v.extractLsb' 4 3 ++ w.extractLsb' 0 10
  else w.extractLsb' 9 31 ++ v

def isTq (op : Nat) : Bool := op == 0x11 || op == 0x12

/-- The last-use marks LA and LB (or LX) of a slot value, LA high. -/
def marksOf (w : SlotBits) : BitVec 2 :=
  let op := (w.extractLsb' 32 8).toNat
  if op = 0x10 then w.extractLsb' 14 2 else if isTq op then 0 else w.extractLsb' 15 2

/-- Handle operand k of a slot value: D, A, B. -/
def handleAt (w : SlotBits) (k : Nat) : BitVec 5 := w.extractLsb' (27 - 5 * k) 5

/-- The handle operands that an instruction has: D, A, B. -/
def usesHandle (w : SlotBits) (k : Nat) : Bool :=
  let op := (w.extractLsb' 32 8).toNat
  if k = 0 then op != 0x0D
  else if k = 1 then !(isTransfer op || op ≤ 4 || op == 7 || isTq op || (op == 0x0C && w.extractLsb' 7 2 != 0))
  else op == 0x10

def namedHandles (w : SlotBits) : List (BitVec 5) := ([0, 1, 2].filter (usesHandle w)).map (handleAt w)

/-- Instructions that a pattern entry can be (R282). -/
def matchable (op : Nat) : Bool := (7 ≤ op && op ≤ 0xC) || op == 0x10 || op == 0x11 || op == 0x12 || op == 0x13 || op == 0x14

/-- A rule is enabled for a context and the state that an entry captured (R281). -/
def ruleEnabled (s : State) (r : Rule) (dom : BitVec 12) (rwp : Bool) : Bool :=
  r.valid && (r.dom == dom || (r.inh && (ancestors s dom).contains r.dom)) && (!r.classR || rwp)

/-! ### Matching -/

/-- A binding of variables %h0 to %h7. -/
abbrev Binding := List (Nat × BitVec 5)

/-- Binds a variable: one number names one handle, different numbers different handles (R339). -/
def bindVar (b : Binding) (v : Nat) (h : BitVec 5) : Option Binding :=
  match b.find? fun p => p.1 == v with
  | some p => if p.2 == h then some b else none
  | none => if b.any fun p => p.2 == h then none else some ((v, h) :: b)

/-- One entry against one pattern. -/
def matchEntry (s : State) (x : CtxId) (p : BitVec 48) (e : Entry) (b : Binding) : Option Binding :=
  let w := e.slot
  let om : BitVec 9 := p.extractLsb' 1 9
  let ov : BitVec 9 := p.extractLsb' 10 9
  let lc : BitVec 2 := p.extractLsb' 19 2
  let lv : BitVec 2 := p.extractLsb' 21 2
  let tq := isTq e.op
  if (p.extractLsb' 40 8).toNat != e.op || !matchable e.op || e.inh then none
  else if tq && om != 0 && w.getLsbD 9 != w.getLsbD 8 then none
  else if (optionWord w ^^^ ov) &&& om != 0 || (marksOf w ^^^ lv) &&& lc != 0 then none
  else if p.getLsbD 27 && !(match entryTile s x e.ta with
    | some t => t.fmt == p.extractLsb' 23 4
    | none => false) then none
  else [0, 1, 2].foldl (fun (o : Option Binding) k =>
    let f : BitVec 4 := p.extractLsb' (36 - 4 * k) 4
    match o with
    | none => none
    | some b => if f.getLsbD 3 then (if usesHandle w k then bindVar b (f.setWidth 3).toNat (handleAt w k) else none) else some b) (some b)

/-- An earlier entry that a group can hold (R281). -/
def groupable (e : Entry) : Bool := (e.st == .pending || e.st == .held) && !e.queued && !e.shut && !e.inh && e.flag.isNone

def highHandle (h : BitVec 5) : Bool := decide (24 ≤ h.toNat)

/-- Entry f reads handle h with its last-use mark. -/
def consumes (f : Entry) (h : BitVec 5) : Bool :=
  let m := marksOf f.slot
  (usesHandle f.slot 1 && handleAt f.slot 1 == h && m.getLsbD 1) || (usesHandle f.slot 2 && handleAt f.slot 2 == h && m.getLsbD 0)

/-- The constraints of R282 and R283 on a group in program order. -/
def groupOk (r : Rule) (g : List Entry) : Bool :=
  let init := g.dropLast
  (init.zipIdx).all (fun (e, k) => !(highHandle e.hD) && ((g.drop (k + 1)).any fun f => consumes f e.hD))
    && (r.nt != 0 || (g.all fun e => e.flag.isNone && !(highHandle e.hD)))

/-- Every other entry between the first and the last names none of the group's handles (R281). -/
def clearBetween (win : List Entry) (g : List Entry) : Bool :=
  let hs := g.flatMap fun e => namedHandles e.slot
  let first := (g.head?.map Entry.n).getD 0
  ((win.dropWhile fun e => !(e.n == first)).filter fun e => !(g.any fun f => f.n == e.n)).all fun e =>
    (namedHandles e.slot).all fun h => !hs.contains h

/-- TQ templates apply only where R339 lets them. -/
def tqOk (r : Rule) (g : List Entry) : Bool :=
  (List.range r.nt).all fun k =>
    let t := r.tpl k
    let om : BitVec 9 := t.extractLsb' 4 9
    if isTq (t.extractLsb' 36 8).toNat && om != 0 && om != 0x1FF then
      match g[(t.extractLsb' 22 2).toNat]? with
      | some e => e.slot.getLsbD 9 == e.slot.getLsbD 8
      | none => false
    else true

/-- A fold takes a TSCALE of the element form without a flag (R247). -/
def foldOk (r : Rule) (g : List Entry) : Bool :=
  (List.range r.nt).all fun k =>
    let t := r.tpl k
    t.extractLsb' 2 2 == 0 || match g[(t.extractLsb' 0 2).toNat]? with
      | some e => e.op == 0xC && e.slot.extractLsb' 7 2 == 0 && e.flag.isNone
      | none => false

/-- An MMA takes over a transposition's source only where it can read it: in row layout, as the pair's outcome is the rewrite's (R238, R247, R284;
log entry 76). -/
def transOk (s : State) (x : CtxId) (r : Rule) (g : List Entry) : Bool :=
  ((List.range r.nt).all fun k => (r.tpl k).extractLsb' 36 8 != 0x10) || g.all fun f => f.op != 9 || match entryTile s x f.ta with
    | some t => !t.plane
    | none => false

/-- A matched group with its binding. -/
structure Match where
  rule : Fin 64
  bits : Rule
  group : List Entry
  env : Binding

/-- A rule with entry e as its last pattern: the group whose first entry is youngest (R281). -/
def matchRule (s : State) (x : CtxId) (win : List Entry) (e : Entry) (i : Fin 64) (r : Rule) : Option Match :=
  let young := (win.filter groupable).reverse
  let try_ (g : List Entry) : Option Match :=
    let b := (g.zipIdx).foldl (fun (o : Option Binding) (f, k) =>
      match o with
      | none => none
      | some b => matchEntry s x (r.pat k) f b) (some [])
    match b with
    | some b => if groupOk r g && clearBetween win g && tqOk r g && foldOk r g && transOk s x r g then some ⟨i, r, g, b⟩ else none
    | none => none
  match r.np with
  | 1 => try_ [e]
  | 2 => young.findSome? fun f => try_ [f, e]
  | _ => young.findSome? fun f => ((young.takeWhile fun g => !(g.n == f.n))).findSome? fun g => try_ [f, g, e]

/-- The lowest enabled rule that has a candidate group (R281). -/
def findMatch (s : State) (x : CtxId) (win : List Entry) (e : Entry) : Option Match :=
  let c := ctxAt s x
  let rules := sortBy (fun a b => decide (a.1.val ≤ b.1.val)) (coreAt s x.core).rules
  rules.findSome? fun p => if ruleEnabled s p.2 c.dom e.rwp then matchRule s x win e p.1 p.2 else none

/-- An entry that could be a non-last pattern entry of an enabled rule is held (R285). -/
def holdable (s : State) (x : CtxId) (e : Entry) : Bool :=
  !e.inh && !e.shut && e.flag.isNone && (coreAt s x.core).rules.any fun p =>
    ruleEnabled s p.2 (ctxAt s x).dom e.rwp && (List.range (Rule.np p.2 - 1)).any fun k => (matchEntry s x (Rule.pat p.2 k) e []).isSome

/-! ### Replacement (R283, R245, R247) -/

/-- The originals that an entry stands for. -/
def originalsOf (e : Entry) : List Orig :=
  if e.rule.isSome then e.orig else [⟨e.pc, e.slot, e.sval, e.td, e.ta, e.tb, e.frees⟩]

/-- The tile that the group knows by a handle. -/
def refOfHandle (g : List Entry) (h : BitVec 5) : Option TRef :=
  g.findSome? fun e =>
    if usesHandle e.slot 0 && e.hD == h && e.td.isSome then e.td
    else if usesHandle e.slot 1 && e.hA == h && e.ta.isSome then e.ta
    else if usesHandle e.slot 2 && e.hB == h && e.tb.isSome then e.tb
    else none

/-- Some matched entry marks a handle as last use. -/
def groupMarks (g : List Entry) (h : BitVec 5) : Bool := g.any fun e => consumes e h

/-- Writes FE and the flag of a slot value by its format. -/
def putFlagBits (w : SlotBits) (f : Option (Fin 32)) : SlotBits :=
  let op := (w.extractLsb' 32 8).toNat
  let fe : BitVec 1 := BitVec.ofBool f.isSome
  let k : BitVec 5 := BitVec.ofNat 5 ((f.map Fin.val).getD 0)
  if isTq op then w
  else if op = 0x10 then w.extractLsb' 10 30 ++ fe ++ k ++ w.extractLsb' 0 4
  else w.extractLsb' 15 25 ++ fe ++ k ++ w.extractLsb' 0 9

/-- Writes the last-use marks of a slot value. -/
def putMarks (w : SlotBits) (m : BitVec 2) : SlotBits :=
  let op := (w.extractLsb' 32 8).toNat
  if isTq op then w
  else if op = 0x10 then w.extractLsb' 16 24 ++ m ++ w.extractLsb' 0 14
  else w.extractLsb' 17 23 ++ m ++ w.extractLsb' 0 15

/-- The slot value of a template: SRC's fields, the template's opcode, operands and options. -/
def templateSlot (t : BitVec 44) (src : SlotBits) (b : Binding) (g : List Entry) (last : Bool) (flag : Option (Fin 32)) : SlotBits :=
  let op : BitVec 8 := t.extractLsb' 36 8
  let opnd (k : Nat) : BitVec 5 :=
    let f : BitVec 4 := t.extractLsb' (32 - 4 * k) 4
    if f.getLsbD 3 then ((b.find? fun p => p.1 == (f.setWidth 3).toNat).map Prod.snd).getD 0 else handleAt src k
  let bound (k : Nat) : Bool := t.getLsbD (35 - 4 * k)
  let sameFmt := (src.extractLsb' 32 8 == op) || (!isTq op.toNat && op != 0x10 && !isTq (src.extractLsb' 32 8).toNat && src.extractLsb' 32 8 != 0x10)
  let low : BitVec 17 := if sameFmt then src.extractLsb' 0 17 else 0
  let w : SlotBits := op ++ opnd 0 ++ opnd 1 ++ opnd 2 ++ low
  let om : BitVec 9 := t.extractLsb' 4 9
  let ov : BitVec 9 := t.extractLsb' 13 9
  let o := (optionWord w &&& ~~~om) ||| (ov &&& om)
  let w := putOption w o
  let w : SlotBits := if isTq op.toNat && om != 0 then (if o.getLsbD 8 then w ||| 0x200 else w &&& ~~~0x200) else w
  let m0 := marksOf w
  let mark (k : Nat) (old : Bool) : Bool := if usesHandle w k then (if bound k then groupMarks g (opnd k) else old) else false
  putFlagBits (putMarks w (BitVec.ofBool (mark 1 (m0.getLsbD 1)) ++ BitVec.ofBool (mark 2 (m0.getLsbD 0)))) (if last then flag else none)

/-- The tile whose block-scale mark counts for operand k of a replacement MMA: the one that its source MMA named there, when an entry of the group
writes that handle (R241, R247, R284). -/
def markTile (g : List Entry) (src : Entry) (w : SlotBits) (k : Nat) (old : Option TRef) : Option TRef :=
  if src.op != 0x10 || handleAt src.slot k == handleAt w k then old
  else match g.find? fun f => f.hD == handleAt src.slot k && f.op != 0x10 with
    | some f => f.td
    | none => old

/-- The replacement entries of a match, in template order. What the originals have been charged counts for the first MMA among them (R245). -/
def replacements (m : Match) (e : Entry) : List Entry :=
  let g := m.group
  let orig := g.flatMap originalsOf
  let frees := dedup (g.flatMap Entry.frees)
  (List.range m.bits.nt).map fun k =>
    let t := m.bits.tpl k
    let last := k + 1 == m.bits.nt
    let src := (g[(t.extractLsb' 22 2).toNat]?).getD e
    let fold := (t.extractLsb' 2 2).toNat
    let fs := (g[(t.extractLsb' 0 2).toNat]?).getD e
    let phi := scaleOf fs.sval (fs.slot.extractLsb' 0 7)
    let first := !((List.range k).any fun j => (m.bits.tpl j).extractLsb' 36 8 == 0x10)
    let feeds (f : Entry) : Bool := g.any fun h => usesHandle h.slot 1 && h.hA == f.hD
    let w := templateSlot t src.slot m.env g last e.flag
    let ref (k : Nat) (old : Option TRef) : Option TRef :=
      if usesHandle w k then (match refOfHandle g (handleAt w k) with
        | some r => some r
        | none => old) else none
    { e with n := e.n + k, slot := w, sval := src.sval, rule := some m.rule, orig := orig, st := .pending,
             phia := if fold = 1 then phi else src.phia, folda := fold == 1 || src.folda,
             phib := if fold = 2 then phi else src.phib, foldb := fold == 2 || src.foldb,
             marka := if fold = 1 then fs.td else markTile g src w 1 src.marka, markb := if fold = 2 then fs.td else markTile g src w 2 src.markb,
             spread := src.spread || (g.any fun f => f.spread && feeds f) || ((w.extractLsb' 32 8).toNat == 8 && g.all fun f => f.op == 9),
             td := ref 0 src.td, ta := ref 1 src.ta, tb := ref 2 src.tb, frees := if last then frees else [],
             paid := if w.extractLsb' 32 8 == 0x10 && first then (g.map Entry.paid).sum else 0, charged := false, gid := e.n + 1 }

/-- A deletion's frees: at the youngest earlier entry that names the tile, else at once (R283). -/
def freeAfter (s : State) (x : CtxId) (r : TRef) : State :=
  let c := ctxAt s x
  match (c.win.filter fun e => e.names.contains r).getLast? with
  | some e => modEntry s x e.n fun e => { e with frees := e.frees ++ [r] }
  | none => freeRef s x.core c.grp r

/-- The debit of an MMA entry when it takes its place (R245); an A operand at the die store pays at the start. -/
def chargeEntry (s : State) (x : CtxId) (e : Entry) : State × Entry :=
  if e.op != 0x10 then (s, e)
  else match e.ta with
    | some (.own tid) => match tileAt s x.core tid with
      | some a => chargeMma s x e a
      | none => (s, e)
    | _ => (s, e)

/-- Held entries are released (R285). -/
def releaseHeld (s : State) (x : CtxId) : State :=
  modCtx s x fun c => { c with win := c.win.map fun e => { e with st := match e.st with
    | .held => .pending
    | .pending => .pending
    | .started => .started
    | .parked => .parked } }

/-- A T-slot entry enters its window (R281 to R285): a matched group is replaced, otherwise the entry joins, held when a rule could still
use it. -/
def enterWindow (s : State) (x : CtxId) (e0 : Entry) : State :=
  let (s, e) := chargeEntry s x e0
  let s := if e.op == 0x0D then modCtx s x fun c => { c with flushed := false, fullHeld := false } else s
  let c := ctxAt s x
  let cyc := (coreAt s x.core).cyc
  match findMatch s x c.win e with
  | none =>
    let s := releaseHeld s x
    let e := { e with st := if holdable s x e && c.win.length + 1 < 16 then .held else .pending }
    modCtx s x fun c => { c.setWin (c.win ++ [e]) cyc with nextEntry := e.n + 1 }
  | some m =>
    let gone (f : Entry) : Bool := m.group.any fun g => g.n == f.n
    let s := releaseHeld (modCtx s x fun c => c.setWin (c.win.filter fun f => !gone f) cyc) x
    if m.bits.nt = 0 then
      let s := modCtx s x fun c => { c with nextEntry := e.n + 1 }
      (dedup (m.group.flatMap Entry.frees)).foldl (fun s r => freeAfter s x r) s
    else
      let room := (ctxAt s x).win.length + m.bits.nt < 16
      let (s, l) := (replacements m e).foldl (fun (p : State × List Entry) f =>
        let (s, f) := chargeEntry p.1 x f
        let f := { f with st := if holdable s x f && room then .held else .pending }
        (s, p.2 ++ [f])) (s, [])
      modCtx s x fun c => { c.setWin (c.win ++ l) cyc with nextEntry := e.n + m.bits.nt }

end Sys2Proof.Machine
end

