-- ==== Sys2Proof/Machine/Preempt.lean ====
section
/-! DEFINITION. Saving a strand and starting it again: immediate pre-emption, the completed save, the reflection strand and its return, restore
(spec/15 R383 to R392; spec/02 R18). -/

namespace Sys2Proof.Machine

/-! ### Causes that are due at a boundary (R368, R375) -/

/-- The watchdog's limit of a context in cycles; none when it is off. -/
def watchLimit (s : State) (x : CtxId) : Option Nat :=
  let l := (limitsOf s (ctxAt s x).dom).wdlim.toNat
  if l = 0 then none else some (l * 65536)

def watchDue (s : State) (x : CtxId) : Bool :=
  (ctxAt s x).occupied && (ctxAt s x).due.isNone && (ctxAt s x).saving.isNone && match watchLimit s x with
    | some n => decide (n ≤ (ctxAt s x).wdc.toNat)
    | none => false

/-- The watchdog's cause becomes due. -/
def noteWatchdog (s : State) (x : CtxId) : State :=
  if watchDue s x then modCtx s x fun c => { c with due := some ⟨cWatchdog, .x, 0, 0, [c.wdc.setWidth 64]⟩ } else s

/-- No bundle of the context is chosen or under way. -/
def atBoundary (s : State) (x : CtxId) : Bool := s.frame.isNone && !(s.turn && (decide (x = s.cur) || s.second == some x))

/-- The context stands before its next bundle, which has not begun: a cause that is due is delivered there (R368, R376; log entry 6). -/
def takesDue (s : State) (x : CtxId) : Bool :=
  atBoundary s x && (ctxAt s x).saving.isNone && (ctxAt s x).wait == .none && (ctxAt s x).reply.isEmpty

/-- A cause that is due is delivered where the context stands. -/
def deliverDue (s : State) (x : CtxId) : State :=
  match (ctxAt s x).due with
  | none => s
  | some t =>
    let pc := (ctxAt s x).pc
    deliverTrap (modCtx s x fun c => { c with due := none }) x t (TrapAt.plain pc pc pc)

/-- At the boundary of an immediate pre-emption a watchdog that is due is delivered first (R375, R388, R393). -/
def watchdogFirst (s : State) (x : CtxId) : State :=
  let s := noteWatchdog s x
  if takesDue s x then deliverDue s x else s

/-! ### Starting a save (R387, R388) -/

/-- Stops issue at the boundary: the open region ends, the save begins. -/
def startSave (s : State) (x : CtxId) (grade : BitVec 2) (held : Bool) : State :=
  let s := endRegion s x
  let c := ctxAt s x
  match c.saving with
  | some v => putCtx s x { c with saving := some { v with held := v.held || held } }
  | none => if c.occupied then { putCtx s x { c.flush with saving := some ⟨grade, held, none⟩, preq := none } with
      turn := if x = s.cur then false else s.turn } else s

/-- A request of the context, or of an entry of its window, has left and its answer has not come (R272). -/
def requestsOut (s : State) (x : CtxId) : Bool := storeStalls s x none || s.pend.any fun p => p.who.ctx == some x

/-- Every started entry has completed, a copy command and an MMA that waits for scales apart (R388), a TALLOC or TWAKE whose banks are under way as
well (log entry 14); every access has been performed, and a bundle whose access outside has been performed has committed (R54, R272). -/
def saveReady (s : State) (x : CtxId) : Bool :=
  let c := ctxAt s x
  c.saving.isSome && c.reply.isEmpty && !requestsOut s x && c.win.all (fun e => e.st != .started || carrierOf e.op == .copy || mmaWaits s x e)
    && match c.wait with
      | .outside => false
      | .migrate _ _ => false
      | .drain _ _ _ => false
      | _ => true

/-- The window as it is saved: nothing is queued or started any more (R288, R388). -/
def savedEntry (e : Entry) : Entry :=
  { e with queued := false, pieces := [], shut := true, bparked := false, st := match e.st with
    | .parked => .parked
    | .pending => .pending
    | .held => .pending
    | .started => .pending }

/-- The context as other state keeps it beside its record (log entry 14). -/
def savedBase (c : Ctx) : Ctx := { c with flight := [], fetched := [], saving := none, frozen := false, win := c.win.map savedEntry }

/-- The strand's tiles lose their context slot and keep the owner tag (R314, R388). -/
def tagTiles (s : State) (c : CoreId) (g : BitVec 20) (ix : BitVec 6) (slot : Option (Fin 4)) : State :=
  modCore s c fun k => { k with tiles := k.tiles.map fun t => if t.grp == g && t.ix == ix then { t with slot := slot, since := k.cyc } else t }

/-- The record that a save writes: states of R390 as they were at the stop. -/
def saveWords (s : State) (x : CtxId) (grade : BitVec 2) : List Word :=
  let c := ctxAt s x
  let c := { c with win := c.win.map fun e => if e.st == .started || e.st == .parked then e else { e with st := if e.st == .held then .held else .pending } }
  saveRecord c grade c.pc (tbOf s x.core.die)

/-! ### Spill slots of a handling domain (R383) -/

/-- The domain address of a word of a spill slot. -/
def spillAddr (s : State) (h : BitVec 12) (slot k : Nat) : BitVec 52 := (domAt s h).spill + BitVec.ofNat 52 (524288 * slot + 8 * k)

def writeSpill (s : State) (h : BitVec 12) (slot : Nat) (l : List Word) : State :=
  (l.zipIdx).foldl (fun s p => match devPlace s h (spillAddr s h slot p.2) true with
    | some q => devPut s (keyDie s) h ((spillAddr s h slot p.2).setWidth 64) noStrand q 8 p.1.toNat
    | none => s) s

def readSpill (s : State) (h : BitVec 12) (slot from_ n : Nat) : List Word :=
  (List.range n).map fun k => match devPlace s h (spillAddr s h slot (from_ + k)) false with
    | some q => BitVec.ofNat 64 (devRead8 s q)
    | none => 0

/-- The grant of EBUD to a context (R360). -/
def energyGrant (s : State) (c : CoreId) (d : BitVec 12) (more : Nat) : BitVec 32 :=
  let m := ((residents s c).filter fun x => (ctxAt s x).dom == d).length + more
  BitVec.ofNat 32 ((domAt s d).eshare.toNat / m)

/-- The start state of a reflection strand (R383). A pre-emption request that waits acts at the handler's first boundary (R393). -/
def reflectionCtx (s : State) (x : CtxId) (h : BitVec 12) (slot : Nat) (c : Ctx) : Ctx :=
  { Ctx.reset with
    occ := .refl h slot
    sreg := (Ctx.reset.sreg.set 1 (BitVec.ofNat 64 slot)).set 2 (c.dom.setWidth 64)
    cbase := (domAt s h).supcb
    dom := h
    depth := (domAt s h).depth
    grp := 0xFFFFF
    strix := 0
    priv := true
    te := false
    pri := c.pri
    preq := c.preq
    ebud := energyGrant s x.core h 1 }

/-- CONTEXT_SAVE_COMPLETE (R388, R389): the record is complete and the slot is free, or starts its reflection strand. -/
def completeSave (s : State) (x : CtxId) : State :=
  let c := ctxAt s x
  match c.saving with
  | none => s
  | some v =>
    let words := saveWords s x v.grade
    let base := savedBase c
    let s := modCore s x.core fun k => { k with copyq := k.copyq.filter fun q => !(decide (q.1 = x.slot)) }
    let d := x.core.die
    match v.refl with
    | some (h, slot, rec) =>
      let s := writeSpill s h slot (rec ++ words)
      let s := modDie s d fun y => { y with reflected := ⟨h, slot, base, false⟩ :: y.reflected }
      let s := setMember s c.grp c.strix .saved
      let s := tagTiles (dropWatch s x) x.core c.grp c.strix none
      let s := putCtx s x (reflectionCtx s x h slot c)
      { s with turn := if x = s.cur then false else s.turn }
    | none =>
      match c.occ with
      | .strand =>
        let s := tagTiles s x.core c.grp c.strix none
        let y := dieAt s d
        let s := putDie s d { y with saved := y.saved ++ [⟨words, base, x.core, y.nextArrival, v.held⟩], nextArrival := y.nextArrival + 1 }
        vacate (setMember s c.grp c.strix (if v.held then .held else .saved)) x
      | _ =>
        let y := dieAt s d
        let s := putDie s d { y with saved := y.saved ++ [⟨words, base, x.core, y.nextArrival, v.held⟩], nextArrival := y.nextArrival + 1 }
        vacate s x

/-! ### Restore (R391) -/

/-- The words of a record as long as its header says, at least the header. -/
def recordEvent (s : State) (dom : BitVec 12) (pc : Pc) (g : BitVec 20) : State := event s dom 3 5 [pc.setWidth 64, groupWord g]

/-- A tile that stands in its core's storage. -/
def Tile.resides (t : Tile) : Bool := t.st == .live || t.st == .parked

/-- A saved strand's tiles that stand in the storage of the core that it was saved on. -/
def strandTiles (s : State) (a : CoreId) (g : BitVec 20) (ix : BitVec 6) : List Tile :=
  (coreAt s a).tiles.filter fun t => t.grp == g && t.ix == ix && t.resides

/-- The old core can spill the tiles that a restore elsewhere leaves (R316, R391). -/
def canMoveTiles (s : State) (a b : CoreId) (g : BitVec 20) (ix : BitVec 6) : Bool :=
  decide (a = b) || (strandTiles s a g ix).all fun t =>
    decide (((strandTiles s a g ix).filter fun u => u.dom == t.dom).length ≤ (freeSlots s t.dom).length)

/-- A tile that its group's entries still use leaves its core's storage; what it holds goes with it. -/
def unhouse (s : State) (a : CoreId) (t : Tile) : State :=
  modTile (modCore s a fun k => setBanks k t.banks .clearing) a t.tid fun u => { u with banks := [], aslot := none }

/-- Moves the strand's tiles to the core where it is restored: the old core spills what is not there (R315, R391). -/
def moveTiles (s : State) (a b : CoreId) (g : BitVec 20) (ix : BitVec 6) : State :=
  if a = b then s
  else
    let mine (t : Tile) : Bool := t.grp == g && t.ix == ix
    let s := ((coreAt s a).tiles.filter mine).foldl (fun s t =>
      if t.resides then (spillTile s a t).getD s else if t.st == .dying then unhouse s a t else s) s
    let l := (coreAt s a).tiles.filter mine
    let off := (coreAt s b).nextTid
    let s := modCore s a fun k => { k with tiles := k.tiles.filter fun t => !mine t }
    modCore s b fun k => { k with tiles := k.tiles ++ l.map (fun t => { t with tid := t.tid + off }), nextTid := off + (coreAt s a).nextTid }

/-- The tile numbers of a context moved by `off`. -/
def shiftRef (off : Nat) (r : TRef) : TRef :=
  match r with
  | .own n => .own (n + off)
  | .grp h => .grp h

def shiftEntry (off : Nat) (e : Entry) : Entry :=
  let f (o : Option TRef) : Option TRef := o.map (shiftRef off)
  { e with td := f e.td, ta := f e.ta, tb := f e.tb, frees := e.frees.map (shiftRef off),
           orig := e.orig.map fun o => { o with td := f o.td, ta := f o.ta, tb := f o.tb, frees := o.frees.map (shiftRef off) } }

def shiftCtx (off : Nat) (c : Ctx) : Ctx :=
  { c with hmap := c.hmap.map fun o => o.map fun n => n + off, win := c.win.map (shiftEntry off), missed := c.missed.map (shiftEntry off) }

/-- Puts a restored context into its slot; a barrier at which it waits may have completed while it was saved (R42). -/
def installCtx (s : State) (x : CtxId) (c : Ctx) : State :=
  let s := takeWatch (tagTiles (putCtx s x { c with lastIssue := (coreAt s x.core).issueNo }) x.core c.grp c.strix (some x.slot)) x
  modCtx s x (Ctx.passBar s)

/-- The owner's spilled tile gets storage again while there is room, or tiles of strands that are not resident can be spilled for it (R315, R316). -/
def reloadOwned (c : CoreId) (t : Tile) (k : Nat) : Nat → State → State
  | 0, s => s
  | n + 1, s =>
    if hasRoom s c t then freeSlot (giveRoom s c t) t.dom k
    else match evictable s c t.lvl with
      | [] => s
      | u :: _ => match spillTile s c u with
        | some s => reloadOwned c t k n s
        | none => s

/-- A restore brings the owner's spilled tiles back; one that finds no room stays spilled until it is accessed (R315, R391). -/
def reloadTiles (s : State) (c : CoreId) (g : BitVec 20) (ix : BitVec 6) : State :=
  (coreAt s c).tiles.foldl (fun s t => match t.st with
    | .spilled k => if t.grp == g && t.ix == ix then reloadOwned c t k 33 s else s
    | _ => s) s

/-- Tiles whose handles a record shows no more live (C1.HLIVE) are free (R384, R389). -/
def dropHandles (s : State) (x : CtxId) (old new : Vector (Option Nat) 24) : State :=
  (List.finRange 24).foldl (fun s k => match old[k.val], new[k.val] with
    | some tid, none => freeTile s x.core tid
    | _, _ => s) s

/-- RESTORE of a saved strand on a slot (R391): a record that fails its check kills the group. -/
def restoreStrand (s : State) (x : CtxId) (v : Saved) : State :=
  let s := modDie s x.core.die fun d => { d with saved := d.saved.filter fun w => !(w.arrival == v.arrival) }
  if !recGood v.words then recordEvent (killGroup s v.base.grp) v.base.dom ((wordAt v.words 2).setWidth 40) v.base.grp
  else
    let off := if v.core = x.core then 0 else (coreAt s x.core).nextTid
    let s := moveTiles s v.core x.core v.base.grp v.base.strix
    let base := shiftCtx off v.base
    let c := restoreCtx s x v.words base
    let s := dropHandles (installCtx s x c) x base.hmap c.hmap
    let s := if v.core = x.core then reloadTiles s x.core c.grp c.strix else s
    match c.occ with
    | .strand => setMember s c.grp c.strix (.resident x)
    | _ => s

/-- The strand of a reflection whose context is no core of its domain any more goes to the die's saved list, Held where the domain has no core left
there (R18, R384, R392). -/
def reflSaved (s : State) (x : CtxId) (base : Ctx) (words : List Word) : State :=
  let held := (coresOn s base.dom x.core.die).isEmpty
  let s := modDie (vacate s x) x.core.die fun y =>
    { y with saved := y.saved ++ [⟨words, base, x.core, y.nextArrival, held⟩], nextArrival := y.nextArrival + 1 }
  setMember s base.grp base.strix (if held then .held else .saved)

/-- What the reads of a spill slot's words meet (R192, R196). -/
def meetSpill (s : State) (h : BitVec 12) (slot from_ n : Nat) : State :=
  (List.range n).foldl (fun s k => match devPlace s h (spillAddr s h slot (from_ + k)) false with
    | some q => devMet s (keyDie s) h ((spillAddr s h slot (from_ + k)).setWidth 64) noStrand q
    | none => s) s

/-- TRET of a reflection strand (R384): the record of the slot is checked, the slot freed, the strand resumed in the same context. -/
def reflReturn (s : State) (x : CtxId) (h : BitVec 12) (slot : Nat) : State :=
  let d := x.core.die
  match (dieAt s d).reflected.find? fun r => r.h == h && r.slot == slot with
  | none => endStrand s x
  | some r =>
    let hdr := readSpill s h slot 16 8
    let n := Nat.min (recLength hdr) 65520
    let words := readSpill s h slot 16 n
    let s := modDie (freeSlot (meetSpill s h slot 16 n) h slot) d fun y => { y with reflected := y.reflected.filter fun q => !(q.h == h && q.slot == slot) }
    if !recGood words then recordEvent (killGroup (vacate s x) r.base.grp) h ((wordAt words 2).setWidth 40) r.base.grp
    else if (virtOf s r.base.dom x.core).isNone then reflSaved s x r.base words
    else
      let p := (ctxAt s x).preq
      let c := { restoreCtx s x words r.base with preq := p, draining := r.base.draining && p.isSome }
      let c := if c.wait == .none then c.resumeWait else c
      let s := dropHandles (installCtx s x (reissue (coreAt s x.core).cyc c)) x r.base.hmap c.hmap
      setMember (reloadTiles s x.core c.grp c.strix) c.grp c.strix (.resident x)

/-- HALT of a reflection strand (R384): the saved strand's group is killed, the slot freed, the reflection strand ends. -/
def reflHalt (s : State) (x : CtxId) (h : BitVec 12) (slot : Nat) : State :=
  let d := x.core.die
  let g := ((dieAt s d).reflected.find? fun r => r.h == h && r.slot == slot).map fun r => r.base.grp
  let s := endStrand (freeSlot s h slot) x
  match g with
  | some g => killGroup s g
  | none => s

end Sys2Proof.Machine
end

