-- ==== Sys2Proof/Machine/Launch.lean ====
section
/-! DEFINITION. Launches: the check of a record, submission, offers to dies, gang admission, rejection and take-up (spec/02 R19 to R34; spec/06 R142
to R144; spec/12 R293 to R295; spec/13 R322; spec/14 R360, R363). -/

namespace Sys2Proof.Machine

/-! ### Placement (R29, R32, R35, R36) -/

/-- The physical dies of a mask's virtual dies, ascending; bits of dies that the domain does not have are ignored. -/
def maskDies (s : State) (dom : BitVec 12) (mask : BitVec 4) : List (Fin 4) :=
  ([0, 1, 2, 3].filter fun k => mask.getLsbD k).filterMap fun k => physDie s dom (BitVec.ofNat 2 k)

/-- The task set of a launch. -/
def launchSet (s : State) (l : Launch) : Option TaskSet := l.ts.bind fun n => s.tasksets.find? fun t => t.reg.tsid == n

/-- The roles that place a launch's groups, for a launch of a service level. -/
def rolesOf (s : State) (l : Launch) : List RoleReg :=
  match launchSet s l, l.role with
  | some t, some k => (t.reg.levels.filter fun v => v.level == k).flatMap fun v => v.roles.filter fun r => r.launch == l.addr
  | _, _ => []

/-- The physical die of a role at the running level. -/
def roleDie (s : State) (l : Launch) (r : RoleReg) : Option (Fin 4) := (launchSet s l).bind fun t => t.map[r.vdie.toNat]?

/-- The dies of a launch's placement, ascending. -/
def placement (s : State) (l : Launch) : List (Fin 4) :=
  if l.role.isSome then allDies.filter fun d => (rolesOf s l).any fun r => roleDie s l r == some d
  else maskDies s l.dom (lDmask l.record)

/-- The dies to which group g is offered, the first one first (R29). DMASK is read through the core map as it stands at the offer, so after a renumbering
a bit can name another physical die than at submission (DESIGN CHOICE, log entry 71: R44 does not say which map counts). -/
def offerOrder (s : State) (l : Launch) (g : Nat) : List (Fin 4) :=
  if l.role.isSome then ((rolesOf s l).filter fun r => r.group.toNat == g).filterMap (roleDie s l)
  else
    let ds := placement s l
    (List.range ds.length).filterMap fun i => ds[(g + i) % ds.length]?

/-! ### The check of a record (R27, R143, R293) -/

/-- A reserved bit is set; L8 to L10 count only for a range launch. -/
def lReserved (r : Vector Word 16) : Bool :=
  r[0].extractLsb' 40 24 != 0 || r[1].extractLsb' 48 16 != 0 || r[2].extractLsb' 36 28 != 0 || r[2].extractLsb' 24 4 != 0 || r[2].getLsbD 7
    || r[3].extractLsb' 12 52 != 0 || [r[4], r[5], r[6], r[7]].any (fun w => w.extractLsb' 46 18 != 0)
    || (lRng r && r[10].extractLsb' 32 32 != 0) || r[11].extractLsb' 15 49 != 0 || r[14] != 0 || r[15] != 0

/-- Live dies of the placement: the share set of a range launch formed now (R32). -/
def shareSet (s : State) (l : Launch) : List (Fin 4) := (placement s l).filter fun d => isLive s d

/-- The dies that would receive a launch entry (R293). -/
def entryDies (s : State) (l : Launch) : List (Fin 4) :=
  if lRng l.record then shareSet s l
  else dedup ((List.range (Nat.min (lGcnt l.record) (Nat.max 4 (if l.role.isSome then lGcnt l.record else 0)))).filterMap fun g =>
    (offerOrder s l g).find? fun d => isLive s d)

/-- Launch entries that a die's ready queue can hold (R293). -/
def launchCap : Nat := 1024

/-- The first check that fails, 0 for none (R143). -/
def recordCode (s : State) (l : Launch) : Nat :=
  let r := l.record
  if lReserved r then 1
  else if lScnt r = 0 || 64 < lScnt r then 2
  else if lGcnt r = 0 then 3
  else if lScnt r < lPack r then 4
  else if (lCbase r).extractLsb' 0 6 != 0 then 5
  else if lCkind r = 3 || (lCkind r = 2 && (lCaddr r).extractLsb' 0 3 != 0) then 6
  else if lRng r && ((lRend r).ule (lRbase r) || lChunk r == 0) then 7
  else if 32 < lSbanks r || 8 < lAtiles r then 8
  else if l.role.isNone && (placement s l).isEmpty then 9
  else if (entryDies s l).any fun d => launchCap ≤ (dieAt s d).launchq.length then 10
  else 0

/-! ### Offers (R29, R32, R293) -/

/-- Adds groups to a die's launch entry, which is created where there is none. -/
def addGroups (s : State) (n : Nat) (d : Fin 4) (gs : List Nat) : State :=
  let x := dieAt s d
  if x.launchq.any fun e => e.launch == n then
    putDie s d { x with launchq := x.launchq.map fun e => if e.launch == n then { e with groups := e.groups ++ gs } else e }
  else putDie s d { x with launchq := x.launchq ++ [⟨n, gs, x.nextArrival⟩], nextArrival := x.nextArrival + 1 }

/-- The die to which a group is offered (R29): the first live one in its order that holds fewer than 16 groups of the launch. -/
def offerDie (s : State) (l : Launch) (g : Nat) : Option (Fin 4) :=
  (offerOrder s l g).find? fun d => isLive s d && match (dieAt s d).launchq.find? fun e => e.launch == l.id with
    | some e => l.role.isSome || decide (e.groups.length < 16)
    | none => true

/-- The die holds a launch entry of the launch, or has room for one (R293). -/
def entryRoom (s : State) (n : Nat) (d : Fin 4) : Bool :=
  ((dieAt s d).launchq.any fun e => e.launch == n) || decide ((dieAt s d).launchq.length < launchCap)

/-- Offers one group; it stays offered while its die has no room for an entry, or no die takes it (R29, R293). -/
def offerGroup (l : Launch) (s : State) (g : Nat) : State :=
  match offerDie s l g with
  | some d => if entryRoom s l.id d then addGroups (modLaunch s l.id fun l => { l with todo := l.todo.filter fun k => !(k == g) }) l.id d [g] else s
  | none => s

/-- A range launch's shares and its groups' entries, once a die of its set is live (R19, R32). -/
def formShares (s : State) (l : Launch) : State :=
  let ds := shareSet s l
  if ds.isEmpty || ds.any (fun d => launchCap ≤ (dieAt s d).launchq.length) then s
  else
    let s := modLaunch s l.id fun l => { l with shares := makeShares (chunkCount l.record) ds.length 0 0 ds, todo := [] }
    (ds.zipIdx).foldl (fun s p =>
      addGroups s l.id p.1 ((List.range (lGcnt l.record)).map fun g => p.2 * lGcnt l.record + g)) s

/-- Offers a group of a range launch whose die was lost to the next live die of the share set (R44). -/
def offerRange (l : Launch) (s : State) (g : Nat) : State :=
  match l.shares[g / lGcnt l.record]? with
  | none => s
  | some h =>
    match ((List.range 4).map (dieAfter h.die)).find? fun d => isLive s d && (l.shares.any fun k => decide (k.die = d))
    with
    | some d => if !entryRoom s l.id d then s else addGroups (modLaunch s l.id fun l => { l with todo := l.todo.filter fun k => !(k == g) }) l.id d [g]
    | none => s

/-- Offers what a launch still has to place. -/
def offerLaunch (s : State) (n : Nat) : State :=
  match launchAt s n with
  | none => s
  | some l => if lRng l.record then (if l.shares.isEmpty then formShares s l else l.todo.foldl (offerRange l) s) else l.todo.foldl (offerGroup l) s

def offerAll (s : State) : State := (s.launches.map Launch.id).foldl offerLaunch s

/-! ### Submission (R27, R143) -/

/-- A launch as a record gives it, before it is accepted. -/
def mkLaunch (s : State) (dom : BitVec 12) (r : Vector Word 16) (addr : BitVec 64) (ts : Option (BitVec 32)) (role : Option (Fin 4)) : Launch :=
  { id := s.nextLaunch, record := r, addr := addr, dom := dom, shares := [], ts := ts, role := role, dep := Vector.ofFn fun k : Fin 4 => depStart s dom r[4 + k.val],
    todo := if lRng r then [] else List.range (lGcnt r), posted := 0 }

/-- The posts of a rejected record (R143). -/
def rejectPosts (s : State) (l : Launch) : Nat :=
  if lRng l.record then lGcnt l.record * Nat.max 1 (shareSet s l).length else lGcnt l.record

/-- A rejected record: one event, its target posted as often as its completion would have been (R26, R143). -/
def rejectRecord (s : State) (l : Launch) (code : Nat) : State :=
  let s := event s l.dom 4 (BitVec.ofNat 8 code) [l.addr]
  (List.range (rejectPosts s l)).foldl (fun s _ => postTarget s l 0) s

/-- Submits a record: accepted, rejected or refused, with its code (R143). -/
def submit (s : State) (dom : BitVec 12) (r : Vector Word 16) (addr : BitVec 64) (ts : Option (BitVec 32)) (role : Option (Fin 4)) : State × Nat :=
  let l := mkLaunch s dom r addr ts role
  let code := recordCode s l
  if code = 0 then
    (offerLaunch { s with launches := s.launches ++ [l], nextLaunch := s.nextLaunch + 1 } l.id, 0)
  else if code = 10 then (s, 10)
  else (rejectRecord s l code, code)

/-! ### Gang admission (R18, R19, R24 to R26, R294, R363) -/

/-- S banks and accumulator tiles of a core that its resident strands hold. -/
def heldBanks (s : State) (c : CoreId) : Nat := ((residents s c).map fun x => (ctxAt s x).sAllot).sum
def heldAcc (s : State) (c : CoreId) : Nat := ((residents s c).map fun x => (ctxAt s x).aAllot).sum

/-- S banks of a core: a failed one can still be allocated (R198, R199). -/
def coreBanks : Nat := 32

def idleSlots (s : State) (c : CoreId) : List CtxId := (slotsOf c).filter fun x => !(ctxAt s x).occupied

/-- How often a request fits into an amount. -/
def fits (have_ want : Nat) : Nat := if want = 0 then 4 else have_ / want

/-- Strands of a record that a core can take now, and could ever hold. -/
def roomNow (s : State) (c : CoreId) (r : Vector Word 16) : Nat :=
  if (coreAt s c).removed then 0
  else Nat.min (Nat.min (idleSlots s c).length (lPack r))
    (Nat.min (fits (coreBanks - heldBanks s c) (lSbanks r)) (fits (8 - heldAcc s c) (lAtiles r)))
def roomEver (s : State) (c : CoreId) (r : Vector Word 16) : Nat :=
  if (coreAt s c).removed then 0
  else Nat.min (Nat.min 4 (lPack r)) (Nat.min (fits (coreBanks) (lSbanks r)) (fits 8 (lAtiles r)))

/-- The odd squares of the 6 × 8 grid come last (R363). -/
def oddSquare (c : CoreId) : Bool := (c.core.val / 8 + c.core.val % 8) % 2 == 1

/-- The cores of a domain on a die in the order in which a gang fills them (R363; headroom: log entry 11). -/
def coreOrder (s : State) (dom : BitVec 12) (d : Fin 4) : List CoreId :=
  sortBy (fun a b => if oddSquare a == oddSquare b then
      decide (Config.headroom s.clk (48 * d.val + b.core.val) ≤ Config.headroom s.clk (48 * d.val + a.core.val)) else !oddSquare a) (coresOn s dom d)

/-- Slots for n strands of a record on a die, at most its limit on one core. -/
def planSlots (s : State) (r : Vector Word 16) : Nat → List CoreId → List CtxId
  | 0, _ => []
  | _, [] => []
  | n + 1, c :: t =>
    let l := (idleSlots s c).take (Nat.min (n + 1) (roomNow s c r))
    l ++ planSlots s r (n + 1 - l.length) t

def planGroup (s : State) (l : Launch) (d : Fin 4) : List CtxId := planSlots s l.record (lScnt l.record) (coreOrder s l.dom d)

/-- A group of the launch can be admitted on the die now (R25). -/
def admits (s : State) (l : Launch) (d : Fin 4) : Bool := (planGroup s l d).length == lScnt l.record

/-- No die of the placement could ever hold a group (R26). -/
def neverFits (s : State) (l : Launch) : Bool :=
  !((placement s l).any fun d => decide (lScnt l.record ≤ ((coresOn s l.dom d).map fun c => roomEver s c l.record).sum))

/-- A fresh group identifier; 0xFFFFF is the reflection strands' own (R383; log entry 11). -/
def freshGroup (s : State) : Nat :=
  let used := allDies.flatMap fun d => (dieAt s d).groups.map fun g => g.id.toNat
  let n := used.length + 1
  (((List.range n).map fun k => (s.nextGroup + k) % 0xFFFFF).find? fun g => !used.contains g).getD 0

/-- The start state of a strand (R19, R22, R322); the root's SUPCB names code that no record matches (R321). -/
def startCtx (s : State) (r : Vector Word 16) (dom : BitVec 12) (grp : BitVec 20) (ix : BitVec 6) : Ctx :=
  { Ctx.reset with
    occ := .strand
    pc := lEntry r
    cbase := lCbase r
    dom := dom
    depth := (domAt s dom).depth
    grp := grp
    strix := ix
    priv := dom != 0 && lCbase r == (domAt s dom).supcb
    pri := lPri r
    sAllot := lSbanks r
    aAllot := lAtiles r }

/-- Sets a context's grant once its core's residents stand (R360). -/
def grantEnergy (s : State) (x : CtxId) : State := modCtx s x fun c => { c with ebud := energyGrant s x.core c.dom 0 }

/-- Puts a starting strand on a slot. -/
def occupy (s : State) (x : CtxId) (c : Ctx) : State := putCtx s x { c with lastIssue := (coreAt s x.core).issueNo }

/-- Admits group g of a launch on the slots of a plan. -/
def admitGroup (s : State) (l : Launch) (d : Fin 4) (g : Nat) (plan : List CtxId) : State :=
  let id : BitVec 20 := BitVec.ofNat 20 (freshGroup s)
  let group : Group := ⟨id, l.id, g, l.dom, l.record, plan.map Member.resident, Vector.replicate 4 ⟨0, false⟩, Vector.replicate 8 none⟩
  let s := { s with nextGroup := (id.toNat + 1) % 0xFFFFF }
  let s := modDie s d fun x => { x with groups := x.groups ++ [group] }
  let s := (plan.zipIdx).foldl (fun s p =>
    let c := startCtx s l.record l.dom id (BitVec.ofNat 6 p.2)
    occupy s p.1 { c with sreg := (c.sreg.set 1 (lArg l.record)).set 2 (BitVec.ofNat 64 g) }) s
  plan.foldl grantEnergy s

/-- A launch's dependences are satisfied (R28). -/
def depsMet (l : Launch) : Bool := l.dep.toList.all fun p => p == .met

/-- The error sum of a die that a frame watches (R369). -/
def errSum (y : Die) : Nat := (y.err[0]).toNat + (y.err[2]).toNat + (y.err[4]).toNat + (y.err[12]).toNat

/-- The error sum that R369 watches has risen by 16 within the frame. -/
def errorRise (t : TaskSet) (s : State) (d : Fin 4) : Bool := decide ((t.errBase[d.val]) + 16 ≤ errSum (dieAt s d))

/-- An early checkpoint of a task set is due (R369, R406). -/
def earlyDue (s : State) (t : TaskSet) : Bool := t.early || allDies.any (errorRise t s)

/-- Admission of the launch's groups is held for an early checkpoint (R406). -/
def admissionHeld (s : State) (l : Launch) : Bool :=
  match launchSet s l with
  | some t => earlyDue s t
  | none => false

/-- Launch entries of a die in the order of service: by level, then arrival (R294). -/
def entryOrder (s : State) (d : Fin 4) : List (LaunchEntry × Launch) :=
  sortBy (fun a b => if lPri a.2.record == lPri b.2.record then decide (a.1.arrival ≤ b.1.arrival) else (lPri b.2.record).ult (lPri a.2.record))
    ((dieAt s d).launchq.filterMap fun e => (launchAt s e.launch).map fun l => (e, l))

/-- The launch entry that a die serves next: the oldest of the highest level. While it cannot admit its next group, for its open dependences or a
checkpoint among other reasons, it holds back all others (R28, R294, R406; log entry 43). -/
def nextEntryOf (s : State) (d : Fin 4) : Option (LaunchEntry × Launch) :=
  (entryOrder s d).head?.filter fun p => depsMet p.2 && !admissionHeld s p.2

/-- A group leaves its die's queue; an empty entry leaves with it. -/
def takeGroup (s : State) (d : Fin 4) (n g : Nat) : State :=
  modDie s d fun x =>
    let q := x.launchq.map fun e => if e.launch == n then { e with groups := e.groups.filter fun k => !(k == g) } else e
    { x with launchq := q.filter fun e => !(e.launch == n && e.groups.isEmpty) }

/-- Group-index order (R294). -/
def firstGroup (e : LaunchEntry) : Option Nat := e.groups.foldl (fun (b : Option Nat) k =>
  match b with
  | none => some k
  | some m => some (Nat.min m k)) none

/-- What GANG_ADMISSION would do on a die: the launch, its group, and whether it is rejected. -/
def admission (s : State) (d : Fin 4) : Option (Launch × Nat × Bool) :=
  if !isLive s d || (dieAt s d).fenced || s.boot.phase == .recovery then none
  else match nextEntryOf s d with
  | none => none
  | some (e, l) => match firstGroup e with
    | none => none
    | some g => if neverFits s l then some (l, g, true) else if admits s l d then some (l, g, false) else none

/-- Rejects a group at admission (R26). -/
def rejectGroup (s : State) (l : Launch) (d : Fin 4) (g : Nat) : State :=
  let s := event (takeGroup s d l.id g) l.dom 4 11 [l.addr]
  postCompletion s l.id 0

/-- GANG_ADMISSION: admits or rejects the next group of a die, and offers what is still to place. -/
def gangAdmit (s : State) (d : Fin 4) : State :=
  match admission s d with
  | none => s
  | some (l, g, true) => offerAll (rejectGroup s l d g)
  | some (l, g, false) => offerAll (admitGroup (takeGroup s d l.id g) l d g (planGroup s l d))

/-! ### Continuations (R20 to R23, R142, R294, R295) -/

def recStrix (r : BitVec 512) : BitVec 6 := r.extractLsb' 111 6
def recGrp (r : BitVec 512) : BitVec 20 := r.extractLsb' 76 8 ++ r.extractLsb' 84 12
def recOwner (r : BitVec 512) : BitVec 12 := r.extractLsb' 64 12
def recLevel (r : BitVec 512) : BitVec 3 := r.extractLsb' 117 3

/-- A reserved bit of a record is set (R20). -/
def contReserved (r : BitVec 512) : Bool := r.extractLsb' 120 8 != 0 || r.getLsbD 96 || r.extractLsb' 40 24 != 0

/-- The continuation record of a context that suspends (R20, R142). -/
def contRecord (c : Ctx) : BitVec 512 :=
  let fpcs : BitVec 14 := c.landAll.fpc
  (List.range 6).foldl (fun (w : BitVec 512) k => w ||| ((c.s (BitVec.ofNat 5 (k + 1))).setWidth 512 <<< (128 + 64 * k)))
    (((0 : BitVec 8) ++ c.pri ++ c.strix ++ fpcs ++ (0 : BitVec 1) ++ c.grp.extractLsb' 0 12 ++ c.grp.extractLsb' 12 8 ++ c.dom
      ++ (0 : BitVec 24) ++ c.pc).setWidth 512)

/-- The slot reserved for a strand's continuation record, a 64-byte line of its die's device memory: one slot for each group and strand, in an
area whose first line is a free value (R20, R293; log entry 11). -/
def contLine (grp : BitVec 20) (ix : BitVec 6) : Nat := (Config.contBase + 64 * grp.toNat + ix.toNat) % 2 ^ 29

/-- SUSPEND_RECORD_WRITE: the record is written to its slot and queued, the context slot is idle (R21, R142, R210, R292, R295). The write
replaces its whole line and clears the line's poison; other 64-byte writes that are no tile granule do not (DESIGN CHOICE, log entry 81). -/
def writeRecord (s : State) (x : CtxId) : State :=
  let c := ctxAt s x
  let d := x.core.die
  let off := 64 * contLine c.grp c.strix
  let s := homeWritten (homeWrite s d off 64 (contRecord c).toNat none).1 d off none false true
  let y := dieAt s d
  let e : ContEntry := ⟨contRecord c, BitVec.ofNat 64 (memKey d off), y.nextArrival, false⟩
  let s := putDie s d { y with contq := y.contq ++ [e], nextArrival := y.nextArrival + 1 }
  vacate (setMember s c.grp c.strix .suspended) x

/-- The record that a continuation entry points to, as it stands in its slot (R20, R293). -/
def recordAt (s : State) (e : ContEntry) : BitVec 512 := BitVec.ofNat 512 (memRead s.mem e.addr.toNat 64)

/-- A core can take up a record: a core of its domain, its allotment free (R23, R294). -/
def canTakeUp (s : State) (c : CoreId) (e : ContEntry) : Bool :=
  !e.held && !(coreAt s c).removed && (virtOf s (recOwner e.record) c).isSome
    && match groupAt s (recGrp e.record) with
      | none => true
      | some g => contReserved (recordAt s e) || (decide (lSbanks g.record ≤ coreBanks - heldBanks s c) && decide (lAtiles g.record ≤ 8 - heldAcc s c))

/-- The record that an idle context takes up: the oldest of the highest priority among those that it may take (R23). -/
def takeUpChoice (s : State) (x : CtxId) : Option ContEntry :=
  if (ctxAt s x).occupied || !isLive s x.core.die || (dieAt s x.core.die).fenced then none
  else ((dieAt s x.core.die).contq.filter fun e => canTakeUp s x.core e).foldl (fun (b : Option ContEntry) e =>
    match b with
    | none => some e
    | some m => if (recLevel m.record).ult (recLevel e.record) || (recLevel m.record == recLevel e.record && decide (e.arrival < m.arrival)) then some e
      else some m) none

/-- The state of a strand that is taken up (R22). -/
def takeUpCtx (s : State) (x : CtxId) (g : Group) (r : BitVec 512) : Ctx :=
  let c := startCtx s g.record (recOwner r) g.id (recStrix r)
  { c with
    pc := r.setWidth 40
    sreg := Vector.ofFn fun k : Fin 32 => if 1 ≤ k.val && k.val ≤ 6 then r.extractLsb' (128 + 64 * (k.val - 1)) 64 else 0
    fpc := r.extractLsb' 97 14
    lastIssue := (coreAt s x.core).issueNo }.syncEff

/-- A record with a reserved bit: discarded, its group killed, one fault event (R20, R305). -/
def discardRecord (s : State) (e : ContEntry) : State :=
  let g := recGrp e.record
  event (killGroup s g) (recOwner e.record) 3 2 [e.addr, groupWord g]

/-- CONTINUATION_TAKE_UP (R20, R22, R23): the record is read from its slot and checked. -/
def takeUp (s : State) (x : CtxId) : State :=
  match takeUpChoice s x with
  | none => s
  | some e =>
    let s := modDie s x.core.die fun y => { y with contq := y.contq.filter fun v => !(v.arrival == e.arrival) }
    let s := meetLatent s x.core.die (e.addr.toNat / 64)
    let r := recordAt s e
    if contReserved r then discardRecord s e
    else match groupAt s (recGrp e.record) with
      | none => s
      | some g => grantEnergy (setMember (putCtx s x (takeUpCtx s x g r)) g.id (recStrix e.record) (.resident x)) x

/-- Whether some idle context of a die would take up a record at a level or above. -/
def takeUpAt (s : State) (d : Fin 4) (pri : BitVec 3) : Bool :=
  (coresOf d).any fun c => (slotsOf c).any fun x => match takeUpChoice s x with
    | some e => pri.ule (recLevel e.record)
    | none => false

end Sys2Proof.Machine
end

