-- ==== Sys2Proof/Machine/Reads.lean ====
section
/-! DEFINITION. The registers that an instruction reads as sources, for the interlock on results that are not complete
(spec/03 R53; spec/06 R152; spec/07 R180). -/

namespace Sys2Proof.Machine

def RR.reads (o : RR) : List RegRef := [.s o.sa, .s o.sb, .s o.sc]
def SY.reads (o : SY) : List RegRef := [.s o.sa, .s o.sb, .s o.sc]
def AT.reads (o : AT) : List RegRef := [.s o.sa, .s o.sb, .s o.sc]
def PR.reads (o : PR) : List RegRef := [.p o.pa, .p o.pb]
def VE.reads1 (o : VE) : List RegRef := [.v o.va, .p o.pg]
def VE.reads2 (o : VE) : List RegRef := [.v o.va, .v o.vb, .p o.pg]
def VE.reads3 (o : VE) : List RegRef := [.v o.va, .v o.vb, .v o.vd, .p o.pg]
def XB.reads1 (o : XB) : List RegRef := [.v o.va, .p o.pg]
def XB.readsS (o : XB) : List RegRef := [.v o.va, .s o.xi, .p o.pg]
def XB.readsV (o : XB) : List RegRef := [.v o.va, .v o.xi, .p o.pg]

/-- The registers that an instruction reads, as encoded; an event reads none. -/
def reads (i : Instr) : List RegRef :=
  match i with
  | .brc o => [.s o.sa, .s o.sb]
  | .jmp o | .callr o => [.s o.sa]
  | .ret => [.s 31]
  | .loopi o => [.s o.sa]
  | .spawn o | .rclaim o => [.s o.sa]
  | .csrw o | .csrsb o | .csrcb o => [.s o.sa]
  | .dnew o | .dgrantRange o | .dgrantCore o | .dgrantVf o | .dgrantBud o | .drevokeRange o | .drevokeCore o | .drevokeVf o | .dkill o
  | .dpolicyTrap o | .dpolicyFlags o | .dpolicyEvq o | .dpolicyDlog o | .dpolicyScope o | .dpolicyTbofs o | .dpolicySpill o | .dquery o
  | .tlbinvAll o | .tlbinvVa o | .tlbinvDom o | .rtload o | .rtloadClr o | .evpostOwn o | .evpostPar o | .evpostChild o
  | .pgstateBegin o | .pgstateEnd o => SY.reads o
  | .pand o | .por o | .pxor o | .pnot o | .pcnt o | .pfirst o => PR.reads o
  | .psetn o => [.s o.s]
  | .add _ o | .sub _ o | .mul _ o | .mulh _ o | .mulhu _ o | .div _ o | .divu _ o | .rem _ o | .remu _ o | .and _ o | .or _ o
  | .xor _ o | .shl _ o | .shr _ o | .sar _ o | .ror _ o | .min _ o | .minu _ o | .max _ o | .maxu _ o | .clz _ o | .ctz _ o
  | .popc _ o | .slt _ o | .sltu _ o | .sel _ o | .sfadd _ o | .sfsub _ o | .sfmul _ o | .sffma _ o | .sfmin _ o | .sfmax _ o
  | .sfcmp _ o | .sfcvt _ o => RR.reads o
  | .addi _ o | .andi _ o | .ori _ o | .xori _ o | .shli _ o | .shri _ o | .sari _ o | .sext _ o => [.s o.sa]
  | .movk _ o => [.s o.sd]
  | .ldB o | .ldBu o | .ldH o | .ldHu o | .ldW o | .ldWu o | .ldD o => [.s o.base]
  | .stB o | .stH o | .stW o | .stD o => [.s o.base, .s o.reg]
  | .ataddW o | .ataddD o | .atminW o | .atminD o | .atmaxW o | .atmaxD o | .atandW o | .atandD o | .atorW o | .atorD o
  | .atxorW o | .atxorD o | .atswpW o | .atswpD o | .atcasW o | .atcasD o => AT.reads o
  | .vldt o | .vldts o | .vgtht o => [.s o.a, .s o.b]
  | .vstt o | .vins o => [.v o.v, .s o.a, .s o.b]
  | .vext o => [.v o.v, .s o.b]
  | .vfma _ o | .vfms _ o => VE.reads3 o
  | .vadd _ o | .vsub _ o | .vmul _ o | .vmin _ o | .vmax _ o | .vand _ o | .vor _ o | .vxor _ o | .vshl _ o | .vshr _ o
  | .vsar _ o | .vcmp _ o | .vsel _ o | .vclmp _ o => VE.reads2 o
  | .vabs _ o | .vneg _ o | .vnot _ o | .vcvt _ o | .vmov _ o | .vreds _ o | .vredm _ o | .vscan _ o | .vrcp o | .vrsq o | .vsqrt o
  | .vexp2 o | .vlog2 o | .vtanh o => VE.reads1 o
  | .vsplat _ o => [.s o.va, .p o.pg]
  | .viota _ o => [.s o.va, .s o.vb, .p o.pg]
  | .vsplati _ o => [.p o.pg]
  | .xperm o | .xpermScat o | .xzip o | .xunzip o => XB.readsV o
  | .xrot o | .xbcst o => XB.readsS o
  | .xcmpr o | .xexpd o => XB.reads1 o
  | .tload o | .tstore o | .tckpt o => [.v o.rcd, .s o.base]
  | .tfill o | .tscale o | .tsqld o => [.s o.x]
  | .fwait o | .fpost o | .fpostr o | .fset o | .frd o | .fence o | .tmwait o | .tmwaitRel o => [.s o.sa]
  | _ => []

/-- The register itself behind an encoded one (R103, R104). -/
def Ctx.phys (c : Ctx) : RegRef → RegRef
  | .s n => .s n
  | .v n => .v (physV c.vrb n)
  | .p n => .p (physP c.prb n)

/-- The cycle in which a bundle that reads `l` issues when its context has the turn at `cyc`: after the context's last bundle, and
not before the results it reads are complete (R45, R53, R152, R180). -/
def Ctx.issueCyc (c : Ctx) (cyc : Nat) (l : List RegRef) : Nat :=
  (c.flight.filter fun f => !f.dst.const && l.any fun r => c.phys r == f.dst).foldl (fun m f => max m f.due) (max cyc (c.issued + 1))

end Sys2Proof.Machine
end

