-- ==== Sys2Proof/Machine/Bundle.lean ====
section
/-! DEFINITION. The bundle: opening it, executing its slots on working state, and closing it, where it faults, delivers a deferred fault,
waits, or commits all its slots (spec/03 R46, R53, R54, R58 to R62; spec/05 R106 to R113, R120, R121; spec/15 R375 to R382). -/

namespace Sys2Proof.Machine

/-- The frame of a bundle that begins. -/
def frameOf (w : BitVec 320) (cyc : Nat) (c : Ctx) : Frame where
  pre := c
  bits := w
  faults := []
  sticky := []
  after := .next
  flight := []
  cyc := cyc
  stall := false
  unissued := false
  park := .none
  ask := none
  fullHold := false
  escalate := false
  killv := 0
  killp := 0
  wrv := 0
  wrp := 0
  readv := 0
  csrv := 0
  csrp := 0
  endsRegion := false
  stores := []
  storing := false
  acquire := false
  drains := false
  flushBefore := false
  flushAfter := false
  waitsOn := none
  names := []
  waitsXfer := []
  entry := none

/-- The focused context begins the bundle w with the instructions l; the flags of operations that completed before it stand (R121). -/
def openBundle (w : BitVec 320) (l : List Instr) (s : State) : State :=
  let cyc := s.ctx.issueCyc (coreAt s s.cur.core).cyc (l.flatMap reads)
  let c := s.ctx.landFlags cyc
  { s with ctx := c, frame := some (frameOf w cyc c) }

/-! ### Deferred faults (R381, R382) -/

/-- Where an entry's number stands in window order: before the lowest number from its place on, as reverted originals have high numbers at an old
place (R287, R381). -/
def orderIn : List Entry → Nat → Nat
  | [], n => n
  | e :: l, n => if e.n == n then l.foldl (fun m f => Nat.min m f.n) n else orderIn l n

/-- The faults that are owed, with their entries, in window order (R381). -/
def owedList (c : Ctx) : List (Trap × Entry) :=
  let parked := c.win.filterMap fun e => match e.owed with
    | some t => if e.st == .parked && c.delivered != some e.n then some (t, e) else none
    | none => none
  let missed := c.missed.map fun e => ((⟨cDeadline, .d, 0, 0, [e.dl.getD 0]⟩ : Trap), e)
  sortBy (fun a b => decide (orderIn c.win a.2.n ≤ orderIn c.win b.2.n)) (parked ++ missed)

/-- The bundle is a delivery point for an owed fault (R381). -/
def deliveryPoint (f : Frame) (h : Header) (e : Entry) : Bool :=
  f.pre.fresh || f.flushBefore || f.flushAfter || h.fl || f.fullHold || (f.names.any fun r => e.names.contains r)
    || (match f.waitsOn, e.flag with
      | some a, some b => a == b
      | _, _ => false)
    || (match f.entry with
      | some t => t.dl.isSome
      | none => false)
    || f.waitsXfer.contains e.n

/-- The earliest PC among an entry's originals, which stand in program order (R287). -/
def originPc (e : Entry) : Pc := if e.rule.isSome then (e.orig.head?.map Orig.pc).getD e.pc else e.pc

/-- Where a deferred fault is delivered: at the bundle at which the context stands (R377). -/
def deferAt (e : Entry) (pc : Pc) : TrapAt := ⟨originPc e, pc, pc, some (e.slot, e.rule, e.orig), some e.n⟩

/-! ### What a bundle reports (R375) -/

/-- The trap of a bundle whose slots raised causes: the first slot's cause, every slot with that cause in the mask. -/
def slotTrap (l : List SlotFault) : Option Trap :=
  match l with
  | [] => none
  | a :: _ =>
    let same := l.filter fun b => b.trap.code == a.trap.code
    let mask := same.foldl (fun m b => m ||| slotBit b.sl) 0
    let opnd := if a.trap.code == cFpException then
        (same.foldl (fun w b => w ||| wordAt b.trap.opnd 0) 0) :: a.trap.opnd.drop 1
      else a.trap.opnd
    some { a.trap with mask := mask, opnd := opnd }

/-- The 40 bytes of a bundle as OR0 to OR4 (R380). -/
def bundleOpnd (w : BitVec 320) : List Word := (List.range 5).map fun k => w.extractLsb' (64 * k) 64

/-- A VT access to a tile: no rule joins entries that name it across the access, and held ones are released (R175, R286). -/
def flushTile (c : Ctx) (r : TRef) : Ctx :=
  { c with flushed := true
           win := c.win.map fun e => if (e.names ++ e.frees).contains r then { e with shut := true, st := if e.st == .held then .pending else e.st } else e }

/-- Room for a spilled tile: its storage where it is free, else one tile is evicted (R315, R316). -/
def reloadTile (s : State) (c : CoreId) (t : Tile) (k : Nat) : State :=
  if hasRoom s c t then freeSlot (giveRoom s c t) t.dom k
  else match evictable s c t.lvl with
    | [] => s
    | u :: _ => (spillTile s c u).getD s

/-- A parked tile is woken and a spilled tile reloaded (R175). -/
def touchTile (s : State) (x : CtxId) (r : TRef) : State :=
  let s := modCtx s x fun c => flushTile c r
  match r with
  | .grp _ => s
  | .own tid => match tileAt s x.core tid with
    | none => s
    | some t => match t.st with
      | .parked => wakeTile s x.core t
      | .spilled k => reloadTile s x.core t k
      | _ => s

/-- When an effect of a bundle that commits nothing stands: while it waits, before its access leaves the package, or when it takes a trap. -/
inductive Abort where
  | waits
  | asks
  | traps (code : BitVec 8)
  deriving DecidableEq, Repr

/-- A count of consumed poison, of a parity error or of a lost home belongs to the attempt that reports its cause (R115, R179, R192, R207). -/
def Sticky.stands (a : Abort) (k : Sticky) : Bool :=
  match a, k with
  | _, .touch _ => true
  | _, .throttle _ => true
  | _, .walk _ _ _ => true
  | .waits, _ => false
  | .asks, .request _ _ => true
  | .asks, _ => false
  | .traps code, .count _ n => if n == 9 then code == cPoison else if n == 6 then code == cParity else true
  | .traps code, .lost _ _ => code == cPoison
  | .traps _, .request _ _ => true

/-- Effects that stand although the bundle commits nothing; a bundle that waits takes the causes of its walks when it no longer does. -/
def replaySticky (s : State) (c : CoreId) (a : Abort) (l : List Sticky) : State :=
  (l.filter (Sticky.stands a)).foldl (fun s k => match k with
    | .touch r => touchTile s s.cur r
    | .throttle t => throttleEvent s c s.ctx.dom t
    | .walk dom va acc => match pageWalk s c dom (groupWord s.ctx.grp) va acc, a with
      | (.error _, _), .waits => s
      | (_, t), _ => t
    | .count d n => countErr s d n
    | .request d p => countRequest s d p
    | .lost d va => readLost s d s.ctx.dom (va.setWidth 64) (groupWord s.ctx.grp)) s

/-- The banks that a waiting bundle reads start their wake; a retention bank wakes in 8 cycles (R110, R111). -/
def wakeBanks (c : Ctx) (readv : BitVec 32) (cyc : Nat) : Ctx :=
  { c with vbank := Vector.ofFn fun b : Fin 8 =>
    let k := c.vbank[b.val]
    if (readv >>> (4 * b.val)) &&& 15 != 0 && k.st == .retention then { k with st := .waking, last := cyc, ready := cyc + 8 } else k }

/-- The trap that a bundle takes at its start (R375 to R378). -/
def bundleTrap (s : State) (t : Trap) : State :=
  let pc := s.ctx.pc
  let back := match t.del, s.ctx.region.shadow with
    | .b, some _ => s.ctx.region.start
    | _, _ => pc
  deliverTrap (s.onCtx fun c => { c with reply := [], again := none }) s.cur t (TrapAt.plain pc back back)

/-! ### Committing -/

/-- The region of a bundle (R60 to R62): the hardware ends it before a 257th bundle, a 17th store, whether or not it succeeds, or an acquire load
that finds stores in it (R262). -/
def regionBreak (c : Ctx) (f : Frame) : Bool :=
  c.region.shadow.isSome && (decide (256 ≤ c.region.count) || (f.storing && decide (16 ≤ c.region.stores.length))
    || (f.acquire && !c.region.stores.isEmpty))

/-- A parity cause where the hardware has ended the region before the bundle: no register is written inside the region that opens with it (R115). -/
def unwritten (ended : Bool) (t : Trap) : Trap :=
  if ended && t.code == cParity then { t with opnd := t.opnd.map fun w => w &&& ~~~256 } else t

/-- The region ends before a bundle that waits: as above, or its stores leave for an access of the bundle that comes after them (R143, R217, R269,
R327). A bundle that faults has performed nothing, and keeps it (R64). -/
def regionLeaves (c : Ctx) (f : Frame) : Bool := regionBreak c f || (c.region.shadow.isSome && f.drains && !c.region.stores.isEmpty)

/-- The focused context's buffered stores are performed now. -/
def drainStores (s : State) : State :=
  let c := s.ctx
  performStores { s with ctx := { c with region := { c.region with stores := [] } } } s.cur s.cur.core.die c.dom c.grp c.region.stores

/-- The masks after a bundle (R106, R109). -/
def liveAfterV (f : Frame) : BitVec 32 := ((f.pre.livev &&& ~~~f.killv) ||| f.wrv) &&& ~~~f.csrv
def liveAfterP (f : Frame) : BitVec 16 := (((f.pre.livep &&& ~~~f.killp) ||| f.wrp) &&& ~~~f.csrp) ||| 1

/-- The banks after the bundle's accesses: a write to a bank that is not full starts its wake (R110, R111); a kill of the last live
register of a retention bank starts its count. -/
def banksAfter (f : Frame) (c : Ctx) (livev : BitVec 32) (cyc : Nat) : Vector VBank 8 :=
  Vector.ofFn fun b : Fin 8 =>
    let k := c.vbank[b.val]
    let part (m : BitVec 32) : Bool := bankPart m b
    if part f.wrv && k.st == .off then { k with st := .waking, last := cyc, ready := cyc + 24 }
    else if part f.wrv && k.st == .retention then { k with st := .waking, last := cyc, ready := cyc + 8 }
    else if part (f.wrv ||| f.readv) then { k with last := cyc }
    else if k.st == .retention && part f.pre.livev && !part livev then { k with killed := cyc }
    else k

/-- Three commits after a write, operations take it (R120). -/
def Ctx.shiftEff (c : Ctx) : Ctx := { c with eff := c.effq[0], effq := #v[c.effq[1], c.effq[2], c.effNow] }

/-- The committed context without its region: masks, banks, flags, the effective copies. -/
def commitCtx (f : Frame) (c : Ctx) (cyc : Nat) : Ctx :=
  let livev := liveAfterV f
  ({ c with livev := livev, livep := liveAfterP f, vbank := banksAfter f c livev cyc, fresh := false, fetched := [], reply := [], again := none, flight := c.flight ++ f.flight, issued := f.cyc }.landFlags (f.cyc + 1)).shiftEff

/-- The operating-point request of a header (R59, R362). -/
def takeRequest (h : Header) (s : State) : State :=
  if !h.opv then s
  else
    let t := { s with ctx := { s.ctx with opreq := h.op } }
    if opTarget t s.cur.core == opTarget s s.cur.core then t else opRequest t s.cur.core s.cur.slot

/-- A requirement point waits while a change that its request caused settles (R362). -/
def requirementWaits (h : Header) (s : State) : Bool :=
  h.opv && h.op == s.ctx.opreq && match (coreAt s s.cur.core).settle with
    | some v => v.by_.contains s.cur.slot || (opTarget s s.cur.core != v.target && v.next.contains s.cur.slot)
    | none => false

/-- A region that the hardware ends before the bundle (R62, R113, R262). -/
def breakRegion (f : Frame) (s : State) : State :=
  if regionBreak f.pre f then (drainStores s).onCtx fun c => c.closeRegion (coreAt s s.cur.core).cyc else s

/-- The bundle is entered in its region: counted, its stores buffered; at the region's end they are performed (R60, R61, R113). -/
def commitRegion (f : Frame) (s : State) : State :=
  let r := if s.ctx.region.shadow.isNone then ⟨f.pre.pc, 0, some f.pre.shadowOf, [], 0⟩ else s.ctx.region
  let s := s.onCtx fun c => { c with region := { r with count := r.count + 1, stores := r.stores ++ f.stores, vw := r.vw ||| f.wrv } }
  if f.endsRegion then (drainStores s).onCtx fun c => c.closeRegion (coreAt s s.cur.core).cyc else s

/-- The T entry enters the window between the bundle's flush points (R58, R286). -/
def commitEntry (f : Frame) (h : Header) (s : State) : State :=
  let before := f.flushBefore || h.fl || (match f.entry with
    | some e => e.dl.isSome
    | none => false)
  let after := f.flushAfter || (match f.entry with
    | some e => e.dl.isSome
    | none => false)
  let s := if before then s.onCtx Ctx.flush else s
  let s := match f.entry with
    | some e => enterWindow s s.cur e
    | none => s
  let s := if after then s.onCtx Ctx.flush else s
  if before || after then imbalance s s.cur else s

/-! ### SUSPEND, YIELD and HALT (R142, R145, R146, R382) -/

/-- The live handles of the focused context: the tile of a discarded one is live no more (R174, R315). -/
def liveHandles (s : State) : BitVec 24 :=
  liveBits (s.ctx.hmap.map fun h => h.filter fun n => (tileAt s s.cur.core n).any fun t => t.st != .discarded)

/-- The state that the bundle leaves holds a register or an own tile that SUSPEND refuses (R21). -/
def leavesLive (f : Frame) (s : State) : Bool := liveAfterV f != 0 || liveAfterP f != 1 || liveHandles s != 0

/-- The live-state-at-suspend fault (R380). -/
def liveTrap (f : Frame) (s : State) : Trap :=
  ⟨cLiveAtSuspend, .p, 1, 0, [(liveAfterV f).setWidth 64, (liveAfterP f).setWidth 64, (liveHandles s).setWidth 64]⟩

/-- The ready queue of the die holds a record of the domain, at a priority or higher, that the slot's core may take up once the slot is idle
(R23, R145). -/
def recordWaits (s : State) (x : CtxId) (dom : BitVec 12) (pri : BitVec 3) : Bool :=
  (dieAt s x.core.die).contq.any fun e => recOwner e.record == dom && pri.ule (recLevel e.record) && canTakeUp (putCtx s x Ctx.reset) x.core e

/-- A YIELD acts as SUSPEND (R145, R382, R386). -/
def yieldSuspends (s : State) (f : Frame) : Bool :=
  f.pre.te && !leavesLive f s && ((match f.pre.preq with
    | some q => q.grade == 0
    | none => false) || recordWaits s s.cur f.pre.dom f.pre.pri)

/-- The frame with what SUSPEND, YIELD and HALT come to: a fault, or the bundle's end; the wait for the window comes after the bundle. -/
def resolveEnd (w : State) (f : Frame) : Frame :=
  let f := if f.after == .yield && yieldSuspends w f then { f with after := .suspend } else f
  if f.after == .suspend && (!f.pre.te || leavesLive f w) then { f with faults := ⟨.c, liveTrap f w⟩ :: f.faults } else f

/-- HALT while TE = 0 discards the parked entries (R382). -/
def Ctx.dropParked (c : Ctx) : Ctx := if c.te then c else { c with win := c.win.filter fun e => !(e.st == .parked) }

/-- What follows the bundle: the next bundle, a transfer of control, the software trap, TRET (R53, R147, R148, R384). -/
def commitAfter (f : Frame) (s : State) : State :=
  let next := f.pre.pc + 1
  match f.after with
  | .next => s.onCtx fun c => { c with pc := next }
  | .goto pc => s.onCtx fun c => { c with pc := pc }
  | .trap code =>
    deliverTrap (s.onCtx fun c => { c with pc := next }) s.cur ⟨cSoftware, .p, 0, 0, [code.setWidth 64]⟩ (TrapAt.plain f.pre.pc f.pre.pc next)
  | .tret => match s.ctx.occ with
    | .refl h slot => reflReturn s s.cur h slot
    | _ => imbalance (s.onCtx fun c => (c.tret (coreAt s s.cur.core).cyc).passBar s) s.cur
  | .suspend => s.onCtx fun c => { c.awaits .suspend with pc := next, wdc := 0 }
  | .yield => s.onCtx fun c => { c with pc := next, yieldTo := f.cyc + 65, wdc := 0 }
  | .halt => s.onCtx fun c => { c.dropParked.awaits .halt with pc := next, wdc := 0 }

/-- All slots of the bundle commit. -/
def commitBundle (f : Frame) (h : Header) (s : State) : State :=
  if !s.ctx.occupied then { s with frame := none }
  else
  let cyc := (coreAt s s.cur.core).cyc
  let s := breakRegion f (takeRequest h { s with frame := none })
  commitAfter f (commitEntry f h (commitRegion f (s.onCtx fun c => commitCtx f c cyc)))

/-- A bundle that waits: its flush stands, its banks wake, a full window is noted; the context is not ready in this cycle (R111, R242, R279,
R286, R359). -/
def waitBundle (f : Frame) (s : State) : State :=
  if f.escalate then startSave s s.cur 2 false
  else
  let s := if f.flushBefore then s.onCtx Ctx.flush else s
  let s := if f.fullHold then releaseHeld s s.cur else s
  let cyc := (coreAt s s.cur.core).cyc
  imbalance (s.onCtx fun c => { wakeBanks c f.readv cyc with wait := f.park, blocked := true, fullHeld := c.fullHeld || f.fullHold }) s.cur

/-- The bundle's access outside leaves; the context waits for its reply, and nothing of the bundle is committed (R54, R214, R218, R266, R296). -/
def askBundle (a : Ask) (w : BitVec 320) (s : State) : State :=
  let s := match a.op with
    | .steal _ _ _ => s
    | _ => countRequest s s.cur.core.die a.at_
  (sendAsk s s.cur.core.die a.at_ a.size a.op (.bundle s.cur a.key a.va)).onCtx fun c => { c with wait := .outside, again := some w, blocked := true }

/-- The owed fault that a bundle delivers: the oldest, when any makes the bundle a delivery point (R381). A bundle whose access outside has been
performed is none (log entry 6). -/
def owedAt (s0 : State) (f : Frame) (h : Header) : Option (Trap × Entry) :=
  if s0.ctx.te && s0.ctx.reply.isEmpty && (owedList s0.ctx).any (fun p => deliveryPoint f h p.2) then (owedList s0.ctx).head? else none

/-- Closes the bundle in progress: `s0` is the state before it, `w` the state after its slots (R54, R375). A bundle that cannot issue yet raises
nothing of its own. -/
def closeBundle (s0 w : State) : State :=
  match w.frame with
  | none => w
  | some f =>
    let f := resolveEnd w f
    let h := Header.ofBits (f.bits.extractLsb' 0 40)
    let base (ends : Bool) : State := if ends then endRegion s0 s0.cur else s0
    let stuck (a : Abort) : State :=
      replaySticky (base (match a with
        | .traps _ => regionBreak s0.ctx f
        | _ => regionLeaves s0.ctx f)) s0.cur.core a f.sticky
    if f.after == .tret && s0.ctx.te then bundleTrap (stuck (.traps cIllegalOpcode)) ⟨cIllegalOpcode, .p, 1, 0, bundleOpnd f.bits⟩
    else match if f.unissued then none else slotTrap f.faults with
    | some t => bundleTrap (stuck (.traps t.code)) (unwritten (regionBreak s0.ctx f) t)
    | none => match owedAt s0 f h with
      | some (t, e) => deliverTrap (stuck (.traps t.code)) s0.cur t (deferAt e s0.ctx.pc)
      | none =>
        if f.stall || requirementWaits h s0 then waitBundle f (stuck .waits)
        else match f.ask with
        | some a => askBundle a f.bits (stuck .asks)
        | none => commitBundle f h w

/-- One slot's instruction: inside a bundle in progress it acts on the working state; alone it is a bundle of one slot under a header without
annotation (log entry 7). -/
def asSlot (i : Instr) (eff : State → State) (s : State) : Host.Outcome State Fault Refusal :=
  match s.frame with
  | some _ => .next (eff s)
  | none => .next (closeBundle s (eff (openBundle (encodeBundle i) [i] s)))

end Sys2Proof.Machine
end

