-- ==== Sys2Proof/Machine/Control.lean ====
section
/-! DEFINITION. Branches, calls, hardware loops, TRAP and TRET (spec/06 R138 to R141, R147, R148; spec/15 R387). -/

namespace Sys2Proof.Machine

/-! ### Branches and calls -/

/-- The branch's PC. -/
def State.pcNow (s : State) : Pc := s.src.pc

/-- What follows the bundle. -/
def State.follow (s : State) (a : After) : State := s.onFrame fun f => { f with after := a }

/-- A transfer to an exact target; one outside 0 to 2^40 - 1 takes the alignment fault (R139). -/
def State.jumpTo (s : State) (t : Int) : State :=
  if t < 0 || 2 ^ 40 ≤ t then s.raise .c (precise cAlignment [BitVec.ofInt 64 t]) else s.follow (.goto (BitVec.ofInt 40 t))

/-- PC plus an offset, exactly (R138). -/
def pcPlus {w : Nat} (pc : Pc) (off : BitVec w) : Int := (pc.toNat : Int) + off.toInt

/-- S[sa] plus an offset, exactly, S[sa] without sign (R138; DESIGN CHOICE, log entry 63; the same for S[31] in RET). -/
def regPlus {w : Nat} (a : Word) (off : BitVec w) : Int := (a.toNat : Int) + off.toInt

/-- The link of a call (R138). -/
def State.linkNext (s : State) : State := s.setS 31 (s.pcNow.setWidth 64 + 1)

/-- BR (R138). -/
def execBr (o : JO) (s : State) : Host.Outcome State Fault Refusal :=
  asSlot (.br o) (fun s => s.jumpTo (pcPlus s.pcNow o.off)) s

/-- The conditions of BRC by code: EQ, NE, LT, GE, LTU, GEU (R52, R138). -/
def brCond (cond : BitVec 3) (a b : Word) : Bool :=
  if cond = 0 then a == b else if cond = 1 then a != b
  else if cond = 2 then a.slt b else if cond = 3 then !a.slt b
  else if cond = 4 then a.ult b else !a.ult b

/-- BRC (R138). -/
def execBrc (o : BC) (s : State) : Host.Outcome State Fault Refusal :=
  asSlot (.brc o) (fun s =>
    if brCond o.cond (s.sv o.sa) (s.sv o.sb) then s.jumpTo (pcPlus s.pcNow o.off) else s.jumpTo ((s.pcNow.toNat : Int) + 1)) s

/-- JMP (R138). -/
def execJmp (o : JR) (s : State) : Host.Outcome State Fault Refusal :=
  asSlot (.jmp o) (fun s => s.jumpTo (regPlus (s.sv o.sa) o.off)) s

/-- CALL (R138). -/
def execCall (o : JO) (s : State) : Host.Outcome State Fault Refusal :=
  asSlot (.call o) (fun s => s.linkNext.jumpTo (pcPlus s.pcNow o.off)) s

/-- CALLR (R138, R139). -/
def execCallr (o : JR) (s : State) : Host.Outcome State Fault Refusal :=
  asSlot (.callr o) (fun s => s.linkNext.jumpTo (regPlus (s.sv o.sa) o.off)) s

/-- RET (R138, R139). -/
def execRet (s : State) : Host.Outcome State Fault Refusal :=
  asSlot .ret (fun s => s.jumpTo ((s.sv 31).toNat : Int)) s

/-! ### Hardware loops -/

/-- A loop drain becomes an immediate pre-emption at the boundary before the bundle (R387). -/
def State.escalateDrain (s : State) : State :=
  if s.src.draining then s.onFrame fun f => { f with stall := true, escalate := true } else s

/-- LOOPI (R140). -/
def execLoopi (o : LI) (s : State) : Host.Outcome State Fault Refusal :=
  asSlot (.loopi o) (fun s =>
    (s.onCtx fun c => { c with lc := s.sv o.sa, esc := o.esc, lrp := s.pcNow + 1 }).escalateDrain) s

/-- Rotation, p8 under the new PRB and the branch back (R105, R141). -/
def State.loopBack (s : State) (lc : Word) (esc : BitVec 4) (p8 : PReg) : State :=
  let c := s.src
  let prb := c.prb - 1
  let s := s.onCtx fun d => { d with lc := lc, esc := esc, vrb := c.vrb - 1, prb := prb }
  (s.setPAt prb 8 p8).follow (.goto c.lrp)

/-- The fall-through of a loop that drains: the strand is saved at the boundary that follows (R387). -/
def State.drained (s : State) : State :=
  if s.src.draining then
    (s.onCtx fun c => { c with saving := some ⟨1, false, none⟩, draining := false, preq := none }).onFrame fun f =>
      { f with endsRegion := true, flushAfter := true }
  else s

/-- LOOP (R141). -/
def loopEffect (s : State) : State :=
  let c := s.src
  if c.lc ≠ 0 then s.loopBack (c.lc - 1) c.esc (BitVec.allOnes 128)
  else if c.esc ≠ 0 then s.loopBack c.lc (c.esc - 1) 0
  else s.drained

/-- LOOP (R141). -/
def execLoop (s : State) : Host.Outcome State Fault Refusal := asSlot .loop loopEffect s

/-! ### Traps and return -/

/-- TRAP (R147): the software trap follows the bundle. -/
def execTrap (o : TC) (s : State) : Host.Outcome State Fault Refusal :=
  asSlot (.trap o) (fun s => s.onFrame fun f => { f with after := .trap o.code, endsRegion := true, flushBefore := true }) s

/-- TRET (R148): the return follows the bundle; with TE = 1 its bundle is illegal when it is decoded. -/
def execTret (s : State) : Host.Outcome State Fault Refusal :=
  asSlot .tret (fun s => s.onFrame fun f => { f with after := .tret, endsRegion := true }) s

end Sys2Proof.Machine
end

