-- ==== Sys2Proof/Machine/Csr.lean ====
section
/-! DEFINITION. Control and status registers and the CSR instructions (spec/05 R109, R112, R116 to R121; spec/06 R149, R150; spec/04 R83). -/

namespace Sys2Proof.Machine

/-! ### The CSR map (R117 to R119) -/

def BankSt.code : BankSt → BitVec 2
  | .off => 0
  | .retention => 1
  | .full => 2
  | .waking => 3

/-- BANKST (R112): two bits per bank, bank 0 lowest. -/
def bankst (c : Ctx) : BitVec 16 :=
  let code (b : Fin 8) : Nat := (c.vbank[b.val].st.code).toNat
  BitVec.ofNat 16 ((List.finRange 8).foldl (fun w b => w + code b * 4 ^ b.val) 0)

/-- CORE and DIE: the virtual numbers of the core under its domain (R117). -/
def virtCore (s : State) (c : Ctx) : BitVec 6 := ((virtOf s c.dom s.core).map MapEntry.vcore).getD 0
def virtDie (s : State) (c : Ctx) : BitVec 2 := ((virtOf s c.dom s.core).map MapEntry.vdie).getD 0

/-- What a CSR reads as, by number (R117). -/
def csrRead (s : State) (n : BitVec 12) : Word :=
  let c := s.src
  if n = 0x000 then c.cst
  else if n = 0x001 then c.fpc.setWidth 64
  else if n = 0x002 then c.vrb.setWidth 64
  else if n = 0x003 then c.prb.setWidth 64
  else if n = 0x004 then c.lc
  else if n = 0x005 then c.esc.setWidth 64
  else if n = 0x006 then c.lrp.setWidth 64
  else if n = 0x007 then c.lcs
  else if n = 0x010 then c.tvb.setWidth 64
  else if n = 0x011 then c.trp.setWidth 64
  else if n = 0x012 then c.tcause.setWidth 64
  else if n = 0x013 then c.tepc.setWidth 64
  else if n = 0x014 then c.tscr
  else if n = 0x020 then (c.depth ++ c.dom).setWidth 64
  else if n = 0x021 then c.grp.setWidth 64
  else if n = 0x022 then c.strix.setWidth 64
  else if n = 0x023 then (virtCore s c).setWidth 64
  else if n = 0x024 then (virtDie s c).setWidth 64
  else if n = 0x030 then tbView s s.core.die c.dom
  else if n = 0x040 then c.ebud.setWidth 64
  else if n = 0x041 then (coreAt s s.core).opCur.setWidth 64
  else if n = 0x050 then c.livev.setWidth 64
  else if n = 0x051 then (c.livep ||| 1).setWidth 64
  else if n = 0x052 then (bankst c).setWidth 64
  else 0

/-- The RW bits of a CSR (R117 to R119). -/
def csrRw (n : BitVec 12) : Word :=
  if n = 0x000 then 0x44
  else if n = 0x001 then 0x3FFF
  else if n = 0x002 then 0xF
  else if n = 0x003 then 0x7
  else if n = 0x004 || n = 0x007 || n = 0x014 then BitVec.allOnes 64
  else if n = 0x005 then 0xF
  else if n = 0x006 || n = 0x010 || n = 0x013 then 0xFFFFFFFFFF
  else if n = 0x011 then 0xFFFFFFFFFF80
  else 0

/-- The W1C bits of a CSR. -/
def csrW1c (n : BitVec 12) : Word :=
  if n = 0x000 then 0x80 else if n = 0x050 then 0xFFFFFFFF else if n = 0x051 then 0xFFFE else 0

/-- The bits of fields that are RO without being reserved, in the CSRs that can be written. -/
def csrRo (n : BitVec 12) : Word := if n = 0x000 || n = 0x051 then 1 else 0

/-- How a CSR instruction writes. -/
inductive CsrHow where
  | write | set | clear
  deriving DecidableEq, Repr

/-- The value that a write leaves in a CSR (R116). -/
def csrNew (n : BitVec 12) (how : CsrHow) (old v : Word) : Word :=
  let rw := csrRw n
  let x := match how with
    | .write => (old &&& ~~~rw) ||| (v &&& rw)
    | .set => old ||| (v &&& rw)
    | .clear => old &&& ~~~(v &&& rw)
  match how with
  | .clear => x
  | .write => x &&& ~~~(v &&& csrW1c n)
  | .set => x &&& ~~~(v &&& csrW1c n)

/-- A non-zero value for a reserved bit, or a reserved RM (R83, R116). -/
def csrReserved (n : BitVec 12) (how : CsrHow) (old v : Word) : Bool :=
  (!(how == .clear) && v &&& ~~~(csrRw n ||| csrW1c n ||| csrRo n) != 0)
    || (n == 0x001 && decide (6 ≤ ((csrNew n how old v).extractLsb' 0 3).toNat))

/-- The W1C bits of a CSR that an instruction's operand names: a CSRCB names none (R109, R116). -/
def csrKill (n : BitVec 12) (how : CsrHow) (v : Word) : Word :=
  match how with
  | .clear => 0
  | .write => v &&& csrW1c n
  | .set => v &&& csrW1c n

/-- Writes the RW and W1C fields of a CSR of the focused context; the registers that a write of LIVEV or LIVEP names are dead after the bundle,
whatever the bundle writes them (R106, R109, R150). -/
def csrPut (n : BitVec 12) (kill x : Word) (s : State) : State :=
  if n = 0x000 then s.onCtx fun c => { c with nf := x.getLsbD 7, rwp := x.getLsbD 6, te := x.getLsbD 2 }
  else if n = 0x001 then s.onCtx fun c => { c with fpc := x.setWidth 14 }
  else if n = 0x002 then s.onCtx fun c => { c with vrb := x.setWidth 4 }
  else if n = 0x003 then s.onCtx fun c => { c with prb := x.setWidth 3 }
  else if n = 0x004 then s.onCtx fun c => { c with lc := x }
  else if n = 0x005 then s.onCtx fun c => { c with esc := x.setWidth 4 }
  else if n = 0x006 then s.onCtx fun c => { c with lrp := x.setWidth 40 }
  else if n = 0x007 then s.onCtx fun c => { c with lcs := x }
  else if n = 0x010 then s.onCtx fun c => { c with tvb := x.setWidth 40 }
  else if n = 0x011 then s.onCtx fun c => { c with trp := x.setWidth 48 }
  else if n = 0x013 then s.onCtx fun c => { c with tepc := x.setWidth 40 }
  else if n = 0x014 then s.onCtx fun c => { c with tscr := x }
  else if n = 0x050 then s.onFrame fun f => { f with csrv := f.csrv ||| kill.setWidth 32 }
  else if n = 0x051 then s.onFrame fun f => { f with csrp := f.csrp ||| kill.setWidth 16 }
  else s

/-- CSRs whose writes keep the region open (R60, R150). -/
def csrShadowed (n : BitVec 12) : Bool := n.ult 8 && n != 0 && n != 1

/-- The reserved-field cause of the bundle in progress (R380). -/
def State.raiseReserved (s : State) (sl : SlotId) : State :=
  s.raise sl (precise cReservedField (match s.frame with
    | some f => bundleOpnd f.bits
    | none => []))

/-- The permission cause without an address (R118, R151). -/
def State.raisePermission (s : State) (sl : SlotId) : State := s.raise sl (precise cPermission [0])

/-- A CSR write (R116, R149, R150). -/
def csrWrite (o : CR) (how : CsrHow) (s : State) : State :=
  let old := csrRead s o.csr
  let v := s.sv o.sa
  let x := csrNew o.csr how old v
  if csrReserved o.csr how old v then s.raiseReserved .c
  else if o.csr = 0 && !(how == .clear) && v.getLsbD 6 && !(domAt s s.src.dom).rallow then s.raisePermission .c
  else
    let s := (csrPut o.csr (csrKill o.csr how v) x s).setS o.sd old
    let s := if o.csr = 4 then s.escalateDrain else s
    if csrShadowed o.csr then s
    else s.onFrame fun f => { f with endsRegion := true, flushBefore := f.flushBefore || decide (o.csr.toNat ≤ 1) }

/-- CSRR (R149). -/
def execCsrr (o : CR) (s : State) : Host.Outcome State Fault Refusal :=
  asSlot (.csrr o) (fun s => s.setS o.sd (csrRead s o.csr)) s

/-- CSRW (R149). -/
def execCsrw (o : CR) (s : State) : Host.Outcome State Fault Refusal := asSlot (.csrw o) (csrWrite o .write) s

/-- CSRSB (R149). -/
def execCsrsb (o : CR) (s : State) : Host.Outcome State Fault Refusal := asSlot (.csrsb o) (csrWrite o .set) s

/-- CSRCB (R149). -/
def execCsrcb (o : CR) (s : State) : Host.Outcome State Fault Refusal := asSlot (.csrcb o) (csrWrite o .clear) s

end Sys2Proof.Machine
end

