-- ==== Sys2Proof/Machine/Order.lean ====
section
/-! DEFINITION. Program order and ordering operations of a strand: the entries that an access waits for (spec/11 R258 to R266, R269, R271;
spec/15 R382), scopes and ceilings (R265, R270), addresses of scalar accesses (spec/09 R211) and their translation. -/

namespace Sys2Proof.Machine

/-! ### Window entries that later accesses wait for -/

/-- The entry reaches device memory, host memory or a D tile (R269). -/
def Entry.reaches (e : Entry) : Bool :=
  isTransfer e.op || e.names.any fun r => match r with
    | .own _ => false
    | .grp _ => true

/-- An earlier entry holds a later one back: on its unit, on a busy bit, at the die store, as a replacement of the same rewrite (R224, R271, R283,
R382). -/
def holdsUp (f e : Entry) : Bool :=
  blocks f e || orders f e || carrierOf f.op == carrierOf e.op || (e.rule.isSome && f.rule.isSome && f.gid == e.gid)

/-- The scales that an MMA has still to draw (R241). -/
def scalesLeft (s : State) (x : CtxId) (e : Entry) : Nat :=
  if e.op != 0x10 then 0
  else match entryTile s x e.ta, entryTile s x e.tb with
    | some a, some b => scaleNeed s x e a b * (a.kBlocks - e.prog)
    | _, _ => 0

/-- The scales that are queued and those of TSQLDs that are not held back do not reach as far as an MMA, while a TSQLD is held back (R242, R382). -/
def scalesShort (s : State) (x : CtxId) (win : List Entry) (l : List Nat) (e : Entry) : Bool :=
  let loads := win.filter fun f => f.op == 0x0D
  e.op == 0x10 && loads.any (fun f => l.contains f.n) &&
    decide ((ctxAt s x).scq.length + ((loads.filter fun f => !l.contains f.n).map Entry.scaleCount).sum
      < ((earlier win e.n ++ [e]).map (scalesLeft s x)).sum)

/-- One pass over the window: what entries of the list hold back joins it. -/
def heldPass (s : State) (x : CtxId) (win : List Entry) (l : List Nat) : List Nat :=
  win.foldl (fun l e =>
    if l.contains e.n then l
    else if ((earlier win e.n).any fun f => l.contains f.n && holdsUp f e) || scalesShort s x win l e then e.n :: l else l) l

/-- Parked entries and the entries that they hold back (R382); a pass per entry reaches them all. -/
def heldBack (s : State) (x : CtxId) (win : List Entry) (parked : List Nat) : List Nat :=
  win.foldl (fun l _ => heldPass s x win l) parked

/-- Entries that nothing waits for while TE = 0: those parked, and those behind them (R382). -/
def stuckEntries (s : State) (x : CtxId) (c : Ctx) : List Nat :=
  if c.te then [] else heldBack s x c.win ((c.win.filter fun e => e.st == .parked).map Entry.n)

/-- Earlier entries that reach memory or a D tile and are incomplete (R264, R269). -/
def waitReach (s : State) (x : CtxId) (c : Ctx) : List Nat :=
  (c.win.filter fun e => e.reaches && !(stuckEntries s x c).contains e.n).map Entry.n

/-- Earlier entries of the window that are incomplete. -/
def waitAll (s : State) (x : CtxId) (c : Ctx) : List Nat := (c.win.filter fun e => !(stuckEntries s x c).contains e.n).map Entry.n

/-- The home of the bytes at an address of a domain, when some page gives them one: an access that its page forbids has a home all the same. -/
def homeAt (s : State) (c : CoreId) (dom : BitVec 12) (va : BitVec 48) (acc : Access) : Option Nat :=
  match translate s c dom noStrand va acc with
  | .ok _ p _ => some (placeHome p)
  | .wait _ => none
  | .bad _ _ => match translate s c dom noStrand va .read with
    | .ok _ p _ => some (placeHome p)
    | .bad _ _ => none
    | .wait _ => none

/-- A transfer has unperformed events at a home (R261); where its tile is not allocated yet, its record gives the tile's shape (R220, R225). -/
def xferPending (s : State) (x : CtxId) (home : Nat) (e : Entry) : Bool :=
  isTransfer e.op &&
    let k := xferCtxOf s x e
    let shape := match entryTile s x e.td with
      | some t => (t.rows, t.cols)
      | none => (k.lay.size 1 * k.lay.size 2 * k.lay.size 3, k.lay.win 0)
    (restLines k shape.1 shape.2 e.prog).any fun l => homeAt s x.core k.dom (BitVec.ofInt 48 (64 * l)) (if k.load then .read else .write) == some home

/-- Earlier transfers with unperformed events at a home (R261). -/
def waitHome (s : State) (home : Nat) : List Nat :=
  let c := s.src
  ((c.win.filter fun e => isTransfer e.op && !(stuckEntries s s.cur c).contains e.n).filter fun e => xferPending s s.cur home e).map Entry.n

/-- The bundle waits for entries of the window before it can issue; a parked one among them, or one that holds one of them back, makes it a
delivery point (R381). -/
def State.waitFor (s : State) (l : List Nat) : State :=
  let parked := (s.src.win.filter fun p => p.st == .parked && (heldBack s s.cur s.src.win [p.n]).any l.contains).map Entry.n
  s.onFrame fun f => { f with stall := true, waitsXfer := f.waitsXfer ++ l ++ parked }

/-- The stores of the region are performed as soon as they leave it: none stalls, none goes to another package. -/
def regionLocal (s : State) : Bool := s.src.region.stores.all fun g => !storeStops s s.cur s.src.dom g && !(g.place s).isPkg

/-- An access or an ordering operation that waits for entries of the window and until every store of the strand is performed; while it waits, the
region's stores leave (R217, R262, R264, R269). -/
def State.afterStores (s : State) (l : List Nat) (k : State → State) : State :=
  if l.isEmpty && !storesOut s s.cur && regionLocal s then k s else (s.onFrame fun f => { f with drains := true }).waitFor l

/-- A relaxed access waits for earlier transfers and for stalled stores at the home of its bytes (R260, R261). -/
def State.afterHome (s : State) (p : Place) (k : State → State) : State :=
  match waitHome s (placeHome p) with
  | [] => if storeStalls s s.cur (some (placeHome p)) then s.hold else k s
  | l => s.waitFor l

/-! ### Scopes (R52, R265, R270) -/

/-- The widest scope that a ceiling code allows (R325). -/
def ceilScope (ceil : BitVec 2) : Nat := if ceil = 1 then 1 else if ceil = 2 then 2 else 3

/-- An ordering operation of a scope under the ceiling of the acting domain: narrowed with NF set, or the scope fault (R270). -/
def State.scoped (s : State) (sl : SlotId) (scope : Nat) : State :=
  let d := domAt s s.src.dom
  if scope ≤ ceilScope d.ceil then s
  else if d.cmode then s.raise sl (precise cScope [BitVec.ofNat 64 (scope + 16 * d.ceil.toNat)])
  else s.onCtx fun c => { c with nf := true }

/-! ### Addresses of scalar accesses (R211) -/

/-- S[base] + sext(imm20), exactly. -/
def lsAddr (s : State) (o : LS) : Int := ((s.sv o.base).toNat : Int) + o.imm.toInt

/-- What the two checks of R211 find. An address below 0 lies outside the virtual space as one of 2^48 or more does, and takes the same
page-not-present fault (DESIGN CHOICE, log entry 64). -/
def addrBad (ea : Int) (size : Nat) : Option (BitVec 8) :=
  if ea % (size : Int) ≠ 0 then some cAlignment else if ea < 0 || (2 ^ 48 : Int) ≤ ea then some cPageNotPresent else none

/-- A translation whose walk stands even when the bundle commits nothing (R186). -/
def xlat (s : State) (va : BitVec 48) (acc : Access) : Tr :=
  let c := s.core
  let dom := s.src.dom
  let hit := (tlbFind (coreAt s c).tlb dom va acc).isSome || (tlbFind (dieAt s c.die).tlb dom va acc).isSome
  translate (if hit then s else s.stick (.walk dom va acc)) c dom (groupWord s.src.grp) va acc

/-- The translation of an access that has been performed outside the package: it counts no more (R54). -/
def Tlb.used : Tlb := ⟨0, 0, 0, 0, false, false, false, 0, 0, 0, 0, false, false, 0⟩

/-- A scalar access that passed its checks, with the place of its bytes; the causes of R211 and of the translation are raised, a migrating page
holds the bundle. `trap` gives the access's trap for a memory cause. -/
def State.access (s : State) (ea : Int) (size : Nat) (acc : Access) (trap : BitVec 48 → AccFault → Trap)
    (k : State → BitVec 48 → Tlb → Place → State) : State :=
  match addrBad ea size with
  | some c =>
    if c = cAlignment then s.raise .s (precise cAlignment [BitVec.ofInt 64 ea])
    else s.raise .s (trap (BitVec.ofInt 48 ea) ⟨cPageNotPresent, false, none⟩)
  | none =>
    let va : BitVec 48 := BitVec.ofInt 48 ea
    match s.src.reply.find? fun r => r.key == 0 with
    | some r => k s va Tlb.used r.at_
    | none => match xlat s va acc with
      | .wait s => s.hold
      | .bad f s => s.raise .s (trap va f)
      | .ok t p s => k s va t p

/-! ### Bytes of the gated buffer (R61) -/

/-- The offset of a buffered store's byte at a place, when the store writes it. -/
def storeByte (s : State) (g : GStore) (p : Place) (i : Nat) : Option Nat :=
  let at_ (a b : Nat) : Option Nat := if a ≤ b + i && b + i < a + g.size then some (g.val.toNat / 256 ^ (b + i - a) % 256) else none
  match g.place s, p with
  | .mem d a, .mem e b => if d = e then at_ a b else none
  | .host a, .host b => at_ a.toNat b.toNat
  | .pkg q _ a, .pkg r _ b => if q = r then at_ a.toNat b.toNat else none
  | _, _ => none

/-- One byte as a load returns it: the youngest buffered store's, or memory's. -/
def forwardByte (s : State) (l : List GStore) (p : Place) (i mem : Nat) : Nat := l.foldl (fun b g => (storeByte s g p i).getD b) mem

/-- The bytes of a load with the buffered stores over them (R61). -/
def forward (s : State) (l : List GStore) (p : Place) (size v : Nat) : Nat :=
  (List.range size).foldl (fun a i => a + forwardByte s l p i (v / 256 ^ i % 256) * 256 ^ i) 0

/-- A loaded value as its register receives it (R212, R216). -/
def extendTo (size : Nat) (sgn : Bool) (v : Nat) : Word := if sgn then BitVec.ofInt 64 (intOf (8 * size) v) else BitVec.ofNat 64 (v % 256 ^ size)

/-! ### Poison at a scalar access (R207) -/

/-- A scalar access that meets poison: counted, and the cause where the domain's policy enables it. -/
def State.consume (s : State) (sl : SlotId) (va : BitVec 48) (rec : Word) : State :=
  let s := s.countSticky s.core.die 9
  if (domAt s s.src.dom).ptrap then s.raise sl ⟨cPoison, .p, 0, va, [rec]⟩ else s

/-- One request of a scalar access (R197, R370). -/
def State.request (s : State) (p : Place) : State := countRequest (s.stick (.request s.core.die p)) s.core.die p

/-- A read or an atomic at a lost home (R192, R207). -/
def State.lose (s : State) (va : BitVec 48) : State :=
  readLost (s.stick (.lost s.core.die va)) s.core.die s.src.dom (va.setWidth 64) (groupWord s.src.grp)

/-- The bytes of a read with their poison mark: from memory, zeros with poison from a lost home, a reply from outside the package, where the read is
made once for the bundle (R11, R54, R192, R214, R258, R266). -/
def State.readAt (s : State) (key size : Nat) (va : BitVec 48) (p : Place) (k : State → Nat → Bool → State) : State :=
  match p with
  | .mem d off => let r := readMem (s.request p) d off size; k r.st r.val r.pois
  | .lost _ => k ((s.request p).lose va) 0 true
  | _ => s.askFor ⟨key, .read, p, size, va⟩ fun s r => k s r.val r.pois

/-- The causes of reads at a list of addresses come before anything of the strand is performed for them (R64, R143, R327). -/
def State.readable (s : State) (sl : SlotId) (l : List Nat) (k : State → State) : State :=
  match l with
  | [] => k s
  | a :: l =>
    if s.answered then k s
    else if 2 ^ 48 ≤ a then s.raise sl (memTrap (BitVec.ofNat 48 a) ⟨cPageNotPresent, false, none⟩ false)
    else match xlat s (BitVec.ofNat 48 a) .read with
    | .wait s => s.hold
    | .bad f s => s.raise sl (memTrap (BitVec.ofNat 48 a) f false)
    | .ok _ _ s => s.readable sl l k

/-- A slot reads part of a record: its causes, page-not-present a rollback cause; a discarded page reads as zeros (R143, R193, R307). `loads`: the
read is a scalar load, which consumes poison (R207). -/
def State.readRec (s : State) (sl : SlotId) (loads : Bool) (key size : Nat) (va : BitVec 48) (k : State → Nat → State) : State :=
  match s.src.reply.find? fun r => r.key == key with
  | some r => k (if loads && r.pois then s.consume sl va 1 else s) r.val
  | none => match xlat s va .read with
  | .wait s => s.hold
  | .bad f s => s.raise sl (memTrap va f false)
  | .ok t p s =>
    if t.st == 1 then k (countReq (s.request p) s.core.die 3) 0
    else s.readAt key size va p fun s v pois => k (if loads && pois then s.consume sl va 1 else s) v

end Sys2Proof.Machine
end

