-- ==== Sys2Proof/Machine/LoadStore.lean ====
section
/-! DEFINITION. Scalar loads and stores (spec/09 R211 to R214; spec/11 R261, R262, R264). -/

namespace Sys2Proof.Machine

/-- A load of translated bytes (R61, R207, R214): a reply from outside passes under the region's stores as memory's bytes do. -/
def loadFrom (reg : BitVec 5) (size : Nat) (sgn : Bool) (s : State) (va : BitVec 48) (p : Place) : State :=
  s.readAt 0 size va p fun s v pois =>
    let s := s.setS reg (extendTo size sgn (forward s s.src.region.stores p size v))
    if pois then s.consume .s va 1 else s

/-- A discarded page reads as zeros (R193), under the stores that the open region has buffered to it (R61, R261). -/
def loadDiscarded (reg : BitVec 5) (size : Nat) (sgn : Bool) (s : State) (p : Place) : State :=
  countReq ((s.request p).setS reg (extendTo size sgn (forward s s.src.region.stores p size 0))) s.core.die 3

/-- The bundle's own access outside has its reply: what it waited for was done when its request left. -/
def State.replied (s : State) : Bool := s.src.reply.any fun r => r.key == 0

/-- A load (R211 to R214): an acquire ends a region that holds stores and waits for every earlier access. -/
def loadEffect (o : LS) (size : Nat) (sgn : Bool) (s : State) : State :=
  let acq := o.order == 1
  (s.onFrame fun f => { f with acquire := f.acquire || acq }).access (lsAddr s o) size .read (fun va f => memTrap va f false) fun s va t p =>
    let s := if acq then s.scoped .s 3 else s
    let go (s : State) : State := if t.st == 1 then loadDiscarded o.reg size sgn s p else loadFrom o.reg size sgn s va p
    if s.replied then go s else if acq then s.afterStores (waitReach s s.cur s.src) go else s.afterHome p go

/-- A store (R211 to R214): translated at issue, then buffered; a release waits for the window, and in the buffer for every earlier store. -/
def storeEffect (o : LS) (size : Nat) (s : State) : State :=
  (s.onFrame fun f => { f with storing := true }).access (lsAddr s o) size .write (fun va f => memTrap va f true) fun s va t p =>
    let rel := o.order == 2
    let s := if rel then s.scoped .s 3 else s
    match if rel then waitReach s s.cur s.src else waitHome s (placeHome p) with
    | [] => s.onFrame fun f => { f with stores := f.stores ++ [⟨va, size, s.sv o.reg, t.locOf va, false, rel⟩] }
    | l => s.waitFor l

/-- LD.b (R212). -/
def execLdB (o : LS) (s : State) : Host.Outcome State Fault Refusal := asSlot (.ldB o) (loadEffect o 1 true) s

/-- LD.bu (R212). -/
def execLdBu (o : LS) (s : State) : Host.Outcome State Fault Refusal := asSlot (.ldBu o) (loadEffect o 1 false) s

/-- LD.h (R212). -/
def execLdH (o : LS) (s : State) : Host.Outcome State Fault Refusal := asSlot (.ldH o) (loadEffect o 2 true) s

/-- LD.hu (R212). -/
def execLdHu (o : LS) (s : State) : Host.Outcome State Fault Refusal := asSlot (.ldHu o) (loadEffect o 2 false) s

/-- LD.w (R212). -/
def execLdW (o : LS) (s : State) : Host.Outcome State Fault Refusal := asSlot (.ldW o) (loadEffect o 4 true) s

/-- LD.wu (R212). -/
def execLdWu (o : LS) (s : State) : Host.Outcome State Fault Refusal := asSlot (.ldWu o) (loadEffect o 4 false) s

/-- LD.d (R212). -/
def execLdD (o : LS) (s : State) : Host.Outcome State Fault Refusal := asSlot (.ldD o) (loadEffect o 8 false) s

/-- ST.b (R212). -/
def execStB (o : LS) (s : State) : Host.Outcome State Fault Refusal := asSlot (.stB o) (storeEffect o 1) s

/-- ST.h (R212). -/
def execStH (o : LS) (s : State) : Host.Outcome State Fault Refusal := asSlot (.stH o) (storeEffect o 2) s

/-- ST.w (R212). -/
def execStW (o : LS) (s : State) : Host.Outcome State Fault Refusal := asSlot (.stW o) (storeEffect o 4) s

/-- ST.d (R212). -/
def execStD (o : LS) (s : State) : Host.Outcome State Fault Refusal := asSlot (.stD o) (storeEffect o 8) s

end Sys2Proof.Machine
end

