-- ==== Sys2Proof/Machine/Atomic.lean ====
section
/-! DEFINITION. Atomics (spec/09 R215 to R218; spec/11 R264, R270). -/

namespace Sys2Proof.Machine

/-- The eight operations of R216. -/
inductive AtOp where
  | add | min | max | and | or | xor | swp | cas
  deriving DecidableEq, Repr

/-- The new value at the home, w bits (R216). -/
def AtOp.new (op : AtOp) (w old b c : Nat) : Nat :=
  let x := b % 2 ^ w
  match op with
  | .add => (old + x) % 2 ^ w
  | .min => if intOf w x < intOf w old then x else old
  | .max => if intOf w old < intOf w x then x else old
  | .and => old &&& x
  | .or => old ||| x
  | .xor => old ^^^ x
  | .swp => x
  | .cas => if old = x then c % 2 ^ w else old

/-- ATCAS writes nothing when unequal (R216). -/
def AtOp.writes (op : AtOp) (w old b : Nat) : Bool := !(op == .cas) || old == b % 2 ^ w

/-- The operations that a PCIe AtomicOp performs (R218). -/
def AtOp.hostOk (op : AtOp) : Bool := op == .add || op == .swp || op == .cas

/-- One indivisible step at the home of its bytes (R216, R217, R218). -/
def atomicAt (op : AtOp) (code : BitVec 8) (o : AT) (size : Nat) (s : State) (va : BitVec 48) (t : Tlb) (p : Place) : State :=
  let b := s.sv o.sb
  let c := s.sv o.sc
  let give (s : State) (v : Nat) (pois : Bool) : State :=
    let s := s.setS o.sd (extendTo size (size == 4) v)
    if pois then s.consume .s va 1 else s
  match p with
  | .mem d off =>
    let r := readMem (drainStores (s.request p)) d off size
    let w := 8 * size
    give (if op.writes w r.val b.toNat then (homeWrite r.st d off size (op.new w r.val b.toNat c.toNat) t.mirrorOf).1 else r.st) r.val r.pois
  | .lost _ => give ((drainStores (s.request p)).lose va) 0 true
  | _ => (s.onFrame fun f => { f with drains := true }).askFor ⟨0, .atomic code b c, p, size, va⟩ fun s r => give s r.val r.pois

/-- The permission cause of an operation that host memory does not offer (R218). -/
def hostRefused (op : AtOp) (p : Place) : Bool :=
  match p with
  | .host _ => !op.hostOk
  | .pkg _ _ pa => pa.extractLsb' 48 2 == 1 && !op.hostOk
  | _ => false

/-- An atomic (R215 to R218). It ends its region; a release also waits for every earlier access. -/
def atomicEffect (op : AtOp) (code : BitVec 8) (o : AT) (size : Nat) (s : State) : State :=
  (s.onFrame fun f => { f with endsRegion := true }).access ((s.sv o.sa).toNat : Int) size .atomic atomTrap fun s va t p =>
    if hostRefused op p then s.raise .s (atomTrap va ⟨cPermission, false, some (t.dpn ++ va.extractLsb' 0 18)⟩)
    else
      let s := s.scoped .s o.scope.toNat
      let go (s : State) : State := atomicAt op code o size s va t p
      if s.replied then go s else s.afterStores (if o.order.getLsbD 1 then waitReach s s.cur s.src else waitHome s (placeHome p)) go

/-- ATADD.w (R216). -/
def execAtaddW (o : AT) (s : State) : Host.Outcome State Fault Refusal := asSlot (.ataddW o) (atomicEffect .add 0x90 o 4) s

/-- ATADD.d (R216). -/
def execAtaddD (o : AT) (s : State) : Host.Outcome State Fault Refusal := asSlot (.ataddD o) (atomicEffect .add 0x91 o 8) s

/-- ATMIN.w (R216). -/
def execAtminW (o : AT) (s : State) : Host.Outcome State Fault Refusal := asSlot (.atminW o) (atomicEffect .min 0x92 o 4) s

/-- ATMIN.d (R216). -/
def execAtminD (o : AT) (s : State) : Host.Outcome State Fault Refusal := asSlot (.atminD o) (atomicEffect .min 0x93 o 8) s

/-- ATMAX.w (R216). -/
def execAtmaxW (o : AT) (s : State) : Host.Outcome State Fault Refusal := asSlot (.atmaxW o) (atomicEffect .max 0x94 o 4) s

/-- ATMAX.d (R216). -/
def execAtmaxD (o : AT) (s : State) : Host.Outcome State Fault Refusal := asSlot (.atmaxD o) (atomicEffect .max 0x95 o 8) s

/-- ATAND.w (R216). -/
def execAtandW (o : AT) (s : State) : Host.Outcome State Fault Refusal := asSlot (.atandW o) (atomicEffect .and 0x96 o 4) s

/-- ATAND.d (R216). -/
def execAtandD (o : AT) (s : State) : Host.Outcome State Fault Refusal := asSlot (.atandD o) (atomicEffect .and 0x97 o 8) s

/-- ATOR.w (R216). -/
def execAtorW (o : AT) (s : State) : Host.Outcome State Fault Refusal := asSlot (.atorW o) (atomicEffect .or 0x98 o 4) s

/-- ATOR.d (R216). -/
def execAtorD (o : AT) (s : State) : Host.Outcome State Fault Refusal := asSlot (.atorD o) (atomicEffect .or 0x99 o 8) s

/-- ATXOR.w (R216). -/
def execAtxorW (o : AT) (s : State) : Host.Outcome State Fault Refusal := asSlot (.atxorW o) (atomicEffect .xor 0x9a o 4) s

/-- ATXOR.d (R216). -/
def execAtxorD (o : AT) (s : State) : Host.Outcome State Fault Refusal := asSlot (.atxorD o) (atomicEffect .xor 0x9b o 8) s

/-- ATSWP.w (R216). -/
def execAtswpW (o : AT) (s : State) : Host.Outcome State Fault Refusal := asSlot (.atswpW o) (atomicEffect .swp 0x9c o 4) s

/-- ATSWP.d (R216). -/
def execAtswpD (o : AT) (s : State) : Host.Outcome State Fault Refusal := asSlot (.atswpD o) (atomicEffect .swp 0x9d o 8) s

/-- ATCAS.w (R216). -/
def execAtcasW (o : AT) (s : State) : Host.Outcome State Fault Refusal := asSlot (.atcasW o) (atomicEffect .cas 0x9e o 4) s

/-- ATCAS.d (R216). -/
def execAtcasD (o : AT) (s : State) : Host.Outcome State Fault Refusal := asSlot (.atcasD o) (atomicEffect .cas 0x9f o 8) s

end Sys2Proof.Machine
end

