-- ==== Sys2Proof/Machine/Admin.lean ====
section
/-! DEFINITION. Changes of the domain tables: composed ranges, core maps, ceilings, TLB invalidation, removal of cores, kills of domains (spec/13
R319 to R325, R331, R332, R335; spec/15 R392; spec/02 R18, R40; spec/03 R275). -/

namespace Sys2Proof.Machine

/-! ### Composed tables (R319, R320) -/

/-- The pieces of one grant under a parent's composed table. -/
def composeGrant (par : List Range) (g : Range) : List Range :=
  par.filterMap fun e =>
    let lo := Nat.max g.pbase.toNat e.dbase.toNat
    let hi := Nat.min (g.pbase.toNat + g.count.toNat) (e.dbase.toNat + e.count.toNat)
    if lo < hi then
      some ⟨BitVec.ofNat 34 (g.dbase.toNat + (lo - g.pbase.toNat)), BitVec.ofNat 34 (e.pbase.toNat + (lo - e.dbase.toNat)), BitVec.ofNat 34 (hi - lo),
        g.x && e.x, g.w && e.w, g.r && e.r⟩
    else none

/-- Two entries that are contiguous in both spaces and have equal permissions. -/
def joins (a b : Range) : Bool :=
  a.dbase.toNat + a.count.toNat == b.dbase.toNat && a.pbase.toNat + a.count.toNat == b.pbase.toNat && a.x == b.x && a.w == b.w && a.r == b.r

def joinRanges : List Range → List Range
  | [] => []
  | a :: t => match joinRanges t with
    | b :: u => if joins a b then { a with count := a.count + b.count } :: u else a :: b :: u
    | [] => [a]

/-- The composed table before it is cut to 48 entries. -/
def composeAll (par grants : List Range) : List Range :=
  joinRanges (sortBy (fun a b => decide (a.dbase.toNat ≤ b.dbase.toNat)) (grants.flatMap (composeGrant par)))

/-- Recomputes one domain's table; dropped entries give one event to its parent (R320). -/
def recomposeOne (s : State) (d : BitVec 12) : State :=
  match domAt? s d with
  | none => s
  | some x =>
    if d = 0 then s
    else
      let l := composeAll (domAt s x.parent).comp x.grants
      let s := modDom s d fun x => { x with comp := l.take 48 }
      match l.drop 48 with
      | [] => s
      | g :: _ => event s x.parent 3 6 [g.dbase.setWidth 64 <<< 18, d.setWidth 64]

/-- Recomputes a domain's table and those below it, parents first. -/
def recompose (s : State) : Nat → BitVec 12 → State
  | 0, _ => s
  | n + 1, d => (children s d).foldl (fun s c => recompose s n c) (recomposeOne s d)

/-- A composed table covers a range of granules with permissions. -/
def coversFrom (l : List Range) (x w r : Bool) (hi : Nat) : Nat → Nat → Bool
  | 0, lo => hi ≤ lo
  | n + 1, lo => hi ≤ lo || match l.find? fun e => e.covers lo && (!x || e.x) && (!w || e.w) && (!r || e.r) with
    | some e => coversFrom l x w r hi n (e.dbase.toNat + e.count.toNat)
    | none => false

def compCovers (s : State) (d : BitVec 12) (lo n : Nat) (x w r : Bool) : Bool := coversFrom (domAt s d).comp x w r (lo + n) 49 lo

/-- What is left of a grant when [lo, lo + n) is taken out of it (R331). -/
def cutGrant (lo n : Nat) (g : Range) : List Range :=
  let a := g.dbase.toNat
  let b := a + g.count.toNat
  let hi := lo + n
  if b ≤ lo || hi ≤ a then [g]
  else
    (if a < lo then [{ g with count := BitVec.ofNat 34 (lo - a) }] else [])
      ++ (if hi < b then [{ g with dbase := BitVec.ofNat 34 hi, pbase := BitVec.ofNat 34 (g.pbase.toNat + (hi - a)), count := BitVec.ofNat 34 (b - hi) }] else [])

/-! ### TLB invalidation (R275, R317, R331, R335) -/

/-- Drops TLB entries and instruction-store copies of the domains and granules named. -/
def invalidate (s : State) (doms : List (BitVec 12)) (lo hi : Nat) : State :=
  let named (d : BitVec 12) (g : Nat) : Bool := doms.contains d && lo ≤ g && g < hi
  let keep (l : List Tlb) : List Tlb := l.filter fun t => !named t.dom t.vpn.toNat
  let cores := s.cores.map fun p => (p.1, { p.2 with
    tlb := keep p.2.tlb
    istore := p.2.istore.filter fun q => !(named q.1.1 (q.1.2.toNat / 2 ^ 18) || named q.1.1 ((q.1.2.toNat + 39) / 2 ^ 18)) })
  { s with cores := cores, dies := s.dies.map fun d => { d with tlb := keep d.tlb } }

/-- All granules of a virtual space. -/
def allGranules : Nat := 2 ^ 30

def invalidateAll (s : State) (doms : List (BitVec 12)) : State := invalidate s doms 0 allGranules

/-- The domains' stores that stand in gated buffers: an operation that waits for them marks them (R331, R335). -/
def markStores (s : State) (doms : List (BitVec 12)) : State :=
  let f (c : Ctx) : Ctx := if doms.contains c.dom then
    { c with region := { c.region with stores := c.region.stores.map fun g => { g with waited := true } } } else c
  { s with ctx := f s.ctx, ctxs := s.ctxs.map fun p => (p.1, f p.2) }

/-- Accesses that a DREVOKE, a DKILL or a TLBINV waits for have not been performed: marked stores, stalled ones, requests with an earlier tag. -/
def accessesOut (s : State) (doms : List (BitVec 12)) (tag : Nat) : Bool :=
  (s.pend.any fun p => decide (p.tag < tag) && match p.who with
    | .remote _ _ _ => false
    | _ => true)
    || (s.stalls.any fun q => match q with
      | .store _ _ dom _ _ => doms.contains dom
      | .word dom _ _ => doms.contains dom)
    || (allResidents s).any fun x => doms.contains (ctxAt s x).dom && (ctxAt s x).region.stores.any GStore.waited

/-- The revoked-range fault of a started transfer whose rest meets a range that the domain no longer has, at the first such line (R331, R380). -/
def xferRevoked (s : State) (x : CtxId) (e : Entry) : Option Trap :=
  if isTransfer e.op && e.st == .started then
    match entryTile s x e.td with
    | none => none
    | some t =>
      let k := xferCtxOf s x e
      (restLines k t.rows t.cols e.prog).findSome? fun l =>
        match translate s x.core k.dom (groupWord k.grp) (BitVec.ofInt 48 (64 * l)) (if k.load then .read else .write) with
        | .bad f _ => if f.code == cRangeMiss then
            let va : BitVec 48 := BitVec.ofInt 48 (lineVa k t l)
            some (deferred cRevoked va (accOpnd { f with da := f.da.map fun d => d + (va - BitVec.ofInt 48 (64 * l)).setWidth 52 } (!k.load) false true))
          else none
        | _ => none
  else none

/-- Cancels the rest of started transfers whose range is gone: their entries park with the revoked-range fault (R331). -/
def cancelTransfers (s : State) (doms : List (BitVec 12)) : State :=
  ((allResidents s).filter fun x => doms.contains (ctxAt s x).dom).foldl (fun s x =>
    (ctxAt s x).win.foldl (fun s e => match xferRevoked s x e with
      | some t => parkEntry s x e.n t
      | none => s) s) s

/-- A granule of a spill slot of the domain has a lost home, or lies outside its ranges. -/
def slotGone (s : State) (d : BitVec 12) (k : Nat) : Bool :=
  [0, 1].any fun g => match devPlace s d ((domAt s d).spill + BitVec.ofNat 52 (524288 * k + 262144 * g)) true with
    | some (.lost _) => true
    | some _ => false
    | none => true

/-- The slot of a spilled tile that is to be discarded. -/
def goneSlot (s : State) (t : Tile) : Option Nat :=
  match t.st with
  | .spilled k => if slotGone s t.dom k then some k else none
  | _ => none

/-- Spilled tiles whose slot is lost or no longer in the owner's ranges are discarded, and their slots are free (R315). -/
def discardSpilled (s : State) : State :=
  let slots := s.cores.flatMap fun p => p.2.tiles.filterMap fun t => (goneSlot s t).map fun k => (t.dom, k)
  let drop (k : Core) : Core := { k with tiles := k.tiles.map fun t => if (goneSlot s t).isSome then { t with st := .discarded } else t }
  slots.foldl (fun s q => freeSlot s q.1 q.2) { s with cores := s.cores.map fun p => (p.1, drop p.2) }

/-- Steps 1, 2 and 4 of a revocation (R331). -/
def afterRevoke (s : State) (d : BitVec 12) : State :=
  let doms := d :: descendants s d
  discardSpilled (cancelTransfers (invalidateAll (recompose s 9 d) doms) doms)

/-! ### Ceilings (R325) -/

def ceilRank (c : BitVec 2) : Nat := if c = 1 then 0 else if c = 2 then 1 else 2

/-- Recomputes every domain's CEIL and CMODE from the VF bindings of it and its ancestors. -/
def recomputeCeil (s : State) : State :=
  let bound (d : BitVec 12) : List VfBind := (s.vfb.map Prod.snd).filter fun b => b.dom == d || (ancestors s d).contains b.dom
  let best (l : List VfBind) : BitVec 2 := l.foldl (fun c b => if ceilRank b.ceil < ceilRank c then b.ceil else c) 0
  { s with doms := s.doms.map fun p =>
    let l := bound p.1
    let c := best l
    (p.1, { p.2 with ceil := c, cmode := l.any fun b => b.ceil == c && b.mode }) }

/-! ### Core maps (R40, R324) -/

/-- Virtual dies numbered densely in ascending physical order. -/
def renumber (l : List MapEntry) : List MapEntry :=
  let ds := allDies.filter fun d => l.any fun m => m.core.die == d
  l.map fun m => { m with vdie := BitVec.ofNat 2 (ds.idxOf m.core.die) }

/-- Strands of a domain are Held on some die because it has no core there. -/
def holdsStrands (s : State) (dom : BitVec 12) : Bool :=
  allDies.any fun d =>
    let y := dieAt s d
    (y.saved.any fun v => v.base.dom == dom && v.held) || (y.reflected.any fun v => v.base.dom == dom && v.held)
      || y.contq.any fun e => recOwner e.record == dom && e.held

/-- TBOFS rises by the time for which strands of the domain were Held; an interval counts once (R40, R356). -/
def raiseHeld (s : State) (dom : BitVec 12) : State :=
  match (domAt s dom).heldAt with
  | none => s
  | some a =>
    let now := tbOf s (keyDie s)
    let more := holdsStrands s dom
    let s := modDom s dom fun x => { x with tbofs := x.tbofs + (now - a), heldAt := if more then some now else none }
    { s with tasksets := s.tasksets.map fun (u : TaskSet) => if u.reg.dom == dom && u.stopped.isSome then { u with stopped := some now } else u }

/-- A domain that has a core on a die again gives its Held strands there back (R18). -/
def unholdDomain (s : State) (dom : BitVec 12) (d : Fin 4) : State :=
  let y := dieAt s d
  let back := (y.saved.filter fun v => v.base.dom == dom && v.held).map fun v => (v.base.grp, v.base.strix)
  let back := back ++ (y.reflected.filter fun v => v.base.dom == dom && v.held).map fun v => (v.base.grp, v.base.strix)
  let cont := (y.contq.filter fun e => recOwner e.record == dom && e.held).map fun e => (recGrp e.record, recStrix e.record)
  let s := putDie s d { y with
    saved := y.saved.map fun v => if v.base.dom == dom then { v with held := false } else v
    reflected := y.reflected.map fun v => if v.base.dom == dom then { v with held := false } else v
    contq := y.contq.map fun e => if recOwner e.record == dom then { e with held := false } else e }
  let s := back.foldl (fun s p => setMember s p.1 p.2 .saved) s
  let s := cont.foldl (fun s p => setMember s p.1 p.2 .suspended) s
  if back.isEmpty && cont.isEmpty then s else raiseHeld s dom

/-- Adds cores to a domain's map. -/
def addCores (s : State) (dom : BitVec 12) (l : List MapEntry) : State :=
  let s := modDom s dom fun x => { x with cores := renumber (x.cores ++ l.filter fun m => !(x.cores.any fun k => k.core == m.core)) }
  (allDies.filter fun d => isLive s d && l.any fun m => m.core.die == d).foldl (fun s d => unholdDomain s dom d) s

/-! ### Removal of a core from domains (R392) -/

/-- Started array and accumulator entries of a context complete (R388); an MMA that waits for scales stays. -/
def finishStarted (x : CtxId) : Nat → State → State
  | 0, s => s
  | n + 1, s =>
    match (ctxAt s x).win.find? fun e => e.st == .started && (carrierOf e.op == .array || carrierOf e.op == .accu) && !mmaWaits s x e with
    | none => s
    | some e =>
      if carrierOf e.op == .accu then finishStarted x n (completeEntry s x e)
      else
        let s := mmaAdvance x e.n 16 s
        match entryAt (ctxAt s x) e.n with
        | some f => finishStarted x n (if mmaDone s x f then finishMma s x f else s)
        | none => finishStarted x n s

/-- An immediate pre-emption that comes to its end in one step unless a request or a bank is under way (R375, R388). -/
def forceSave (s : State) (x : CtxId) (held : Bool) : State :=
  let s := finishStarted x 17 (startSave (watchdogFirst s x) x 2 held)
  if saveReady s x then completeSave s x else s

/-- Spills the tiles of a domain's strands that are not resident on a core; without a slot the strand's group is killed (R392). -/
def spillStrands (s : State) (c : CoreId) (doms : List (BitVec 12)) : State :=
  ((coreAt s c).tiles.filter fun t => doms.contains t.dom && t.slot.isNone && (t.st == .live || t.st == .parked)).foldl (fun s t =>
    match tileAt s c t.tid with
    | none => s
    | some u => match spillTile s c u with
      | some s => s
      | none =>
        let pc := ((dieAt s c.die).saved.find? fun v => v.base.grp == u.grp && v.base.strix == u.ix).map fun v => v.base.pc
        event (killGroup s u.grp) u.dom 3 4 [(pc.getD 0).setWidth 64, groupWord u.grp]) s

/-- Strands of a domain on a die where it has no core left are Held (R18, R392). -/
def holdDomain (s : State) (dom : BitVec 12) (d : Fin 4) : State :=
  if !(coresOn s dom d).isEmpty then s
  else
    let y := dieAt s d
    let l := (y.saved.filter fun v => v.base.dom == dom).map (fun v => (v.base.grp, v.base.strix))
      ++ (y.reflected.filter fun v => v.base.dom == dom).map (fun v => (v.base.grp, v.base.strix))
      ++ (y.contq.filter fun e => recOwner e.record == dom).map fun e => (recGrp e.record, recStrix e.record)
    let s := putDie s d { y with
      saved := y.saved.map fun v => if v.base.dom == dom then { v with held := true } else v
      reflected := y.reflected.map fun v => if v.base.dom == dom then { v with held := true } else v
      contq := y.contq.map fun e => if recOwner e.record == dom then { e with held := true } else e }
    let now := tbOf s (keyDie s)
    let s := if l.isEmpty then s else modDom s dom fun x => { x with heldAt := some (x.heldAt.getD now) }
    l.foldl (fun s p => setMember s p.1 p.2 .held) s

/-- CORE_REMOVAL (R392): the core leaves the maps, its strands of those domains are saved, their tiles spilled. -/
def removeCore (s : State) (c : CoreId) (doms : List (BitVec 12)) : State :=
  let s := doms.foldl (fun s d => modDom s d fun x => { x with cores := renumber (x.cores.filter fun m => !(decide (m.core = c))) }) s
  let s := (slotsOf c).foldl (fun s x =>
    let k := ctxAt s x
    if k.occupied && doms.contains k.dom then forceSave s x (coresOn s k.dom c.die).isEmpty else s) s
  doms.foldl (fun s d => holdDomain s d c.die) (spillStrands s c doms)

/-! ### Killing domains (R332) -/

/-- A launch that is killed: its groups on some dies end, those not admitted are Done as well, and it is gone; groups on the other dies post nothing
(R18, R30, R411). -/
def killLaunchOn (on : Fin 4 → Bool) (s : State) (n : Nat) : State :=
  match launchAt s n with
  | none => s
  | some l0 =>
    let left := ((allDies.filter fun d => !on d).map fun d => ((dieAt s d).groups.filter fun g => g.launch == n).length).sum
    let groups := (allDies.filter on).flatMap fun d => ((dieAt s d).groups.filter fun g => g.launch == n).map Group.id
    let s := groups.foldl killGroup s
    let s := match launchAt s n with
      | none => s
      | some l => (List.range (launchTotal l - l.posted - left)).foldl (fun s _ => postTarget s l0 0) s
    let s := { s with launches := s.launches.filter fun l => !(l.id == n) }
    { s with dies := s.dies.map fun d => { d with launchq := d.launchq.filter fun e => !(e.launch == n) },
             tasksets := s.tasksets.map fun t => { t with running := t.running.filter fun k => !(k == n) } }

/-- A launch whose domain is killed (R332). -/
def killLaunch (s : State) (n : Nat) : State := killLaunchOn (fun _ => true) s n

/-- Rule entries tagged with a domain go, with a flush point for its contexts (R332, R341). -/
def dropRules (s : State) (doms : List (BitVec 12)) : State :=
  { s with cores := s.cores.map fun p => (p.1, { p.2 with rules := p.2.rules.filter fun r => !doms.contains (Rule.dom r.2) }) }

/-- The first part of a DKILL by an acting domain (R332): the targets are dying, their launches and strands are killed, their ranges, cores and VFs
go. -/
def killDomain (s : State) (acting d : BitVec 12) : State :=
  let doms := d :: descendants s d
  let s := doms.foldl (fun s k => modDom s k fun x => { x with dying := true }) s
  let s := ((s.launches.filter fun l => doms.contains l.dom).map Launch.id).foldl killLaunch s
  let s := doms.foldl (fun s k => modDom s k fun x => { x with grants := [], comp := [], cores := [], eshare := 0 }) s
  let s := discardSpilled (invalidateAll s doms)
  let s := { s with vfb := List.map (fun p : Fin 1024 × VfBind => if doms.contains p.2.dom then (p.1, { p.2 with dom := acting }) else p) s.vfb }
  recomputeCeil { s with tasksets := s.tasksets.filter fun t => !doms.contains t.reg.dom }

/-- The end of a DKILL: rule entries go, energy shares return and the identifiers are free (R332). -/
def freeDomains (s : State) (doms : List (BitVec 12)) : State :=
  let s := dropRules s doms
  let cores := s.cores.map fun p => (p.1, { p.2 with deficits := p.2.deficits.filter fun q => !doms.contains q.1 })
  { s with cores := cores, doms := s.doms.filter fun p => !doms.contains p.1 }

/-- A context of one of the domains still stands on a core that its domain has lost (R331). -/
def leavesCore (s : State) (doms : List (BitVec 12)) : Bool :=
  (allResidents s).any fun x => doms.contains (ctxAt s x).dom && (virtOf s (ctxAt s x).dom x.core).isNone

/-- What DREVOKE, DKILL and TLBINV do last: they wait until the accesses of some domains that are under way have been performed; the domains that
DKILL has killed then go (R331, R332, R335). -/
def State.drainFor (s : State) (doms : List (BitVec 12)) (free : Bool) : State :=
  let s := markStores s doms
  if accessesOut s doms s.nextTag || leavesCore s doms then s.onCtx fun c => c.awaits (.drain doms s.nextTag free) else if free then freeDomains s doms else s

end Sys2Proof.Machine
end

