-- ==== Sys2Proof/Machine/Level.lean ====
section
/-! DEFINITION. Checkpoint regions, closed epochs and the choice of service levels (spec/02 R35, R36; spec/13 R342; spec/16 R400, R401, R404, R408,
R414). -/

namespace Sys2Proof.Machine

/-! ### Checkpoint regions and closed epochs (R342, R404, R408) -/

/-- The lines that a checkpoint region touches. -/
def ckptLines (c : CkptReg) : List Nat :=
  if c.bytes == 0 then []
  else
    let lo := c.addr.toNat / 64
    (List.range ((c.addr.toNat + c.bytes.toNat - 1) / 64 - lo + 1)).map fun k => lo + k

/-- The declared level with a number. -/
def levelReg (t : TaskSet) (k : Fin 4) : Option LevelReg := t.reg.levels.find? fun v => v.level == k

/-- The regions of a level. -/
def levelCkpts (t : TaskSet) (k : Fin 4) : List CkptReg := ((levelReg t k).map LevelReg.ckpts).getD []

/-- The highest closed epoch that holds a line, on a die that serves, with the line: at its home's partner, or at a former one (R401, R404, R408). -/
def closedAt (s : State) (t : TaskSet) (line : Nat) : Option (Nat × Nat × Bool) :=
  ((allDies.filter fun d => serves s d).flatMap fun d => (dieAt s d).mirror.filterMap fun m =>
    if m.closed && m.ts == t.reg.tsid then (m.lines.find? fun q => q.1 == line).map fun q => (m.epoch, q.2) else none).foldl
    (fun (b : Option (Nat × Nat × Bool)) e => match b with
      | none => some e
      | some v => if v.1 < e.1 then some e else some v) none

/-- A line as its highest closed epoch holds it. -/
def closedLine (s : State) (t : TaskSet) (line : Nat) : Option (Nat × Bool) :=
  (closedAt s t line).map Prod.snd

/-- Some region of a level has no closed epoch left: the relaunch is cold (R408). -/
def relaunchCold (s : State) (t : TaskSet) (k : Fin 4) : Bool :=
  t.cold || t.epoch == 0 || (levelCkpts t k).any fun c => (ckptLines c).any fun l => (closedLine s t l).isNone

/-! ### Level choice (R35, R36, R400) -/

/-- Which dies a level choice counts: the live ones, those and the testing ones (at step 3 of R396), the live ones without one (R36, R400, R414). -/
inductive Counted where
  | live
  | serving
  | without (d : Fin 4)
  deriving DecidableEq, Repr

/-- The dies that a task set's domain holds and that count. -/
def setDies (s : State) (t : TaskSet) (c : Counted) : List (Fin 4) :=
  (diesOf s t.reg.dom).filter fun d => match c with
    | .live => isLive s d
    | .serving => isLive s d || regSt s d == .testing
    | .without e => isLive s d && !(decide (d = e))

/-- The highest declared level that the dies carry. -/
def levelFor (s : State) (t : TaskSet) (c : Counted) : Option (Fin 4) :=
  ((t.reg.levels.map LevelReg.level).filter fun k => decide (k.val + 1 ≤ (setDies s t c).length)).foldl (fun (b : Option (Fin 4)) k =>
    match b with
    | none => some k
    | some m => if m.val < k.val then some k else some m) none

def levelByte (k : Option (Fin 4)) : BitVec 8 := match k with
  | some v => BitVec.ofNat 8 v.val
  | none => 0xFF

def modSet (s : State) (n : BitVec 32) (f : TaskSet → TaskSet) : State :=
  { s with tasksets := s.tasksets.map fun t => if t.reg.tsid == n then f t else t }

/-- The groups of a task set end, on every die that is not held (R400, R411). -/
def killSet (s : State) (n : BitVec 32) : State :=
  ((s.launches.filter fun l => l.ts == some n).map Launch.id).foldl (killLaunchOn fun d => regSt s d != .held) s

/-- Level choice of one task set: with a new level, after the loss of one of its dies, or when a die of its map counts no more, its groups end and it
waits for its restore. A choice that moves the groups within one level gives the event too (R36, R400, R414; DESIGN CHOICE, log entry 73). -/
def chooseLevel (s : State) (n : BitVec 32) (without : Counted) (lostOne : Bool) : State :=
  match s.tasksets.find? fun t => t.reg.tsid == n with
  | none => s
  | some t =>
    let k := levelFor s t without
    if k == t.active && !lostOne && t.map.all fun d => (setDies s t without).contains d then s
    else
      let s := killSet s n
      let now := tbOf s (keyDie s)
      let cold := (k.map (relaunchCold s t)).getD t.cold
      let map := match k with
        | some v => (setDies s t without).take (v.val + 1)
        | none => []
      let s := modSet s n fun t => { t with
        active := k, map := map, running := [], refused := [], ckptDue := false, restore := k.isSome, cold := cold
        stopped := if t.active.isSome then some now else t.stopped }
      event s t.reg.dom 5 (levelByte k)
        [(levelByte t.active).setWidth 64, (if cold && k.isSome then (0x8000000000000000 : Word) else 0) ||| n.setWidth 64]

/-- Task sets without a level take one at once; the others raise theirs at a frame boundary (R36, R413). -/
def raiseIdle (s : State) : State := s.tasksets.foldl (fun s t => if t.active.isNone then chooseLevel s t.reg.tsid .live false else s) s

/-- Task sets whose domain's cores have changed: one that has lost a die of its map, or has no level, chooses (R36). -/
def levelsAfter (s : State) (doms : List (BitVec 12)) : State :=
  (s.tasksets.filter fun t => doms.contains t.reg.dom).foldl (fun s t =>
    if t.active.isNone || !(t.map.all fun d => (diesOf s t.reg.dom).contains d) then chooseLevel s t.reg.tsid .live false else s) s

end Sys2Proof.Machine
end

