-- ==== Sys2Proof/Machine/System.lean ====
section
/-! DEFINITION. The system instructions DNEW to DQUERY, TLBINV and EVPOST (spec/13 R327 to R335; spec/12 R307; spec/06 R151). -/

namespace Sys2Proof.Machine

/-! ### What every system instruction does (R151, R327) -/

/-- Only in a supervisor context; it ends its region. -/
def State.privileged (s : State) (k : State → State) : State :=
  if s.src.priv then k (s.onFrame fun f => { f with endsRegion := true }) else s.raisePermission .c

/-- Every earlier access of the strand is performed first (R264). -/
def State.settled (s : State) (k : State → State) : State :=
  if s.answered then k (drainStores s)
  else (s.onFrame fun f => { f with drains := true }).afterStores (waitReach s s.cur s.src) fun s => k (drainStores s)

/-- A system instruction's frame: privilege, earlier accesses, then its act. -/
def sysEffect (k : State → State) (s : State) : State := s.privileged fun s => s.settled k

/-- A refusal's value. -/
def refusal (code : Nat) : Word := 0x8000000000000000 ||| BitVec.ofNat 64 code

/-- The result: a refusal with nothing changed, or the act and its value. -/
def State.answer (s : State) (o : SY) (r : Except Nat (State × Word)) : State :=
  match r with
  | .error c => s.setS o.sd (refusal c)
  | .ok (t, v) => t.setS o.sd v

/-- The acting domain (R322). -/
def State.acting (s : State) : BitVec 12 := s.src.dom

/-- Words of memory from a virtual address, each read as a scalar load reads it, then what is done with them (R307). -/
def State.readWords : Nat → Nat → Word → State → (State → List Word → State) → State
  | 0, _, _, s, k => k s []
  | n + 1, key, a, s, k =>
    if 2 ^ 48 ≤ a.toNat then s.raise .c (memTrap (a.setWidth 48) ⟨cPageNotPresent, false, none⟩ false)
    else s.readRec .c true key 8 (a.setWidth 48) fun s v => State.readWords n (key + 1) (a + 8) s fun s l => k s (BitVec.ofNat 64 v :: l)

/-- A descriptor of n words at an 8-byte-aligned address: its causes, every earlier access, then its words (R307, R327). -/
def State.descriptor (s : State) (n : Nat) (a : Word) (k : State → List Word → State) : State :=
  if a.extractLsb' 0 3 != 0 then s.raise .c (precise cAlignment [a])
  else s.readable .c ((List.range n).map fun i => a.toNat + 8 * i) fun s => s.settled fun s => State.readWords n 1 a s k

/-- The child that an operand names, or the refusal. -/
def childOf (s : State) (w : Word) : Except Nat Dom :=
  match domAt? s (w.setWidth 12) with
  | none => .error 2
  | some x => if x.id = 0 || x.parent ≠ s.acting then .error 2 else if x.dying then .error 7 else .ok x

/-- The descendant that an operand names, or the refusal. -/
def descendantOf (s : State) (w : Word) : Except Nat Dom :=
  match domAt? s (w.setWidth 12) with
  | none => .error 2
  | some x => if isDescendant s s.acting x.id then (if x.dying then .error 7 else .ok x) else .error 2

/-! ### DNEW (R38, R323, R329) -/

def childShares (s : State) (d : BitVec 12) (except : BitVec 12) : Nat :=
  ((s.doms.filter fun p => p.2.parent == d && !(p.1 == 0) && !(p.1 == except)).map fun p => p.2.eshare.toNat).sum

/-- The lowest free identifier. -/
def freeDomain (s : State) : Option (BitVec 12) :=
  ((List.range 4095).map fun k => BitVec.ofNat 12 (k + 1)).find? fun d => (domAt? s d).isNone

def newDomain (s : State) (d : List Word) : Except Nat (State × Word) :=
  let x := domAt s s.acting
  let iw : BitVec 8 := (wordAt d 2).setWidth 8
  let bw : BitVec 8 := (wordAt d 2).extractLsb' 8 8
  let es : BitVec 32 := (wordAt d 3).setWidth 32
  if (wordAt d 0) &&& ~~~(0x000FFFFFFFFFE000 : Word) != 0 || (wordAt d 1) &&& ~~~(0x0000FFFFFFFFFFC0 : Word) != 0
      || (wordAt d 2).extractLsb' 16 48 != 0 || (wordAt d 3).extractLsb' 32 32 != 0
      || wordAt d 5 != 0 || wordAt d 6 != 0 || wordAt d 7 != 0 || iw == 0 || bw == 0 then .error 1
  else if x.depth == 8 || (s.acting == 0 && 32 ≤ (children s 0).length) then .error 4
  else match freeDomain s with
    | none => .error 4
    | some id =>
      if x.iw.ult iw || x.bw.ult bw || x.eshare.toNat < childShares s s.acting 0 + es.toNat then .error 5
      else
        let c : Dom := { Dom.root with id := id, depth := x.depth + 1, parent := s.acting, iw := iw, bw := bw, ceil := x.ceil, cmode := x.cmode,
                                       eshare := es, ptroot := (wordAt d 0).setWidth 52, supcb := (wordAt d 1).setWidth 48, tbofs := wordAt d 4 }
        .ok (putDom s c, id.setWidth 64)

/-- DNEW (R329). -/
def execDnew (o : SY) (s : State) : Host.Outcome State Fault Refusal :=
  asSlot (.dnew o) (fun s => s.privileged fun s => s.descriptor 8 (s.sv o.sa) fun s d => s.answer o (newDomain s d)) s

/-! ### DGRANT (R330) -/

/-- The granules of a range descriptor: DBASE, base, count, or a reserved bit. -/
def rangeOk (d : List Word) (revoke : Bool) : Bool :=
  (wordAt d 0).extractLsb' 52 12 == 0 && (wordAt d 0).extractLsb' 3 15 == 0 && (wordAt d 3) == 0
    && (wordAt d 2) != 0 && (wordAt d 2).extractLsb' 0 18 == 0
    && (if revoke then wordAt d 1 == 0 && (wordAt d 0).extractLsb' 0 3 == 0
        else (wordAt d 1).extractLsb' 52 12 == 0 && (wordAt d 1).extractLsb' 0 18 == 0)
    && decide (((wordAt d 0).extractLsb' 18 34).toNat + (wordAt d 2).toNat / 2 ^ 18 ≤ 2 ^ 34)

def grantRange (s : State) (w : Word) (d : List Word) : Except Nat (State × Word) :=
  match childOf s w with
  | .error c => .error c
  | .ok x =>
    if !rangeOk d false then .error 1
    else
      let lo := ((wordAt d 0).extractLsb' 18 34).toNat
      let base := ((wordAt d 1).extractLsb' 18 34).toNat
      let n := (wordAt d 2).toNat / 2 ^ 18
      let g : Range := ⟨BitVec.ofNat 34 lo, BitVec.ofNat 34 base, BitVec.ofNat 34 n, (wordAt d 0).getLsbD 2, (wordAt d 0).getLsbD 1, (wordAt d 0).getLsbD 0⟩
      if x.grants.any fun e => decide (e.dbase.toNat < lo + n) && decide (lo < e.dbase.toNat + e.count.toNat) then .error 1
      else if !compCovers s s.acting base n g.x g.w g.r then .error 3
      else if 48 ≤ x.grants.length || 48 < (composeAll (domAt s s.acting).comp (x.grants ++ [g])).length then .error 4
      else .ok (recompose (putDom s { x with grants := x.grants ++ [g] }) 9 x.id, 0)

/-- DGRANT.range (R330). -/
def execDgrantRange (o : SY) (s : State) : Host.Outcome State Fault Refusal :=
  asSlot (.dgrantRange o) (fun s => s.privileged fun s => s.descriptor 4 (s.sv o.sb) fun s d => s.answer o (grantRange s (s.sv o.sa) d)) s

/-- The acting domain's map entries that a mask names on one of its virtual dies; none when it does not hold one. -/
def maskCores (s : State) (mask : Word) (vdie : BitVec 2) : Option (List MapEntry) :=
  ((List.range 48).filter fun k => mask.getLsbD k).mapM fun k =>
    (domAt s s.acting).cores.find? fun m => m.vdie == vdie && m.vcore.toNat == k

def grantCore (s : State) (w mask sc : Word) : Except Nat (State × Word) :=
  match childOf s w with
  | .error c => .error c
  | .ok x => match maskCores s mask (sc.setWidth 2) with
    | none => .error 3
    | some l =>
      if s.acting == 0 && (children s 0).any fun p => !(p == x.id) && l.any fun m => (virtOf s p m.core).isSome then .error 6
      else .ok (levelsAfter (addCores s x.id l) [x.id], 0)

/-- DGRANT.core (R324, R330). -/
def execDgrantCore (o : SY) (s : State) : Host.Outcome State Fault Refusal :=
  asSlot (.dgrantCore o) (sysEffect fun s => s.answer o (grantCore s (s.sv o.sa) (s.sv o.sb) (s.sv o.sc))) s

/-- The number of a VF operand. -/
def vfNum (w : Word) : Fin 1024 := ⟨(w.extractLsb' 0 10).toNat, (w.extractLsb' 0 10).isLt⟩

def vfBind (s : State) (v : Fin 1024) : VfBind := tabGet s.vfb v VfBind.reset

def grantVf (s : State) (w vf : Word) : Except Nat (State × Word) :=
  match childOf s w with
  | .error c => .error c
  | .ok x =>
    let v := vfNum vf
    if (vfBind s v).dom ≠ s.acting then .error 3
    else .ok (recomputeCeil { s with vfb := tabPut s.vfb v { vfBind s v with dom := x.id } }, 0)

/-- DGRANT.vf (R325, R330). -/
def execDgrantVf (o : SY) (s : State) : Host.Outcome State Fault Refusal :=
  asSlot (.dgrantVf o) (sysEffect fun s => s.answer o (grantVf s (s.sv o.sa) (s.sv o.sb))) s

/-- Lowers a domain's children, and those below them, to its values; children whose shares together exceed the domain's are lowered in ascending
order until the sum does not (R323; log entry 68). -/
def clampBudgets (s : State) : Nat → BitVec 12 → State
  | 0, _ => s
  | n + 1, d =>
    let x := domAt s d
    ((sortBy (fun a b : BitVec 12 => a.ule b) (children s d)).foldl (fun (q : State × Nat) c =>
      let e := Nat.min (domAt q.1 c).eshare.toNat q.2
      (clampBudgets (modDom q.1 c fun y =>
        { y with iw := if x.iw.ult y.iw then x.iw else y.iw, bw := if x.bw.ult y.bw then x.bw else y.bw, eshare := BitVec.ofNat 32 e }) n c, q.2 - e))
      (s, x.eshare.toNat)).1

def grantBud (s : State) (w sb sc : Word) : Except Nat (State × Word) :=
  match childOf s w with
  | .error c => .error c
  | .ok x =>
    let a := domAt s s.acting
    let iw : BitVec 8 := sb.setWidth 8
    let bw : BitVec 8 := sb.extractLsb' 8 8
    let es : BitVec 32 := sc.setWidth 32
    if iw == 0 || bw == 0 then .error 1
    else if a.iw.ult iw || a.bw.ult bw || a.eshare.toNat < childShares s s.acting x.id + es.toNat then .error 5
    else .ok (clampBudgets (putDom s { x with iw := iw, bw := bw, eshare := es }) 9 x.id, 0)

/-- DGRANT.bud (R323, R330). -/
def execDgrantBud (o : SY) (s : State) : Host.Outcome State Fault Refusal :=
  asSlot (.dgrantBud o) (sysEffect fun s => s.answer o (grantBud s (s.sv o.sa) (s.sv o.sb) (s.sv o.sc))) s

/-! ### DREVOKE (R331) -/

/-- The answer of a DREVOKE, which then waits for what the child's domains have under way (R331). -/
def State.revoked (s : State) (o : SY) (r : Except Nat (State × Word)) : State :=
  let d : BitVec 12 := (s.sv o.sa).setWidth 12
  let doms := d :: descendants s d
  match r with
  | .error c => s.setS o.sd (refusal c)
  | .ok (t, v) => (t.setS o.sd v).drainFor doms false

def revokeRange (s : State) (w : Word) (d : List Word) : Except Nat (State × Word) :=
  match childOf s w with
  | .error c => .error c
  | .ok x =>
    if !rangeOk d true then .error 1
    else
      let g := x.grants.flatMap (cutGrant ((wordAt d 0).extractLsb' 18 34).toNat ((wordAt d 2).toNat / 2 ^ 18))
      if 48 < g.length then .error 4 else .ok (afterRevoke (putDom s { x with grants := g }) x.id, 0)

/-- DREVOKE.range (R331). -/
def execDrevokeRange (o : SY) (s : State) : Host.Outcome State Fault Refusal :=
  asSlot (.drevokeRange o) (fun s => s.privileged fun s => s.descriptor 4 (s.sv o.sb) fun s d => s.revoked o (revokeRange s (s.sv o.sa) d)) s

def revokeCore (s : State) (w mask sc : Word) : Except Nat (State × Word) :=
  match childOf s w with
  | .error c => .error c
  | .ok x => match maskCores s mask (sc.setWidth 2) with
    | none => .error 3
    | some l =>
      let doms := x.id :: descendants s x.id
      let held := (l.map MapEntry.core).filter fun c => doms.any fun d => (virtOf s d c).isSome
      .ok (levelsAfter (held.foldl (fun s c => removeCore s c doms) (invalidateAll s doms)) doms, 0)

/-- DREVOKE.core (R331, R392). -/
def execDrevokeCore (o : SY) (s : State) : Host.Outcome State Fault Refusal :=
  asSlot (.drevokeCore o) (sysEffect fun s => s.revoked o (revokeCore s (s.sv o.sa) (s.sv o.sb) (s.sv o.sc))) s

def revokeVf (s : State) (w vf : Word) : Except Nat (State × Word) :=
  match childOf s w with
  | .error c => .error c
  | .ok x =>
    let v := vfNum vf
    if !isSelfOrBelow s x.id (vfBind s v).dom then .error 3
    else .ok (afterRevoke (recomputeCeil { s with vfb := tabPut s.vfb v { vfBind s v with dom := s.acting } }) x.id, 0)

/-- DREVOKE.vf (R325, R331). -/
def execDrevokeVf (o : SY) (s : State) : Host.Outcome State Fault Refusal :=
  asSlot (.drevokeVf o) (sysEffect fun s => s.revoked o (revokeVf s (s.sv o.sa) (s.sv o.sb))) s

/-! ### DKILL (R332) -/

/-- DKILL (R332). -/
def execDkill (o : SY) (s : State) : Host.Outcome State Fault Refusal :=
  asSlot (.dkill o) (sysEffect fun s => match descendantOf s (s.sv o.sa) with
    | .error c => s.setS o.sd (refusal c)
    | .ok x => ((killDomain s s.acting x.id).setS o.sd 0).drainFor (x.id :: descendants s x.id) true) s

/-! ### DPOLICY (R333) -/

/-- A policy change of a child. -/
def policy (o : SY) (k : State → Dom → Except Nat State) (s : State) : State :=
  s.answer o (match childOf s (s.sv o.sa) with
    | .error c => .error c
    | .ok x => match k s x with
      | .error c => .error c
      | .ok s => .ok (s, 0))

def policyTrap (sb sc : Word) (s : State) (x : Dom) : Except Nat State :=
  if sc.setWidth 2 = (3 : BitVec 2) then .error 1 else .ok (putDom s { x with acts := tabPut x.acts (sb.setWidth 8) (sc.setWidth 2) })

/-- DPOLICY.trap (R333). -/
def execDpolicyTrap (o : SY) (s : State) : Host.Outcome State Fault Refusal :=
  asSlot (.dpolicyTrap o) (sysEffect fun s => policy o (policyTrap (s.sv o.sb) (s.sv o.sc)) s) s

/-- RALLOW goes in a domain and below, with CST.RWP of their contexts (R333). -/
def clearRallow (s : State) (d : BitVec 12) : State :=
  let doms := d :: descendants s d
  let s := doms.foldl (fun s k => modDom s k fun y => { y with rallow := false }) s
  let f (c : Ctx) : Ctx := if doms.contains c.dom then
    { c with rwp := false, eff := { c.eff with rwp := false }, effq := c.effq.map fun e => { e with rwp := false } } else c
  { s with ctx := f s.ctx, ctxs := s.ctxs.map fun p => (p.1, f p.2) }

def policyFlags (sb : Word) (s : State) (x : Dom) : Except Nat State :=
  let r := sb.getLsbD 0
  let d := sb.getLsbD 2
  if d && x.dlk == 0 then .error 1
  else if r && !(domAt s s.acting).rallow then .error 5
  else
    let s := putDom s { x with rallow := r, ptrap := sb.getLsbD 1, dlog := d }
    .ok (if r then s else clearRallow s x.id)

/-- DPOLICY.flags (R333). -/
def execDpolicyFlags (o : SY) (s : State) : Host.Outcome State Fault Refusal :=
  asSlot (.dpolicyFlags o) (sysEffect fun s => policy o (policyFlags (s.sv o.sb)) s) s

def policyEvq (sb sc : Word) (s : State) (x : Dom) : Except Nat State :=
  let k : BitVec 5 := sc.extractLsb' 16 5
  if sb.extractLsb' 0 12 != 0 || (k != 0 && (k.toNat < 6 || 16 < k.toNat)) then .error 1
  else .ok (putDom s { x with eqbase := sb.setWidth 52, eqk := k, eqflag := sc.setWidth 15 })

/-- DPOLICY.evq (R333). -/
def execDpolicyEvq (o : SY) (s : State) : Host.Outcome State Fault Refusal :=
  asSlot (.dpolicyEvq o) (sysEffect fun s => policy o (policyEvq (s.sv o.sb) (s.sv o.sc)) s) s

def policyDlog (sb sc : Word) (s : State) (x : Dom) : Except Nat State :=
  let k : BitVec 5 := sc.setWidth 5
  if sb.extractLsb' 0 12 != 0 || (k != 0 && (k.toNat < 9 || 20 < k.toNat)) then .error 1
  else .ok (putDom s { x with dlbase := sb.setWidth 52, dlk := k, dlog := x.dlog && k != 0 })

/-- DPOLICY.dlog (R333). -/
def execDpolicyDlog (o : SY) (s : State) : Host.Outcome State Fault Refusal :=
  asSlot (.dpolicyDlog o) (sysEffect fun s => policy o (policyDlog (s.sv o.sb) (s.sv o.sc)) s) s

def policyScope (sb sc : Word) (s : State) (x : Dom) : Except Nat State :=
  let v := vfNum sb
  let c : BitVec 2 := sc.setWidth 2
  if c = 3 then .error 1
  else if !isSelfOrBelow s x.id (vfBind s v).dom then .error 3
  else if ceilRank (domAt s s.acting).ceil < ceilRank c then .error 5
  else .ok (recomputeCeil { s with vfb := tabPut s.vfb v { vfBind s v with ceil := c, mode := sc.getLsbD 2 } })

/-- DPOLICY.scope (R325, R333). -/
def execDpolicyScope (o : SY) (s : State) : Host.Outcome State Fault Refusal :=
  asSlot (.dpolicyScope o) (sysEffect fun s => policy o (policyScope (s.sv o.sb) (s.sv o.sc)) s) s

def policyTbofs (sb : Word) (s : State) (x : Dom) : Except Nat State :=
  if sb.slt x.tbofs then .error 6 else .ok (putDom s { x with tbofs := sb })

/-- DPOLICY.tbofs (R333). -/
def execDpolicyTbofs (o : SY) (s : State) : Host.Outcome State Fault Refusal :=
  asSlot (.dpolicyTbofs o) (sysEffect fun s => policy o (policyTbofs (s.sv o.sb)) s) s

/-- A tile of the domain stands in its spill area (R314, R333). -/
def tileSpilled (s : State) (d : BitVec 12) : Bool :=
  s.cores.any fun p => p.2.tiles.any fun t => t.dom == d && (match t.st with | .spilled _ => true | _ => false)

def policySpill (sb sc : Word) (s : State) (x : Dom) : Except Nat State :=
  if sb.extractLsb' 0 18 != 0 then .error 1
  else if tileSpilled s x.id then .error 3
  else .ok (putDom s { x with spill := sb.setWidth 52, slots := sc.setWidth 12 })

/-- DPOLICY.spill (R333). -/
def execDpolicySpill (o : SY) (s : State) : Host.Outcome State Fault Refusal :=
  asSlot (.dpolicySpill o) (sysEffect fun s => policy o (policySpill (s.sv o.sb) (s.sv o.sc)) s) s

/-! ### DQUERY (R321, R334) -/

/-- VFs that a domain holds; the root holds those that no entry names. -/
def vfCount (s : State) (d : BitVec 12) : Nat :=
  if d = 0 then 1024 - (s.vfb.filter fun p => p.2.dom != 0).length else (s.vfb.filter fun p => p.2.dom == d).length

/-- Words 0 to 10 of a domain's entry. -/
def domWord (s : State) (x : Dom) (k : Nat) : Word :=
  match k with
  | 0 => (1 : BitVec 1) ++ BitVec.ofBool x.dying ++ x.depth ++ x.parent ++ BitVec.ofNat 12 (children s x.id).length ++ x.iw ++ x.bw
      ++ BitVec.ofBool x.rallow ++ BitVec.ofBool x.ptrap ++ BitVec.ofBool x.dlog ++ x.ceil ++ BitVec.ofBool x.cmode ++ x.id
  | 1 => x.eshare.setWidth 64
  | 2 => x.ptroot.setWidth 64
  | 3 => x.supcb.setWidth 64
  | 4 => x.tbofs
  | 5 => x.eqbase.setWidth 64
  | 6 => ((0 : BitVec 19) ++ x.dlk ++ (0 : BitVec 3) ++ x.eqk ++ (0 : BitVec 17) ++ x.eqflag : BitVec 64)
  | 7 => x.dlbase.setWidth 64
  | 8 => x.spill.setWidth 64 ||| x.slots.setWidth 64
  | 10 => BitVec.ofNat 64 (x.comp.length % 64 + 2 ^ 8 * (x.grants.length % 64) + 2 ^ 16 * (x.cores.length % 256) + 2 ^ 32 * (vfCount s x.id % 1024))
  | _ => 0

/-- DQUERY (R334). -/
def execDquery (o : SY) (s : State) : Host.Outcome State Fault Refusal :=
  asSlot (.dquery o) (sysEffect fun s =>
    let d : BitVec 12 := (s.sv o.sa).setWidth 12
    let v := match domAt? s d with
      | some x => if isSelfOrBelow s s.acting d then domWord s x ((s.sv o.sb).extractLsb' 0 4).toNat else 0
      | none => 0
    s.setS o.sd v) s

/-! ### TLBINV (R275, R335) -/

/-- Removal of named entries; the instruction completes when what is under way through them has been performed (R335). -/
def State.tlbinv (s : State) (o : SY) (doms : List (BitVec 12)) (lo hi : Nat) : State := ((invalidate s doms lo hi).setS o.sd 0).drainFor doms false

/-- TLBINV.all (R335). -/
def execTlbinvAll (o : SY) (s : State) : Host.Outcome State Fault Refusal :=
  asSlot (.tlbinvAll o) (sysEffect fun s => s.tlbinv o [s.acting] 0 allGranules) s

/-- TLBINV.va (R335). -/
def execTlbinvVa (o : SY) (s : State) : Host.Outcome State Fault Refusal :=
  asSlot (.tlbinvVa o) (sysEffect fun s =>
    let a := (s.sv o.sa).toNat
    let n := (s.sv o.sb).toNat
    s.tlbinv o [s.acting] (a / 2 ^ 18) (if n = 0 then 0 else (a + n - 1) / 2 ^ 18 + 1)) s

/-- TLBINV.dom (R335). -/
def execTlbinvDom (o : SY) (s : State) : Host.Outcome State Fault Refusal :=
  asSlot (.tlbinvDom o) (sysEffect fun s => match descendantOf s (s.sv o.sa) with
    | .error c => s.setS o.sd (refusal c)
    | .ok x => s.tlbinv o (x.id :: descendants s x.id) 0 allGranules) s

/-! ### EVPOST (R307) -/

/-- Queues the record of an EVPOST and writes its code. -/
def postEvent (o : SY) (target : State → Option (BitVec 12)) (s : State) : State :=
  s.privileged fun s => s.descriptor 6 (s.sv o.sb) fun s l =>
    match target s with
    | none => s.setS o.sd 2
    | some d =>
      let q := queueEvent s d s.acting 1 ((s.sv o.sc).setWidth 8) l
      q.1.setS o.sd (match q.2 with
        | .written => 0
        | .full => 1
        | .none => 3)

/-- EVPOST.own (R307). -/
def execEvpostOwn (o : SY) (s : State) : Host.Outcome State Fault Refusal :=
  asSlot (.evpostOwn o) (postEvent o fun s => some s.acting) s

/-- EVPOST.par (R307). -/
def execEvpostPar (o : SY) (s : State) : Host.Outcome State Fault Refusal :=
  asSlot (.evpostPar o) (postEvent o fun s => if s.acting = 0 then none else some (domAt s s.acting).parent) s

/-- EVPOST.child (R307). -/
def execEvpostChild (o : SY) (s : State) : Host.Outcome State Fault Refusal :=
  asSlot (.evpostChild o) (postEvent o fun s =>
    let d : BitVec 12 := (s.sv o.sa).setWidth 12
    if isDescendant s s.acting d then some d else none) s

end Sys2Proof.Machine
end

