-- ==== Sys2Proof/Machine/Rules.lean ====
section
/-! DEFINITION. RTLOAD and PGSTATE: the check of a rule image, the rule tables (spec/13 R338 to R341), page migration (R336; spec/08 R194). -/

namespace Sys2Proof.Machine

/-! ### Class E forms (R341) -/

/-- Fields of a pattern and of a template (R339). -/
def patOp (p : BitVec 48) : Nat := (p.extractLsb' 40 8).toNat
def patVar (p : BitVec 48) (k : Nat) : BitVec 4 := p.extractLsb' (36 - 4 * k) 4
def patLast (p : BitVec 48) (k : Nat) : Bool := p.getLsbD (20 - (k - 1)) && p.getLsbD (22 - (k - 1))
def patOM (p : BitVec 48) : BitVec 9 := p.extractLsb' 1 9
def patOV (p : BitVec 48) : BitVec 9 := p.extractLsb' 10 9
def tplOp (t : BitVec 44) : Nat := (t.extractLsb' 36 8).toNat
def tplVar (t : BitVec 44) (k : Nat) : BitVec 4 := t.extractLsb' (32 - 4 * k) 4
def tplSrc (t : BitVec 44) : Nat := (t.extractLsb' 22 2).toNat
def tplOV (t : BitVec 44) : BitVec 9 := t.extractLsb' 13 9
def tplOM (t : BitVec 44) : BitVec 9 := t.extractLsb' 4 9
def tplFold (t : BitVec 44) : Nat := (t.extractLsb' 2 2).toNat
def tplFsrc (t : BitVec 44) : Nat := (t.extractLsb' 0 2).toNat

def varBound (v : BitVec 4) : Bool := v.getLsbD 3

/-- A round trip: `op %h1, %h0`; `op %h2, %h1!` becomes `tcopy %h2, %h0`. -/
def roundTrip (r : Rule) (op : Nat) : Bool :=
  let p := Rule.pat r 0
  let q := Rule.pat r 1
  let t := Rule.tpl r 0
  Rule.np r == 2 && Rule.nt r == 1 && patOp p == op && patOp q == op && tplOp t == 8
    && varBound (patVar p 0) && varBound (patVar p 1) && varBound (patVar q 0)
    && patVar q 1 == patVar p 0 && patLast q 1
    && patVar p 0 != patVar p 1 && patVar q 0 != patVar p 0 && patVar q 0 != patVar p 1
    && tplVar t 0 == patVar q 0 && tplVar t 1 == patVar p 1 && tplFold t == 0 && tplOV t &&& tplOM t == 0

/-- F2 holds every value of F1 exactly: each code comes back from a conversion without a flag. -/
def holdsAll (f1 f2 : BitVec 4) : Bool :=
  if f1.toNat = 3 then f2.toNat == 4 || f2.toNat == 8
  else if f1.toNat ≤ 2 || f1.toNat = 5 then
    (f2.toNat == 3 || f2.toNat == 4 || f2.toNat ≤ 2 || (5 ≤ f2.toNat && f2.toNat ≤ 8)) && f1 != f2
      && (List.range (2 ^ fmtBits f1)).all fun b =>
        let x := tcvtElem (fmtTy f1) (fmtTy f2) .rne b
        let y := tcvtElem (fmtTy f2) (fmtTy f1) .rne x.bits
        x.fl == 0 && y.fl == 0 && y.bits == b
  else false

/-- The widening round trip: the source format is required, both targets are compared. -/
def widening (r : Rule) : Bool :=
  let p := Rule.pat r 0
  let q := Rule.pat r 1
  let f1 : BitVec 4 := (patOV q).extractLsb' 5 4
  roundTrip r 0xA && patOM p &&& 0x1E0 == 0x1E0 && patOM q &&& 0x1E0 == 0x1E0 && p.getLsbD 27 && p.extractLsb' 23 4 == f1
    && holdsAll f1 ((patOV p).extractLsb' 5 4)

/-- The operand of an instruction that a copy forwards (1 for A, 2 for B): read with its last-use mark, and replaced. -/
def forwards (p q : BitVec 48) (t : BitVec 44) (k : Nat) : Bool :=
  patVar q k == patVar p 0 && patLast q k && tplVar t k == patVar p 1
    && [0, 1, 2].all fun j => j == k || ((patVar q j != patVar p 0) && (!varBound (tplVar t j) || tplVar t j == patVar q j))

/-- `tcopy %h1, %h0` and a reader of `%h1!` become the reader of %h0. -/
def copyForward (r : Rule) : Bool :=
  let p := Rule.pat r 0
  let q := Rule.pat r 1
  let t := Rule.tpl r 0
  Rule.np r == 2 && Rule.nt r == 1 && patOp p == 8 && tplOp t == patOp q && tplSrc t == 1 && tplFold t == 0 && tplOM t == 0
    && varBound (patVar p 0) && varBound (patVar p 1) && patVar p 0 != patVar p 1 && (forwards p q t 1 || forwards p q t 2)

/-- The folds of R247: a TSCALE into A or B, a TTRANS into the TB read. -/
def folds (r : Rule) : Bool :=
  let p := Rule.pat r 0
  let q := Rule.pat r 1
  let t := Rule.tpl r 0
  Rule.np r == 2 && Rule.nt r == 1 && patOp q == 0x10 && tplOp t == 0x10 && tplSrc t == 1
    && varBound (patVar p 0) && varBound (patVar p 1) && patVar p 0 != patVar p 1
    && ((patOp p == 0xC && tplFsrc t == 0 && tplOM t == 0 && ((tplFold t == 1 && forwards p q t 1) || (tplFold t == 2 && forwards p q t 2)))
      || (patOp p == 9 && tplFold t == 0 && forwards p q t 2 && patOM q &&& 0x80 == 0x80 && patOV q &&& 0x80 == 0
        && tplOM t == 0x80 && tplOV t &&& 0x80 == 0x80))

def classEForm (r : Rule) : Bool := roundTrip r 9 || roundTrip r 0xB || widening r || copyForward r || folds r

/-! ### The structure of an image (R338 to R340) -/

/-- A pattern with no reserved field set. Every option mask OM is accepted, the partial anchor masks 0x001 to 0x1FE included (R74, R339). -/
def patGood (p : BitVec 48) : Bool := matchable (patOp p) && !p.getLsbD 0

/-- A template with no reserved field set; its OM is as free as a pattern's (R74, R339). -/
def tplGood (np : Nat) (t : BitVec 44) : Bool :=
  matchable (tplOp t) && tplSrc t < np && tplFold t != 3 && (tplFold t == 0 || decide (tplFsrc t < np))

/-- An entry of an image of a class (R282, R338 to R340). -/
def ruleGood (classR : Bool) (r : Rule) : Bool :=
  Rule.valid r && Rule.classR r == classR && Rule.dom r == 0 && !r.getLsbD 252 && r.extractLsb' 232 4 == 0
    && Rule.np r ≤ 3 && Rule.nt r ≤ 2
    && ((List.range 3).all fun k => if k < Rule.np r then patGood (Rule.pat r k) else Rule.pat r k == 0)
    && ((List.range 2).all fun k => if k < Rule.nt r then tplGood (Rule.np r) (Rule.tpl r k) else Rule.tpl r k == 0)

/-- The entry count of a header. -/
def imageCount (h : Word) : Nat := (h.extractLsb' 40 7).toNat

/-- The header of an image (R340). -/
def headerGood (l : List Word) : Bool :=
  let h := wordAt l 0
  h.extractLsb' 0 32 == 0x49525644 && h.extractLsb' 32 8 == 1 && 1 ≤ imageCount h && imageCount h ≤ 64
    && !h.getLsbD 47 && h.extractLsb' 52 12 == 0 && (List.range 7).all fun k => wordAt l (k + 1) == 0

/-- The entries of an image. -/
def imageRules (l : List Word) : List Rule :=
  (List.range (imageCount (wordAt l 0))).map fun k => BitVec.ofNat 256 (wordsNat ((l.drop (8 + 4 * k)).take 4))

/-- The words of an image with N entries: header, entries, keys, signatures (R340). -/
def imageWords (n : Nat) : Nat := 8 + 4 * n + 54 + 48 + 2028

def wordBytes (w : Word) : List (BitVec 8) := (List.range 8).map fun k => w.extractLsb' (8 * k) 8

/-- The two public keys of an image: 54 words behind its entries (R340). -/
def imageKeys (l : List Word) : List Word := (l.drop (8 + 4 * imageCount (wordAt l 0))).take 54

/-- Both signatures verify under the image's keys, whose hash is that of the rule-key slot that the header names (R340, R341). -/
def imageSigned (s : State) (l : List Word) : Bool :=
  let k : BitVec 3 := (wordAt l 0).extractLsb' 49 3
  Config.sha384 ((imageKeys l).flatMap wordBytes) == s.ruleKeys[k.toNat]'k.isLt && Config.imageVerifies (l.flatMap wordBytes)

/-- The checks of R341 in their order. -/
def imageCode (s : State) (l : List Word) : Nat :=
  let classR := (wordAt l 0).getLsbD 48
  if !imageSigned s l then 8
  else if !headerGood l || !(imageRules l).all (ruleGood classR) then 9
  else if !classR && !(imageRules l).all classEForm then 9
  else if classR && !(domAt s s.acting).rallow then 10
  else 0

/-! ### RTLOAD (R341) -/

/-- The cores that the acting domain holds. -/
def heldCores (s : State) : List CoreId := (domAt s s.acting).cores.map MapEntry.core

def ruleAt (k : Core) (i : Nat) : Option (BitVec 256) := if h : i < 64 then tabGet? k.rules (⟨i, h⟩ : Fin 64) else none

/-- The flush point of an update for the contexts of a domain on a core (R286, R341). -/
def flushDomain (s : State) (c : CoreId) (d : BitVec 12) : State :=
  ((residents s c).filter fun x => (ctxAt s x).dom == d).foldl (fun s x => modCtx s x Ctx.flush) s

/-- Writes rules at indices from i on in one core's table. -/
def putRules (d : BitVec 12) (i : Nat) (l : List Rule) (k : Core) : Core :=
  { k with rules := (l.zipIdx).foldl (fun t p => if h : i + p.2 < 64 then
      tabPut t (⟨i + p.2, h⟩ : Fin 64) (p.1.extractLsb' 252 4 ++ d ++ p.1.extractLsb' 0 240) else t) k.rules }

/-- A loaded image is measured (R426). -/
def measure (l : List Word) (s : State) : State :=
  { s with boot := { s.boot with measured := s.boot.measured ++ [Config.sha384 (l.flatMap wordBytes)] } }

def loadRules (i : Nat) (s : State) (l : List Word) : Except Nat (State × Word) :=
  let code := imageCode s l
  let d := s.acting
  let rs := imageRules l
  if code ≠ 0 then .error code
  else if 64 < i + rs.length then .error 4
  else if (heldCores s).any fun c => (List.range rs.length).any fun k => match ruleAt (coreAt s c) (i + k) with
      | some r => Rule.valid r && Rule.dom r != d
      | none => false then .error 4
  else .ok (measure l ((heldCores s).foldl (fun s c => modCore (flushDomain s c d) c (putRules d i rs)) s), 0)

/-- RTLOAD (R339 to R341): the header gives the image's length; a count outside 1 to 64 reads as none. -/
def execRtload (o : SY) (s : State) : Host.Outcome State Fault Refusal :=
  asSlot (.rtload o) (fun s => s.privileged fun s =>
    let a := s.sv o.sa
    if a.extractLsb' 0 6 != 0 then s.raise .c (precise cAlignment [a])
    else s.descriptor 1 a fun s h =>
      let n := imageCount (wordAt h 0)
      State.readWords (imageWords (if n ≤ 64 then n else 0)) 2 a s fun s l =>
        s.answer o (loadRules ((s.sv o.sb).extractLsb' 0 6).toNat s l)) s

def clearRules (i n : Nat) (s : State) : Except Nat (State × Word) :=
  let d := s.acting
  if n = 0 || 64 < n then .error 1
  else if 64 < i + n then .error 4
  else .ok ((heldCores s).foldl (fun s c => modCore (flushDomain s c d) c fun k =>
    { k with rules := k.rules.filter fun p => !(decide (i ≤ p.1.val) && decide (p.1.val < i + n) && Rule.dom p.2 == d) }) s, 0)

/-- RTLOAD.clr (R341). -/
def execRtloadClr (o : SY) (s : State) : Host.Outcome State Fault Refusal :=
  asSlot (.rtloadClr o) (sysEffect fun s =>
    s.answer o (clearRules ((s.sv o.sb).extractLsb' 0 6).toNat ((s.sv o.sc).extractLsb' 0 7).toNat s)) s

/-! ### PGSTATE (R194, R336) -/

/-- The leaf of an address of the acting domain that PGSTATE acts on: of 256 KiB or 256 MiB, in device memory. -/
def leafOf (s : State) (a : Word) : Option (Nat × Word × Place × Stage2) :=
  if 2 ^ 48 ≤ a.toNat then none
  else match walkFrom s s.acting (a.setWidth 48) 3 1 (domAt s s.acting).ptroot with
    | .stop _ _ => none
    | .leaf lvl e p =>
      if lvl == 1 then none
      else match stage2 s s.acting (leafDa lvl e (a.setWidth 48)) with
        | none => none
        | some t => if t.pa.extractLsb' 48 2 == 0 then some (lvl, e, p, t) else none

/-- Granules of a page of a level. -/
def pageGranules (lvl : Nat) : Nat := if lvl = 2 then 1024 else 1

/-- The first granule of the page that holds an address. -/
def pageFirst (lvl : Nat) (a : Word) : Nat := a.toNat / 2 ^ 18 / pageGranules lvl * pageGranules lvl

def invalidatePage (s : State) (d : BitVec 12) (lvl : Nat) (a : Word) : State :=
  invalidate s [d] (pageFirst lvl a) (pageFirst lvl a + pageGranules lvl)

def leafSt (e : Word) : BitVec 2 := e.extractLsb' 4 2
def setLeafSt (e : Word) (st : BitVec 2) : Word := e.extractLsb' 6 58 ++ st ++ e.extractLsb' 0 4

def beginMove (a : Word) (s : State) : Except Nat (State × Word) :=
  match leafOf s a with
  | none => .error 3
  | some (lvl, e, p, _) =>
    if leafSt e != 0 then .error 3
    else .ok (invalidatePage (devWrite s p 8 (setLeafSt e 2).toNat) s.acting lvl a, 0)

/-- PGSTATE.begin (R336): it completes once the requests that have left the package have been answered; what reaches the old home stalls there. -/
def execPgstateBegin (o : SY) (s : State) : Host.Outcome State Fault Refusal :=
  asSlot (.pgstateBegin o) (sysEffect fun s => match beginMove (s.sv o.sa) s with
    | .error c => s.setS o.sd (refusal c)
    | .ok (t, v) => (t.setS o.sd v).drainFor [] false) s

/-- The new leaf's reserved fields: ST, A, D and the reserved bits; the frame bits that its size leaves out. -/
def newLeafBad (lvl : Nat) (v : Word) : Bool :=
  v.extractLsb' 4 4 != 0 || v.extractLsb' 15 3 != 0 || v.extractLsb' 52 12 != 0 || (lvl == 2 && v.extractLsb' 18 10 != 0)

/-- The check of PGSTATE.end: the new leaf, with the old A and D. -/
def endMove (a v : Word) (s : State) : Except Nat Word :=
  match leafOf s a with
  | none => .error 3
  | some (lvl, e, _, _) =>
    if leafSt e != 2 then .error 3
    else if newLeafBad lvl v then .error 1
    else if !compCovers s s.acting (v.extractLsb' 18 34).toNat (pageGranules lvl) false true false then .error 3
    else .ok (v ||| 1 ||| (e &&& 0xC0))

/-- PGSTATE.end (R194, R336): the move is under way; its context waits for it. -/
def execPgstateEnd (o : SY) (s : State) : Host.Outcome State Fault Refusal :=
  asSlot (.pgstateEnd o) (sysEffect fun s => match endMove (s.sv o.sa) (s.sv o.sb) s with
    | .error c => s.setS o.sd (refusal c)
    | .ok leaf =>
      let n := s.nextMigr
      let m : Migr := ⟨n, s.acting, (s.sv o.sa).setWidth 48, leaf⟩
      { s with nextMigr := n + 1, migrs := s.migrs ++ [m] }.onCtx fun c => c.awaits (.migrate n o.sd)) s

/-- A line of the page moves with its poison mark to its new home, and its copy where the page is mirrored (R190, R192, R194). A line of another
package's memory is read there and arrives as free values (log entry 6). -/
def moveLine (s : State) (dom : BitVec 12) (va : BitVec 48) (hd : Option (Fin 4)) (p q : Place) : State :=
  let put (s : State) (v : Nat) (pois : Bool) : State := match q with
    | .mem e b => homeWritten (homeWrite s e b 64 v hd).1 e b hd pois true
    | .pkg _ _ _ => sendWrite s q 64 v (fullMask 64) pois .nobody
    | .host _ => s
    | .lost _ => noteLost s (keyDie s) dom (va.setWidth 64) noStrand
  match p with
  | .mem d a => let r := readMem s d a 64; put r.st r.val r.pois
  | .pkg _ _ a => put (sendAsk s (keyDie s) p 64 .read .nobody) (outsideRead s.clk a.toNat 64) false
  | .host _ => s
  | .lost _ => put (readLost s (keyDie s) dom (va.setWidth 64) noStrand) 0 true

/-- The place of an offset of a page under a leaf. -/
def leafPlace (s : State) (dom : BitVec 12) (lvl : Nat) (e : Word) (va : BitVec 48) : Option Place :=
  match stage2 s dom (leafDa lvl e va) with
  | none => none
  | some t => match placeOf s (e.extractLsb' 8 2) (e.extractLsb' 12 2) (e.extractLsb' 10 2) t.pa with
    | .ok p => some p
    | .error _ => none

/-- The address lies in the page that a leaf at a level maps. -/
def inPage (lvl : Nat) (page va : BitVec 48) : Bool :=
  let first := pageFirst lvl (page.setWidth 64)
  decide (first ≤ va.toNat / 2 ^ 18) && decide (va.toNat / 2 ^ 18 < first + pageGranules lvl)

/-- A store to the page that has moved is performed in its new frame; any other keeps its translation (R193, R194). -/
def GStore.follow (s : State) (m : Migr) (lvl : Nat) (dom : BitVec 12) (g : GStore) : GStore :=
  if dom == m.dom && inPage lvl m.va g.va then g.moved s dom else g

/-- MIGRATION_COPY_COMPLETE (R194, R273, R336): the lines are copied, the entry switched, the TLBs invalidated; what stalled goes on at the new home,
and what stands translated in gated buffers goes there. -/
def finishMove (s : State) (m : Migr) : State :=
  let s := { s with migrs := s.migrs.filter fun k => !(k.n == m.n) }
  let f (s : State) (lvl : Nat) (c : Ctx) : Ctx := { c with region := { c.region with stores := c.region.stores.map (GStore.follow s m lvl c.dom) } }
  let q (s : State) (lvl : Nat) (k : Stall) : Stall := match k with
    | .store x src dom grp g => .store x src dom grp (g.follow s m lvl dom)
    | .word dom a g => .word dom a g
  let s := match walkFrom s m.dom m.va 3 1 (domAt s m.dom).ptroot with
    | .stop _ _ => s
    | .leaf lvl e p =>
      let first := pageFirst lvl (m.va.setWidth 64)
      let s := (List.range (4096 * pageGranules lvl)).foldl (fun s k =>
        let va := BitVec.ofNat 48 (first * 2 ^ 18 + 64 * k)
        match leafPlace s m.dom lvl e va, leafPlace s m.dom lvl m.leaf va with
        | some a, some b => moveLine s m.dom va (leafHd m.leaf) a b
        | _, _ => s) s
      let s := invalidate (devPut s (keyDie s) m.dom (m.va.setWidth 64) noStrand p 8 m.leaf.toNat) [m.dom] first (first + pageGranules lvl)
      { s with ctx := f s lvl s.ctx, ctxs := List.map (fun p : CtxId × Ctx => (p.1, f s lvl p.2)) s.ctxs, stalls := s.stalls.map (q s lvl) }
  let f (c : Ctx) : Ctx :=
    match c.wait with
    | .migrate n sd => if n = m.n then (c.setS sd 0).nextWait else c
    | _ => c
  barWake (resumeStalls { s with ctx := f s.ctx, ctxs := List.map (fun p : CtxId × Ctx => (p.1, f p.2)) s.ctxs })

end Sys2Proof.Machine
end

