-- ==== Sys2Proof/Machine/VecTile.lean ====
section
/-! DEFINITION. Vector-tile instructions (spec/07 R173 to R179). -/

namespace Sys2Proof.Machine

/-- The 40 bits of a slot of the bundle in progress. -/
def State.slotVal (s : State) (sl : SlotId) : SlotBits :=
  match s.frame with
  | some f => slotBits f.bits sl
  | none => 0

/-- A tile-operand or dead-tile cause of a slot, with the number of the failed check (R380). -/
def State.raiseTile (s : State) (sl : SlotId) (code : BitVec 8) (num : Nat) : State :=
  s.raise sl (precise code [(s.slotVal sl).setWidth 64, BitVec.ofNat 64 num])

/-- The tile that a handle names for the focused context, in program order (R174, R225). -/
def State.tileOf (s : State) (h : BitVec 5) : Option (TRef × Tile) :=
  let c := s.src
  match handleRef c.hmap h with
  | none => none
  | some r => (refTile s s.core c.grp r).map fun t => (r, t)

/-- An entry of the window reads, writes or frees a tile (R175). -/
def tileBusy (c : Ctx) (r : TRef) : Bool := c.win.any fun e => (e.names ++ e.frees).contains r

/-- The tile is ready for an access at the core or the die store. -/
def tileReady (k : Core) (t : Tile) : Bool := t.lvl == .d || needOf k t == .ready

/-- A handle's tile is live in program order: the last entry of the window that frees or allocates it says so, else the table, where a discarded
tile is not (R174, R225, R315). -/
def liveAhead (s : State) (r : TRef) : Bool :=
  match (s.src.win.filter fun e => e.frees.contains r || (e.op == 1 && e.td == some r)).getLast? with
  | some e => !e.frees.contains r
  | none => match refTile s s.core s.src.grp r with
    | some t => t.st != .discarded
    | none => false

/-- The entries of the window that access the die store and that a VT access there follows (R271, R382). -/
def storeBefore (s : State) (x : CtxId) (c : Ctx) : List Nat := (c.win.filter fun e => e.touchesStore && !(stuckEntries s x c).contains e.n).map Entry.n

/-- A VT instruction issues: a flush point, for what R242 makes of one (R175, R286). -/
def State.flushVt (s : State) : State := imbalance (s.onCtx fun c => { c with flushed := true }) s.cur

/-- The access of a VT instruction to its tile: checks 1 to 3 of R174 in their order, the busy stall and the wake of R175. No number of the
failed condition is reported: R380 gives numbers for the checks of T-slot instructions (DESIGN CHOICE, log entry 65). -/
def State.onTile (s : State) (h : BitVec 5) (ok : Tile → Bool) (k : State → TRef → Tile → State) : State :=
  match handleRef s.src.hmap h with
  | none => s.raiseTile .s cDeadTile 0
  | some r =>
    if !liveAhead s r then s.raiseTile .s cDeadTile 0
    else
      let s := (s.stick (.touch r)).onFrame fun f => { f with names := r :: f.names }
      if tileBusy s.src r then s.unissue
      else match refTile s s.core s.src.grp r with
      | none => s.raiseTile .s cDeadTile 0
      | some t =>
        if !tileReady (coreAt s s.core) t then s.unissue
        else if t.lvl == .d && !(storeBefore s s.cur s.src).isEmpty then (s.waitFor (storeBefore s s.cur s.src)).unissue
        else if t.plane || !ok t then s.raiseTile .s cTileOperand 0
        else k s.flushVt r t

/-- S[a] + idx7 as an exact row number (R176). -/
def vtRow (s : State) (o : VT) : Nat := (s.sv o.a).toNat + o.idx.toNat

/-- Poison of the rows that a VT read takes bytes from: one consumption, and the cause where the policy enables it (R179). Where one VLDTS reads
several poisoned rows they are one consumption, and the first in element order is reported (DESIGN CHOICE, log entry 66). -/
def State.readRows (s : State) (t : Tile) (rows : List Nat) : State :=
  match rows.filter fun r => rowPoisoned t.pois r with
  | [] => s
  | r :: _ => s.consume .s 0 (BitVec.ofNat 64 (65536 * r))

/-- The checks on the byte offset and the row of VLDT and VSTT (R174, R176); no number of the failed one is reported (DESIGN CHOICE, log entry 65). -/
def State.rowAccess (s : State) (o : VT) (t : Tile) (k : State → State) : State :=
  let off := (s.sv o.b).toNat
  if off % 4 != 0 then s.raise .s (precise cAlignment [s.sv o.b])
  else if t.rows ≤ vtRow s o || t.rb ≤ off then s.raiseTile .s cTileOperand 0
  else k s

/-- VLDT (R176). -/
def execVldt (o : VT) (s : State) : Host.Outcome State Fault Refusal :=
  asSlot (.vldt o) (fun s => s.onTile o.h (fun _ => true) fun s _ t => s.rowAccess o t fun s =>
    let v := t.rowNat (vtRow s o) / 256 ^ (s.sv o.b).toNat
    (s.setV o.v (fun _ => true) (BitVec.ofNat 1024 v)).readRows t [vtRow s o]) s

/-- A row with bytes off to off + 127, as far as it has them, taken from a vector (R176). -/
def storeRow (row rb off : Nat) (v : VReg) : Nat :=
  let n := Nat.min 128 (rb - off)
  let old := row / 256 ^ off % 256 ^ n
  row - old * 256 ^ off + v.toNat % 256 ^ n * 256 ^ off

/-- A vector source that is read before anything else is looked at: where it is dead, its fault is the only one (R447). -/
def State.firstV (s : State) (sl : SlotId) (n : BitVec 5) (k : State → State) : State :=
  if s.src.vLive n then k (s.useV sl n false) else s.useV sl n false

/-- VSTT (R176, R447): a complete row clears its poison (R208). -/
def execVstt (o : VT) (s : State) : Host.Outcome State Fault Refusal :=
  asSlot (.vstt o) (fun s => s.firstV .s o.v fun s => s.onTile o.h (fun t => t.lvl != .a) fun s r t => s.rowAccess o t fun s =>
    let i := vtRow s o
    let off := (s.sv o.b).toNat
    let s := modRef s s.core s.src.grp r fun t =>
      { t with data := t.data.set i (storeRow (t.row i) t.rb off (s.vv o.v)),
               pois := if off == 0 && t.rb ≤ 128 && rowPoisoned t.pois i then t.pois - 2 ^ i else t.pois }
    (s.killV o.v o.lv).onFrame fun f => { f with endsRegion := true }) s

/-- An es-sized element at a column of a row: none where it lies outside the tile (R177). -/
def tileEs (t : Tile) (es : BitVec 2) (row col : Nat) : Option Nat :=
  let b := esBytes es
  if row < t.rows && col * b + b ≤ t.rb then some (t.rowNat row / 256 ^ (col * b) % 256 ^ b) else none

/-- VLDTS (R177). -/
def execVldts (o : VT) (s : State) : Host.Outcome State Fault Refusal :=
  asSlot (.vldts o) (fun s => s.onTile o.h (fun _ => true) fun s _ t =>
    let b := esBytes o.es
    let rows := (List.range (128 / b)).map fun j => (s.sv o.a).toNat + j * o.idx.toNat
    let y := rows.map fun r => tileEs t o.es r (s.sv o.b).toNat
    let s' := s.setV o.v (fun _ => true) (BitVec.ofNat 1024 (packElems (8 * b) (y.map fun e => e.getD 0)))
    s'.readRows t (rows.filter fun r => (tileEs t o.es r (s.sv o.b).toNat).isSome)) s

/-- Positions of the set bits of a word, lowest first. -/
def setBits (m : Word) : List Nat := (List.range 64).filter fun i => m.getLsbD i

/-- VGTHT (R177). -/
def execVgtht (o : VT) (s : State) : Host.Outcome State Fault Refusal :=
  asSlot (.vgtht o) (fun s => s.onTile o.h (fun _ => true) fun s _ t =>
    let row := (s.sv o.a).toNat
    if t.rows ≤ row then s.raiseTile .s cTileOperand 0
    else
      let b := esBytes o.es
      let y := ((setBits (s.sv o.b)).take (128 / b)).map fun p => tileEs t o.es row (64 * o.idx.toNat + p)
      let s' := s.setV o.v (fun _ => true) (BitVec.ofNat 1024 (packElems (8 * b) (y.map fun e => e.getD 0)))
      if y.any Option.isSome then s'.readRows t [row] else s') s

/-- The element that VINS and VEXT name (R178). -/
def vtElem (s : State) (o : VT) : Nat := ((s.sv o.b).toNat + o.idx.toNat) % (128 / esBytes o.es)

/-- A vector with element i of w bits replaced. -/
def putVec (v : VReg) (w i : Nat) (x : Nat) : VReg :=
  BitVec.ofNat 1024 (v.toNat - elemAt v.toNat w i * 2 ^ (w * i) + x % 2 ^ w * 2 ^ (w * i))

/-- VINS (R178). -/
def execVins (o : VT) (s : State) : Host.Outcome State Fault Refusal :=
  asSlot (.vins o) (fun s => (s.useV .s o.v false).setV o.v (fun _ => true)
    (putVec (s.vv o.v) (8 * esBytes o.es) (vtElem s o) (s.sv o.a).toNat)) s

/-- VEXT (R178). -/
def execVext (o : VT) (s : State) : Host.Outcome State Fault Refusal :=
  asSlot (.vext o) (fun s => ((s.useV .s o.v false).setS o.a
    (BitVec.ofNat 64 (elemAt (s.vv o.v).toNat (8 * esBytes o.es) (vtElem s o)))).killV o.v o.lv) s

end Sys2Proof.Machine
end

