-- ==== Sys2Proof/Machine/Tile.lean ====
section
/-! DEFINITION. T-slot instructions at issue: operand checks, allocation in program order, the window entry (spec/09 R220, R224, R225, R229 to
R234; spec/10 R238, R241, R245, R248 to R256; spec/12 R279, R290; spec/13 R316). What an entry does later is in Window. -/

namespace Sys2Proof.Machine

/-! ### Operands -/

/-- An operand of t0 to t23 as it stands in program order; t24 to t31 are checked at the die store (R225). -/
def State.opnd (s : State) (h : BitVec 5) : Opnd :=
  match s.tileOf h with
  | some (.own _, t) => .tile t
  | some (.grp _, _) => .later
  | none => if h.toNat < 24 then .free else .later

def State.refOf (s : State) (h : BitVec 5) : Option TRef := handleRef s.src.hmap h

/-- The own tiles that an entry frees leave the handle map; a spilled one gives its slot back (R230). -/
def unmapTile (s : State) (r : TRef) : State :=
  match r with
  | .grp _ => s
  | .own tid =>
    let s := s.onCtx fun c => { c with hmap := c.hmap.map fun o => if o == some tid then none else o }
    match tileAt s s.core tid with
    | none => s
    | some t =>
      let s := match t.st with
        | .spilled k => freeSlot s t.dom k
        | _ => s
      modTile s s.core tid fun t => { t with st := .dying }

/-! ### The entry -/

/-- What an instruction gives its entry. -/
structure Issue where
  sval : Word
  lay : Vector Word 12
  td : Option TRef
  ta : Option TRef
  tb : Option TRef
  frees : List TRef
  dl : BitVec 10
  deriving DecidableEq, Repr

/-- The deadline of R227 on the physical timebase. -/
def State.deadline (s : State) (dl : BitVec 10) : Option (BitVec 64) :=
  if dl = 0 then none else some (tbOf s s.core.die + BitVec.ofNat 64 (1000 * dl.toNat))

/-- The window entry of the T slot (R120, R278). -/
def State.newEntry (s : State) (q : Issue) : Entry where
  n := s.src.nextEntry
  pc := s.src.pc
  fpc := (s.src.fpc &&& 0x3E00) ||| s.src.eff.fpc.setWidth 14
  rwp := s.src.eff.rwp
  slot := s.slotVal .t
  sval := q.sval
  lay := q.lay
  st := .pending
  owed := none
  inh := false
  rule := none
  orig := []
  phia := 0
  phib := 0
  folda := false
  foldb := false
  marka := none
  markb := none
  spread := false
  dl := s.deadline q.dl
  late := false
  prog := 0
  at_ := (coreAt s s.core).cyc
  shut := false
  queued := false
  bparked := false
  paid := 0
  charged := false
  td := q.td
  ta := q.ta
  tb := q.tb
  frees := q.frees
  drawn := []
  fl := 0
  gid := 0
  pieces := []
  xpois := 0

/-- The entry leaves with its bundle, which ends its region (R60). -/
def State.issueT (s : State) (q : Issue) : State :=
  let e := s.newEntry q
  (q.frees.foldl unmapTile s).onFrame fun f => { f with entry := some e, names := e.names ++ f.names, endsRegion := true }

/-- A full window holds the bundle (R279); otherwise the operand checks, the first failure raised precisely (R225). -/
def State.checkT (s : State) (checks : List (Bool × BitVec 8 × Nat)) (base : Word) (k : State → State) : State :=
  if 16 ≤ s.src.win.length then s.unissue.onFrame fun f => { f with fullHold := true }
  else match firstBad checks with
    | some b => s.raise .t (precise b.code (badOpnd b (s.slotVal .t) base))
    | none => k s

/-- The checks of an instruction on its tile operands, by its slot value. -/
def State.tChecks (s : State) (sval : Word) : List (Bool × BitVec 8 × Nat) :=
  let w := s.slotVal .t
  let o (k : Nat) : Opnd := if usesHandle w k then s.opnd (handleAt w k) else .later
  tileChecks w sval (usesHandle w 0 && usesHandle w 1 && handleAt w 0 == handleAt w 1) (o 0) (o 1) (o 2)

/-- The reference of operand k, when the instruction has it. -/
def State.tRef (s : State) (k : Nat) : Option TRef :=
  let w := s.slotVal .t
  if usesHandle w k then s.refOf (handleAt w k) else none

/-- Tiles that the last-use marks free (R230). -/
def State.tFrees (s : State) : List TRef :=
  let m := marksOf (s.slotVal .t)
  (if m.getLsbD 1 then (s.tRef 1).toList else []) ++ (if m.getLsbD 0 then (s.tRef 2).toList else [])

/-- An instruction of the TX, MM or TQ format with the scalar that it reads. -/
def State.tIssue (s : State) (sval : Word) : State :=
  s.checkT (s.tChecks sval) 0 fun s =>
    s.issueT ⟨sval, Vector.replicate 12 0, s.tRef 0, s.tRef 1, s.tRef 2, s.tFrees, 0⟩

/-! ### Allocation (R229, R230, R314 to R316) -/

/-- The strand's live tiles in program order. -/
def ownTiles (s : State) : List Tile := (s.src.hmap.toList.filterMap id).filterMap fun n => tileAt s s.core n

/-- S banks of the strand's live S tiles. -/
def usedBanks (s : State) : Nat := (((ownTiles s).filter fun t => t.lvl == .s && t.st != .discarded).map Tile.units).sum
def usedATiles (s : State) : Nat := ((ownTiles s).filter fun t => t.lvl == .a && t.st != .discarded).length

/-- Entries of the core's tile table in use (R314): a spilled tile stands in its owner's spill area (R316). -/
def tableUsed (k : Core) : Nat := (k.tiles.filter fun t => match t.st with
  | .spilled _ => false
  | .dying => false
  | _ => true).length

/-- Owner-tagged tiles that a full table can spill, the earliest pre-empted first (R316). -/
def spillable (k : Core) : List Tile :=
  sortBy (fun a b => decide (a.since ≤ b.since)) (k.tiles.filter fun t => t.slot.isNone && (t.st == .live || t.st == .parked))

/-- Room in the table: none when every entry belongs to a resident context or the spill area is full. -/
def tableRoom (s : State) : Option State :=
  if tableUsed (coreAt s s.core) < 128 then some s
  else match spillable (coreAt s s.core) with
    | [] => none
    | t :: _ => spillTile s s.core t

/-- TALLOC of an own handle: the handle is live in program order, its tile waits for banks. -/
def allocOwn (s : State) (h : BitVec 5) (t : Tile) : State :=
  let s := match s.refOf h with
    | some (.own old) => freeTile s s.core old
    | _ => s
  let tid := (coreAt s s.core).nextTid
  let t := { t with tid := tid, slot := some s.cur.slot }
  let s := modCore s s.core fun k => { k with tiles := k.tiles ++ [t], nextTid := tid + 1 }
  let s := s.onCtx fun c => { c with hmap := if hh : h.toNat < 24 then c.hmap.set h.toNat (some tid) hh else c.hmap }
  s.issueT ⟨0, Vector.replicate 12 0, some (.own tid), none, none, [], 0⟩

/-- TALLOC (R229): for t24 to t31 every check is made at the die store (R225). -/
def tallocEffect (o : TA) (s : State) : State :=
  let w := s.slotVal .t
  let t := allocTile s.src w 0
  let live : Bool := match s.opnd o.h with
    | .tile u => u.st != .discarded
    | _ => false
  let full := (t.lvl == .s && decide (s.src.sAllot < usedBanks s + t.units)) || (t.lvl == .a && decide (s.src.aAllot < usedATiles s + 1))
  s.checkT (if o.h.toNat < 24 then [(allocRefused w || live, cTileOperand, 0), (full, cTileTableFull, 0)] else []) 0 fun s =>
    if o.h.toNat < 24 then
      match tableRoom s with
      | none => s.raise .t (precise cTileTableFull [w.setWidth 64, 0])
      | some s => allocOwn s o.h t
    else s.issueT ⟨0, Vector.replicate 12 0, s.refOf o.h, none, none, [], 0⟩

/-- TALLOC (R229). -/
def execTalloc (o : TA) (s : State) : Host.Outcome State Fault Refusal := asSlot (.talloc o) (tallocEffect o) s

/-- TFREE (R230). -/
def execTfree (o : TX) (s : State) : Host.Outcome State Fault Refusal :=
  asSlot (.tfree o) (fun s => s.checkT (s.tChecks 0) 0 fun s =>
    s.issueT ⟨0, Vector.replicate 12 0, s.tRef 0, none, none, (s.tRef 0).toList, 0⟩) s

/-- TPARK (R230). -/
def execTpark (o : TX) (s : State) : Host.Outcome State Fault Refusal := asSlot (.tpark o) (fun s => s.tIssue 0) s

/-- TWAKE (R230). -/
def execTwake (o : TX) (s : State) : Host.Outcome State Fault Refusal := asSlot (.twake o) (fun s => s.tIssue 0) s

/-! ### Transfers (R220, R231 to R233) -/

/-- A transfer at issue: its record register, the record, the checks of R220 and R225. `freesTile` marks TSTORE, whose LR frees the tile. -/
def transferEffect (op : Nat) (o : TM) (freesTile : Bool) (s : State) : State :=
  let v := s.vv o.rcd
  let base := s.sv o.base
  let s := s.useV .t o.rcd true
  let s := if recordReserved v then s.raiseReserved .t else s
  s.checkT (transferChecks op (recordOf v) base (s.opnd o.h)) base fun s =>
    let s := if freesTile then s else s.killV o.rcd o.lr
    s.issueT ⟨base, recordOf v, s.refOf o.h, none, none, if freesTile && o.lr == 1 then (s.refOf o.h).toList else [], o.dl⟩

/-- TLOAD (R231). -/
def execTload (o : TM) (s : State) : Host.Outcome State Fault Refusal := asSlot (.tload o) (transferEffect 5 o false) s

/-- TSTORE (R232). -/
def execTstore (o : TM) (s : State) : Host.Outcome State Fault Refusal := asSlot (.tstore o) (transferEffect 6 o true) s

/-- TCKPT (R233). -/
def execTckpt (o : TM) (s : State) : Host.Outcome State Fault Refusal := asSlot (.tckpt o) (transferEffect 0x18 o false) s

/-! ### Transforms (R234) -/

/-- TFILL (R234): the scalar is read at issue. -/
def execTfill (o : TX) (s : State) : Host.Outcome State Fault Refusal := asSlot (.tfill o) (fun s => s.tIssue (s.sv o.x)) s

/-- TCOPY (R234). -/
def execTcopy (o : TX) (s : State) : Host.Outcome State Fault Refusal := asSlot (.tcopy o) (fun s => s.tIssue 0) s

/-- TTRANS (R234). -/
def execTtrans (o : TX) (s : State) : Host.Outcome State Fault Refusal := asSlot (.ttrans o) (fun s => s.tIssue 0) s

/-- TCVT (R234). -/
def execTcvt (o : TX) (s : State) : Host.Outcome State Fault Refusal := asSlot (.tcvt o) (fun s => s.tIssue 0) s

/-- TPLANE (R234). -/
def execTplane (o : TX) (s : State) : Host.Outcome State Fault Refusal := asSlot (.tplane o) (fun s => s.tIssue 0) s

end Sys2Proof.Machine
end

