-- ==== Sys2Proof/Machine/Sync.lean ====
section
/-! DEFINITION. Y-slot instructions: counting flags, barriers, FENCE and timed waits (spec/14 R349 to R358, R367; spec/11 R264, R269, R270;
spec/15 R382). -/

namespace Sys2Proof.Machine

/-- Every Y instruction but FRD is a flush point and ends its region (R60, R286). -/
def State.syncPoint (s : State) : State := s.onFrame fun f => { f with flushAfter := true, endsRegion := true }

/-- A progress event resets the watchdog's count (R368). -/
def State.progress (s : State) : State := s.onCtx fun c => { c with wdc := 0 }

/-! ### Flags (R351) -/

/-- The core that a flag instruction names: none when the target is not in the domain's core map. -/
def flagCore (s : State) (o : YF) : Option CoreId :=
  if o.rt == 1 then physOf s s.src.dom o.die o.core else some s.core

/-- v := (S[sa] + imm8) mod 2^32. -/
def flagOperand (s : State) (o : YF) : BitVec 32 := (s.sv o.sa + o.imm.setWidth 64).setWidth 32

/-- A flag access waits for the strand's earlier posts at the flag's core that still wait themselves, those apart that a parked entry holds back while
TE = 0 (R261, R350, R382). -/
def State.afterPosts (s : State) (c : CoreId) (k : State → State) : State :=
  match s.src.posts.filter fun p => p.fl.core == c && !(p.after.any (stuckEntries s s.cur s.src).contains) with
  | [] => k s
  | l => s.waitFor (l.flatMap Post.after)

/-- An access to a flag: the permission fault without a target, the rules of a lost home at a lost die. -/
def State.postOn (s : State) (o : YF) (lost live : State → FlagRef → State) : State :=
  match flagCore s o with
  | none => s.raisePermission .y
  | some c =>
    if serves s c.die then live s ⟨c, fin32 o.f.toNat⟩
    else lost (noteLost s s.core.die s.src.dom 0 (groupWord s.src.grp)) ⟨c, fin32 o.f.toNat⟩

/-- An access to a flag that takes its place in the order of the strand's accesses there at once (R261). -/
def State.onFlag (s : State) (o : YF) (lost live : State → FlagRef → State) : State :=
  match flagCore s o with
  | none => s.postOn o lost live
  | some c => s.afterPosts c fun s => s.postOn o lost live

/-- FPOST (R350 to R352). -/
def execFpost (o : YF) (s : State) : Host.Outcome State Fault Refusal :=
  asSlot (.fpost o) (fun s => s.syncPoint.progress.onFlag o (fun s _ => s) fun s fl => postFlag s fl (flagOperand s o)) s

/-- Entries after whose completion an FPOSTR is performed, the bundle's own T entry included (R264). -/
def postAfter (s : State) : List Nat :=
  ((s.src.win ++ (match s.frame with
    | some f => f.entry.toList
    | none => [])).filter Entry.reaches).map Entry.n

/-- The bundle's own stores. -/
def ownStores (s : State) : List GStore := (s.frame.map Frame.stores).getD []

/-- Every store of the strand so far, the bundle's own among them, is performed when the bundle ends: none stalls or goes to another package. -/
def storesLocal (s : State) : Bool :=
  !storesOut s s.cur && regionLocal s && (ownStores s).all fun g => !storeStops s s.cur s.src.dom g && !(g.place s).isPkg

/-- A tag above those that the strand's stores so far can take. -/
def storesTag (s : State) : Nat := s.nextTag + s.src.region.stores.length + (ownStores s).length

/-- FPOSTR: performed once every earlier access is (R264, R352). -/
def execFpostr (o : YF) (s : State) : Host.Outcome State Fault Refusal :=
  asSlot (.fpostr o) (fun s => (s.syncPoint.progress.scoped .y 2).postOn o (fun s _ => s) fun s fl =>
    if (postAfter s).isEmpty && storesLocal s then postFlag s fl (flagOperand s o)
    else s.onCtx fun c => { c with posts := c.posts ++ [⟨fl, flagOperand s o, postAfter s, storesTag s⟩] }) s

/-- FSET (R351, R352). -/
def execFset (o : YF) (s : State) : Host.Outcome State Fault Refusal :=
  asSlot (.fset o) (fun s => s.syncPoint.progress.onFlag o (fun s _ => s) fun s fl => setFlag s fl (flagOperand s o)) s

/-- FRD (R351, R352). -/
def execFrd (o : YF) (s : State) : Host.Outcome State Fault Refusal :=
  asSlot (.frd o) (fun s => s.onFlag o (fun s _ => s.setS o.sd 0) fun s fl => s.setS o.sd ((flagVal s fl).setWidth 64)) s

/-! ### Waiting for the window (R264, R269, R382) -/

/-- The entries that FENCE, BAR and FWAIT wait for: while TE = 0 every entry that can complete, else for FENCE and BAR those that reach memory or
a D tile. -/
def syncWaits (s : State) (x : CtxId) (c : Ctx) : List Nat := if c.te then waitReach s x c else waitAll s x c

/-- An access of the bundle itself is performed after it: its T entry's, or a store that stalls or goes to another package (R264, R269). -/
def ownReaches (s : State) : Bool :=
  !storesLocal s || match s.frame.bind Frame.entry with
    | some e => e.reaches
    | none => false

/-- The context waits while earlier entries are incomplete or earlier stores have not been performed; its region's stores leave meanwhile (R264,
R269). -/
def State.afterWindow (s : State) (l : List Nat) (k : State → State) : State :=
  if l.isEmpty && !storesOut s s.cur && regionLocal s then k s
  else (s.onFrame fun f => { f with drains := true, park := .fence }).waitFor l

/-- FENCE (R269, R270, R355). -/
def execFence (o : YF) (s : State) : Host.Outcome State Fault Refusal :=
  asSlot (.fence o) (fun s => (s.syncPoint.scoped .y o.f.toNat).afterWindow (syncWaits s s.cur s.src) fun s =>
    if ownReaches s then s.onCtx fun c => c.awaits .fence else s) s

/-- Arrival at barrier k of the strand's group; the context waits for the phase to change (R354). -/
def arrive (s : State) (k : Fin 4) : State :=
  match groupAt s s.ctx.grp with
  | none => s
  | some g =>
    let phase := g.bars[k.val].phase
    let s := modGroup s g.id fun g => barArrive g k
    barWake (s.onCtx fun c => c.awaits (.bar k phase))

/-- BAR (R354); in a reflection strand it takes the permission fault (R384). -/
def execBar (o : YF) (s : State) : Host.Outcome State Fault Refusal :=
  asSlot (.bar o) (fun s =>
    let k := fin4 o.f.toNat
    match s.src.occ with
    | .refl _ _ => s.raisePermission .y
    | _ => s.syncPoint.afterWindow (syncWaits s s.cur s.src) fun s =>
      if ownReaches s then s.onCtx fun c => c.awaits (.arrive k) else arrive s k) s

/-! ### FWAIT (R43, R352, R353, R367) -/

/-- The event strand of a domain is the one that most recently executed FWAIT on EQFLAG (R367). -/
def noteEventStrand (s : State) (fl : FlagRef) : State :=
  modDom s s.src.dom fun d => if notifyFlag s d == some fl then { d with evt := some ⟨s.ctx.occ, s.ctx.grp, s.ctx.strix⟩ } else d

/-- A wait that is not satisfied: a remote one registers a watch, or polls while the 64 watches are taken (R353). -/
def flagWait (s : State) (o : YF) (fl : FlagRef) (dead : Bool) : State :=
  let k := coreAt s fl.core
  let full := 64 ≤ k.watches.length
  let remote := o.rt == 1
  let s := if remote && !full then putCore s fl.core { k with watches := k.watches ++ [(s.cur.slot, s.cur)] } else s
  s.onCtx fun c => c.awaits (.fwait fl dead (flagOperand s o) (o.rt == 1) o.die o.core (remote && full) false)

/-- FWAIT (R351 to R353). -/
def fwaitEffect (o : YF) (s : State) : State :=
  let s := s.syncPoint.onFrame fun f => { f with waitsOn := if flagCore s o == some s.core then some (fin32 o.f.toNat) else none }
  let go (s : State) : State := s.onFlag o (fun s fl => flagWait s o fl true) fun s fl =>
    let s := noteEventStrand s fl
    if (flagOperand s o).toNat ≤ (flagVal s fl).toNat then s.progress else flagWait s o fl false
  if s.src.te then go s else s.afterWindow (waitAll s s.cur s.src) go

/-- FWAIT (R351 to R353). -/
def execFwait (o : YF) (s : State) : Host.Outcome State Fault Refusal := asSlot (.fwait o) (fwaitEffect o) s

/-! ### TMWAIT (R358) -/

/-- Waits until the die's physical timebase reaches a target. -/
def State.waitUntil (s : State) (tgt : BitVec 64) : State :=
  if tgt.toNat ≤ (tbOf s s.core.die).toNat then s.syncPoint.progress else s.syncPoint.onCtx fun c => c.awaits (.tmwait tgt)

/-- S[sa] + 1,000 × imm8 modulo 2^64. -/
def timeOperand (s : State) (o : YF) : Word := s.sv o.sa + BitVec.ofNat 64 (1000 * o.imm.toNat)

/-- TMWAIT, absolute: a target in TB, converted by the domain's TBOFS (R358). -/
def execTmwait (o : YF) (s : State) : Host.Outcome State Fault Refusal :=
  asSlot (.tmwait o) (fun s => s.waitUntil (timeOperand s o - (domAt s s.src.dom).tbofs)) s

/-- TMWAIT, relative to TB at issue (R358). -/
def execTmwaitRel (o : YF) (s : State) : Host.Outcome State Fault Refusal :=
  asSlot (.tmwaitRel o) (fun s => s.waitUntil (tbView s s.core.die s.src.dom + timeOperand s o - (domAt s s.src.dom).tbofs)) s

end Sys2Proof.Machine
end

