-- ==== Sys2Proof/Machine/Sched.lean ====
section
/-! DEFINITION. The strand scheduler and the issue choice: which context issues, merging, slew, watchdog, ends of strands, admission and take-up
(spec/14 R359 to R368; spec/03 R65; spec/02 R21, R23, R25; spec/06 R142, R145, R146; spec/12 R294). An event that is not enabled changes
nothing (log entry 8). -/

namespace Sys2Proof.Machine

/-- The outcome of an event: its effect where it is enabled (log entry 8). -/
def whenOk (ok : Bool) (eff : State → State) (s : State) : Host.Outcome State Fault Refusal := .next (if ok then eff s else s)

/-! ### Ready contexts and their bundles -/

/-- A context whose next bundle can issue. A bundle whose access outside has been performed issues again before a save or a cause that is due
(R54, R272; log entry 6). -/
def Ctx.ready (c : Ctx) : Bool := c.occupied && c.wait == .none && (!c.reply.isEmpty || (c.saving.isNone && c.due.isNone))

/-- The virtual address of a context's bundle; none beyond the virtual space (R45). -/
def Ctx.bundleVa (c : Ctx) : Option (BitVec 48) :=
  let a := c.cbase.toNat + 40 * c.pc.toNat
  if a + 40 ≤ 2 ^ 48 then some (BitVec.ofNat 48 a) else none

/-- The bundle that a context would issue. -/
def peekBundle (s : State) (x : CtxId) : Option (BitVec 320) :=
  match (ctxAt s x).again with
  | some w => some w
  | none => match (ctxAt s x).bundleVa with
  | none => none
  | some va => match fetchBundle s (ctxAt s x).fetched x.core (ctxAt s x).dom (groupWord (ctxAt s x).grp) va with
    | .ok w _ => some w
    | .bad _ _ _ => none
    | .wait _ => none
    | .ask _ _ _ _ => none

def bundleEw (w : Option (BitVec 320)) : Nat :=
  match w with
  | some b => (Header.ofBits (b.extractLsb' 0 40)).ew.toNat
  | none => 0

/-- The non-empty slots of a bundle. -/
def usedSlots (w : BitVec 320) : List SlotId := SlotId.all.filter fun sl => slotBits w sl != 0

/-- Lane groups that a context's bundle claims, if it is legal (R56). -/
def claimedLanes (te : Bool) (w : BitVec 320) : Option Nat :=
  match decodeBundleIn te w with
  | .legal b => if b.hdr.mi || b.hdr.opv then none else some (b.slots.map Instr.laneGroups).sum
  | .illegal _ _ => none

/-- The bundles of two contexts can issue in one cycle (R65). -/
def mergeable (s : State) (x y : CtxId) : Bool :=
  match peekBundle s x, peekBundle s y with
  | some a, some b => match claimedLanes (ctxAt s x).te a, claimedLanes (ctxAt s y).te b with
    | some m, some n => m + n ≤ 4 && !((usedSlots a).any fun sl => (usedSlots b).contains sl)
    | _, _ => false
  | _, _ => false

/-- The bundle carries an MMA. -/
def hasMma (w : BitVec 320) : Bool := slotBits w .t >>> 32 == 0x10

/-! ### The issue choice (R359, R361, R367) -/

/-- The context that issued least recently, the lowest slot on a tie. -/
def leastRecent (s : State) (l : List CtxId) : Option CtxId :=
  l.foldl (fun (b : Option CtxId) x =>
    match b with
    | none => some x
    | some y => if (ctxAt s x).lastIssue < (ctxAt s y).lastIssue then some x else some y) none

/-- A deficit saturates at ±2^23. -/
def satDeficit (d : Int) : Int := if d < -8388608 then -8388608 else if 8388608 < d then 8388608 else d

def deficit (k : Core) (d : BitVec 12) : Int := tabGet k.deficits d 0

/-- The issue weight of a domain. -/
def weightOf (s : State) (d : BitVec 12) : Int := ((domAt s d).iw.toNat : Int)

/-- The contexts that a choice is made among: those that YIELD sets aside count only when no other is ready (R145). -/
def choosable (s : State) (l : List CtxId) : List CtxId :=
  match l.filter fun x => decide ((ctxAt s x).yieldTo ≤ (coreAt s x.core).cyc) with
  | [] => l
  | m => m

/-- A domain's deficit after step 1 (R359). -/
def raised (s : State) (k : Core) (d : BitVec 12) : Int := satDeficit (deficit k d + weightOf s d)

/-- The primary of step 2: the largest deficit, then the lowest slot of the candidates. -/
def primaryOf (s : State) (d : BitVec 12 → Int) (l : List CtxId) : Option CtxId :=
  ((dedup (l.map fun x => (ctxAt s x).dom)).filterMap fun k => leastRecent s (l.filter fun x => (ctxAt s x).dom == k)).foldl (fun (b : Option CtxId) x =>
    match b with
    | none => some x
    | some y =>
      let p := d (ctxAt s x).dom
      let q := d (ctxAt s y).dom
      if q < p || (p == q && x.slot < y.slot) then some x else some y) none

/-- What names a strand: how it stands on its slot, its group and index. -/
def Ctx.strandId (c : Ctx) : StrandId := ⟨c.occ, c.grp, c.strix⟩

/-- An event strand that must issue now: its last bundle issued 63 core cycles ago, and its next carries no MMA (R41, R367). One that YIELD has set
aside issues as well (DESIGN CHOICE, log entry 77: R145 and R367 leave open which of them wins). -/
def eventStrand (s : State) (c : CoreId) (l : List CtxId) : Option CtxId :=
  let k := coreAt s c
  leastRecent s (l.filter fun x => (domAt s (ctxAt s x).dom).evt == some (ctxAt s x).strandId
    && decide ((ctxAt s x).issued + 63 ≤ k.cyc) && match peekBundle s x with
      | some w => !hasMma w
      | none => true)

/-- The second context (R65). -/
def secondOf (s : State) (x : CtxId) (l : List CtxId) : Option CtxId := leastRecent s (l.filter fun y => !(decide (y = x)) && mergeable s x y)

/-- The deficits after a choice (R359). -/
def newDeficits (s : State) (c : CoreId) (ready : List CtxId) (x : CtxId) : Tab (BitVec 12) Int :=
  let k := coreAt s c
  let rd := dedup (ready.map fun y => (ctxAt s y).dom)
  let w := (rd.map (weightOf s)).foldl (fun (a b : Int) => a + b) 0
  (dedup ((residents s c).map fun y => (ctxAt s y).dom)).map fun d =>
    let v := deficit k d
    (d, if rd.contains d then (if (ctxAt s x).dom == d then satDeficit (raised s k d - w) else raised s k d) else if 0 < v then 0 else v)

/-- The contexts of a core that are ready: one whose bundle could not issue in this cycle is not, while another one is. -/
def readyNow (s : State) (c : CoreId) : List CtxId :=
  let l := (residents s c).filter fun x => (ctxAt s x).ready
  match l.filter fun x => !(ctxAt s x).blocked with
  | [] => l
  | m => m

/-- A cycle of a core is over: the watchdog of the contexts that count it, and every context may be ready again (R368). -/
def endCycle (s : State) (c : CoreId) (counted : List CtxId) : State :=
  (residents s c).foldl (fun s y => modCtx s y fun k => { k with wdc := if counted.contains y then satInc k.wdc else k.wdc, blocked := false }) s

/-- The EW of a cycle enters the sum of the last 256 (R361). -/
def pushEw (s : State) (c : CoreId) (ew : Nat) : State := modCore s c fun k => { k with ews := (ew :: k.ews).take 256 }

/-- The chosen contexts issue at the next steps; the cycle is counted when the primary's bundle does. -/
def grantIssue (s : State) (x : CtxId) (y : Option CtxId) (a : Account) : State := { focusOn s x with turn := true, second := y, acct := some a }

/-- ISSUE_CHOICE (R359, R361, R366, R367). -/
def chooseIssue (s0 : State) (c : CoreId) : State :=
  let s := opUpdate { s0 with second := none, acct := none } c []
  let ready := readyNow s c
  let k := coreAt s c
  let l := choosable s ready
  let forced := eventStrand s c ready
  match forced <|> primaryOf s (raised s k) l with
  | none => s
  | some x =>
    let y := secondOf s x l
    let ew := bundleEw (peekBundle s x) + match y with
      | some y => bundleEw (peekBundle s y)
      | none => 0
    let d := (ctxAt s x).dom
    if (k.ews.take 255).sum + ew ≤ (limitsOf s d).slew then grantIssue s x y ⟨false, ready⟩
    else if forced.isSome then grantIssue s x none ⟨true, ready⟩
    else throttleEvent (pushEw (endCycle s c []) c 0) c d .slew

/-- A core of the package that can issue: a ready context, no bundle already chosen. -/
def canChoose (s : State) (c : CoreId) : Bool :=
  s.frame.isNone && !s.turn && serves s c.die && tbReady s && (residents s c).any fun x => (ctxAt s x).ready

/-- ISSUE_CHOICE (R359). -/
def execIssueChoice (c : CoreId) (s : State) : Host.Outcome State Fault Refusal := whenOk (canChoose s c) (fun s => chooseIssue s c) s

/-! ### Traps at a boundary (R368, R376) -/

/-- WATCHDOG (R368): the cause is due at the context's next boundary. -/
def execWatchdog (x : CtxId) (s : State) : Host.Outcome State Fault Refusal := .next (noteWatchdog s x)

/-- TRAP_DELIVERY (R376, R377): a cause that is due is delivered at the boundary. -/
def execTrapDelivery (x : CtxId) (s : State) : Host.Outcome State Fault Refusal :=
  whenOk (takesDue s x) (fun s => deliverDue s x) s

/-! ### Ends of strands (R21, R142, R146) -/

/-- The window is empty, and every FPOSTR and store is performed (R142, R146). -/
def windowDone (s : State) (x : CtxId) : Bool := (ctxAt s x).win.isEmpty && (ctxAt s x).posts.isEmpty && !storesOut s x

/-- A SUSPEND's record can be written. -/
def recordReady (s : State) (x : CtxId) : Bool := (ctxAt s x).wait == .suspend && (ctxAt s x).saving.isNone && windowDone s x

/-- SUSPEND_RECORD_WRITE (R21, R142). -/
def execSuspendRecordWrite (x : CtxId) (s : State) : Host.Outcome State Fault Refusal :=
  whenOk (recordReady s x) (fun s =>
    let dom := (ctxAt s x).dom
    holdDomain (writeRecord s x) dom x.core.die) s

/-- HALT's end: the strand is Done, or the reflection strand ends (R146, R384). -/
def finishStrand (s : State) (x : CtxId) : State :=
  let c := ctxAt s x
  match c.occ with
  | .refl h slot => reflHalt s x h slot
  | _ => memberDone (endStrand s x) c.grp c.strix

/-- A strand that has halted can end. -/
def haltReady (s : State) (x : CtxId) : Bool := (ctxAt s x).wait == .halt && (ctxAt s x).saving.isNone && windowDone (duePosts s x) x

/-- STRAND_DONE (R146). -/
def execStrandDone (x : CtxId) (s : State) : Host.Outcome State Fault Refusal := whenOk (haltReady s x) (fun s => finishStrand (duePosts s x) x) s

/-! ### Admission, restore and take-up in the scheduler's order (R294, R391) -/

/-- A saved strand that a slot can restore: not Held, a core of its domain, its allotment free, room for the tiles that another core spills. -/
def canRestore (s : State) (c : CoreId) (v : Saved) : Bool :=
  !v.held && canMoveTiles s v.core c v.base.grp v.base.strix && !(coreAt s c).removed && (virtOf s v.base.dom c).isSome && decide (v.base.sAllot ≤ coreBanks - heldBanks s c)
    && decide (v.base.aAllot ≤ 8 - heldAcc s c)

/-- The saved strand that an idle slot restores: the highest priority, then the oldest; the core that holds its tiles is preferred (R391). -/
def restoreChoice (s : State) (x : CtxId) : Option Saved :=
  if (ctxAt s x).occupied || !isLive s x.core.die || (dieAt s x.core.die).fenced then none
  else
    let elsewhere (v : Saved) : Bool := !(decide (v.core = x.core)) && canRestore s v.core v && !(idleSlots s v.core).isEmpty
    ((dieAt s x.core.die).saved.filter fun v => canRestore s x.core v && !elsewhere v).foldl (fun (b : Option Saved) v =>
      match b with
      | none => some v
      | some m => if m.base.pri.ult v.base.pri || (m.base.pri == v.base.pri && decide (v.arrival < m.arrival)) then some v else some m) none

/-- Some idle context of a die would restore a strand at a level or above. -/
def restoreAt (s : State) (d : Fin 4) (pri : BitVec 3) : Bool :=
  (coresOf d).any fun c => (slotsOf c).any fun x => match restoreChoice s x with
    | some v => pri.ule v.base.pri
    | none => false

/-- The level of the group that the die would admit or reject now. -/
def admissionLevel (s : State) (d : Fin 4) : Option (BitVec 3) := (admission s d).map fun p => lPri p.1.record

/-- No group of a level above is admitted first. -/
def noAdmissionAbove (s : State) (d : Fin 4) (pri : BitVec 3) : Bool :=
  match admissionLevel s d with
  | some q => !pri.ult q
  | none => true

/-- GANG_ADMISSION (R25, R26, R28, R294): after the saved strands and continuations of its level and above. -/
def execGangAdmission (d : Fin 4) (s : State) : Host.Outcome State Fault Refusal :=
  whenOk (match admissionLevel s d with
    | some p => !takeUpAt s d p && !restoreAt s d p
    | none => false) (fun s => gangAdmit s d) s

/-- CONTINUATION_TAKE_UP (R22, R23, R294): after the saved strands of its level and above. -/
def execContinuationTakeUp (x : CtxId) (s : State) : Host.Outcome State Fault Refusal :=
  whenOk (match takeUpChoice s x with
    | some e => noAdmissionAbove s x.core.die (recLevel e.record) && !restoreAt s x.core.die (recLevel e.record)
    | none => false) (fun s => takeUp s x) s

/-- No continuation entry of a level above is taken up first (R294, R391). -/
def noTakeUpAbove (s : State) (d : Fin 4) (pri : BitVec 3) : Bool := pri == 7 || !takeUpAt s d (pri + 1)

/-- A restore's turn in its die's queues: after everything of the levels above it (R294, R391). -/
def restoreTurn (s : State) (d : Fin 4) (v : Saved) : Bool := noAdmissionAbove s d v.base.pri && noTakeUpAbove s d v.base.pri

/-- RESTORE (R391): the oldest saved strand of the highest level that the slot can take. -/
def execRestore (x : CtxId) (s : State) : Host.Outcome State Fault Refusal :=
  whenOk (match restoreChoice s x with
    | some v => restoreTurn s x.core.die v
    | none => false) (fun s => match restoreChoice s x with
      | some v => restoreStrand s x v
      | none => s) s

end Sys2Proof.Machine
end

