-- ==== Sys2Proof/Machine/WindowEvents.lean ====
section
/-! DEFINITION. Events of window entries, of the copy engine and of the budgets (spec/09 R224 to R228; spec/12 R285, R297 to R299; spec/14 R357,
R360, R364). -/

namespace Sys2Proof.Machine

/-- An entry of a context meets a test. -/
def entryIs (s : State) (x : CtxId) (n : Nat) (p : Entry → Bool) : Bool :=
  match entryAt (ctxAt s x) n with
  | some e => p e
  | none => false

/-- The effect on an entry of a context. -/
def onEntry (s : State) (x : CtxId) (n : Nat) (f : Entry → State) : State :=
  match entryAt (ctxAt s x) n with
  | some e => f e
  | none => s

/-- An entry starts, or an MMA that has waited for scales goes on (R236). -/
def startOrResume (s : State) (x : CtxId) (e : Entry) : State := if canStart s x e then startEntry s x e else mmaResume s x

/-- ENTRY_START (R224, R236, R242, R297). -/
def execEntryStart (x : CtxId) (n : Nat) (s : State) : Host.Outcome State Fault Refusal :=
  whenOk (entryIs s x n fun e => canStart s x e || canResume s x e) (fun s => onEntry s x n (startOrResume s x)) s

/-- TILE_ENTRY_COMPLETE (R226, R230, R234, R248 to R256, R290). -/
def execTileEntryComplete (x : CtxId) (n : Nat) (s : State) : Host.Outcome State Fault Refusal :=
  whenOk (entryIs s x n (canComplete s x)) (fun s => onEntry s x n (completeEntry s x)) s

/-- MMA_COMPLETE (R239, R243). -/
def execMmaComplete (x : CtxId) (n : Nat) (s : State) : Host.Outcome State Fault Refusal :=
  whenOk (entryIs s x n (mmaDone s x)) (fun s => onEntry s x n (finishMma s x)) s

/-- A held entry's 256 core cycles are over. -/
def holdOver (s : State) (x : CtxId) (e : Entry) : Bool := e.st == .held && decide (e.at_ + 256 ≤ (coreAt s x.core).cyc)

/-- HOLD_RELEASE (R285). -/
def execHoldRelease (x : CtxId) (n : Nat) (s : State) : Host.Outcome State Fault Refusal :=
  whenOk (entryIs s x n (holdOver s x)) (fun s => modEntry s x n fun e => { e with st := .pending }) s

/-- COPY_STEP (R228, R298, R299). -/
def execCopyStep (c : CoreId) (s : State) : Host.Outcome State Fault Refusal := whenOk (copyDue s c) (fun s => copyEngineStep s c) s

/-- DEADLINE_MISS (R227, R357): the miss is owed; the entry goes on. -/
def execDeadlineMiss (x : CtxId) (n : Nat) (s : State) : Host.Outcome State Fault Refusal :=
  whenOk ((ctxAt s x).occupied && entryIs s x n (deadlinePassed s x)) (fun s => onEntry s x n fun e =>
    modCtx (modEntry s x n fun e => { e with late := true }) x fun c => c.owesMiss e) s

/-! ### Refills (R360, R364) -/

/-- The number of the refill period in which a time lies. -/
def periodOf (tb : BitVec 64) : Nat := tb.toNat / 1024

/-- EBUD after n refills (R360). -/
def refilled (s : State) (n : Nat) (x : CtxId) : BitVec 32 :=
  let c := ctxAt s x
  let e := (domAt s c.dom).eshare.toNat
  BitVec.ofNat 32 (Nat.min (c.ebud.toNat + n * (energyGrant s x.core c.dom 0).toNat) (Nat.min (4 * e) 0xFFFFFFFF))

def energyDue (s : State) : Bool := decide (s.energyAt < periodOf (tbOf s (keyDie s)))

/-- ENERGY_REFILL (R360): a refill for every period boundary that has passed. -/
def execEnergyRefill (s : State) : Host.Outcome State Fault Refusal :=
  whenOk (energyDue s) (fun s =>
    let n := periodOf (tbOf s (keyDie s)) - s.energyAt
    let s := { s with energyAt := periodOf (tbOf s (keyDie s)) }
    (allResidents s).foldl (fun s x => putCtx s x { ctxAt s x with ebud := refilled s n x }) s) s

/-- A budget-parked command re-enters arbitration with its pass raised (R299). -/
def unparkBudget (s : State) (x : CtxId) : State :=
  match (ctxAt s x).win.find? fun e => e.bparked with
  | none => s
  | some e =>
    let pass := Nat.max (ctxAt s x).pass (arrivalPass s x.core)
    let s := modEntry s x e.n fun e => { e with bparked := false, queued := true }
    let s := modCtx s x fun c => { c with pass := pass, frozen := false }
    modCore s x.core fun k => { k with copyq := k.copyq ++ [(x.slot, e.n)] }

def bandwidthDue (s : State) (d : Fin 4) : Bool := decide ((dieAt s d).refillAt < periodOf (tbOf s d))

/-- BANDWIDTH_REFILL (R299, R364): every BBUD of the die is BCAP again. -/
def execBandwidthRefill (d : Fin 4) (s : State) : Host.Outcome State Fault Refusal :=
  whenOk (bandwidthDue s d) (fun s =>
    let s := modDie s d fun y => { y with bbud := [], refillAt := periodOf (tbOf s d) }
    ((allResidents s).filter fun x => x.core.die == d).foldl unparkBudget s) s

end Sys2Proof.Machine
end

