-- ==== Sys2Proof/Machine/WaitEvents.lean ====
section
/-! DEFINITION. Events that end waits: flags, timed waits, fences, walks, moved pages, host completions (spec/14 R352, R353, R358; spec/11 R264,
R266, R269; spec/08 R194; spec/09 R214, R218; spec/15 R381, R382). -/

namespace Sys2Proof.Machine

/-- The context goes on with what it waits for next; the end of a wait is a progress event (R368). -/
def endWait (s : State) (x : CtxId) : State :=
  let s := match (ctxAt s x).wait with
    | .fwait _ _ _ _ _ _ _ _ => dropWatch s x
    | _ => s
  barWake (modCtx s x Ctx.nextWait)

/-- A flag holds at least v, read at its home. -/
def flagReached (s : State) (fl : FlagRef) (v : BitVec 32) : Bool := serves s fl.core.die && v.ule (flagVal s fl)

/-- The wait of a context is satisfied: a post has satisfied it, or the flag holds its value (R43, R352). -/
def fwaitMet (s : State) (x : CtxId) : Bool :=
  (ctxAt s x).saving.isNone && match (ctxAt s x).wait with
    | .fwait fl dead v _ _ _ poll sat => sat || (!dead && !poll && flagReached s fl v)
    | _ => false

/-- FWAIT_SATISFIED (R352, R353). -/
def execFwaitSatisfied (x : CtxId) (s : State) : Host.Outcome State Fault Refusal := whenOk (fwaitMet s x) (fun s => endWait s x) s

/-- The context polls its flag (R353). -/
def polls (s : State) (x : CtxId) : Bool :=
  match (ctxAt s x).wait with
  | .fwait _ dead _ _ _ _ poll _ => poll && !dead
  | _ => false

/-- FWAIT_POLL (R353): the flag is read and compared. -/
def execFwaitPoll (x : CtxId) (s : State) : Host.Outcome State Fault Refusal :=
  whenOk (polls s x && (ctxAt s x).saving.isNone) (fun s => match (ctxAt s x).wait with
    | .fwait fl _ v _ _ _ _ _ => if flagReached s fl v then endWait s x else s
    | _ => s) s

def timeReached (s : State) (x : CtxId) : Bool :=
  (ctxAt s x).saving.isNone && match (ctxAt s x).wait with
    | .tmwait t => t.ule (tbOf s x.core.die)
    | _ => false

/-- TMWAIT_EXPIRY (R358). -/
def execTmwaitExpiry (x : CtxId) (s : State) : Host.Outcome State Fault Refusal := whenOk (timeReached s x) (fun s => endWait s x) s

/-! ### Waits for the window (R264, R269, R381, R382) -/

/-- A fault is owed that the context can be given. -/
def owesFault (c : Ctx) : Bool := c.te && !(owedList c).isEmpty

/-- The accesses that the context waits for have been performed, or a fault is owed (R142, R146, R264, R269, R331, R335). -/
def fenceMet (s : State) (x : CtxId) : Bool :=
  let c := ctxAt s x
  match c.wait with
  | .fence => c.saving.isNone && (owesFault c || ((syncWaits s x c).isEmpty && !storesOut s x))
  | .arrive _ => c.saving.isNone && (owesFault c || ((syncWaits s x c).isEmpty && !storesOut s x))
  | .suspend => c.saving.isNone && owesFault c
  | .halt => c.saving.isNone && owesFault c
  | .drain doms tag _ => !accessesOut s doms tag && !leavesCore s doms
  | _ => false

/-- The oldest owed fault is delivered where the context stands; TRET goes back to its waits (R377, R381). -/
def deliverOwed (s : State) (x : CtxId) : State :=
  match (owedList (ctxAt s x)).head? with
  | some (t, e) => deliverTrap (modCtx s x Ctx.breakWait) x t (deferAt e (ctxAt s x).pc)
  | none => s

/-- FENCE_COMPLETE (R264, R269, R332): the context goes on; a BAR arrives; the domains of a DKILL go; an owed fault is delivered. -/
def fenceComplete (s : State) (x : CtxId) : State :=
  let c := ctxAt s x
  match c.wait with
  | .drain doms _ free => if free then freeDomains (endWait s x) doms else endWait s x
  | .arrive k => if owesFault c then deliverOwed s x else arrive (focusOn (endWait s x) x) k
  | _ => if owesFault c then deliverOwed s x else endWait s x

/-- FENCE_COMPLETE. -/
def execFenceComplete (x : CtxId) (s : State) : Host.Outcome State Fault Refusal := whenOk (fenceMet s x) (fun s => fenceComplete s x) s

/-! ### Translation and moved pages -/

/-- PAGE_WALK (R186, R308, R309, R317): a walk for a core of a domain. -/
def execPageWalk (c : CoreId) (dom : BitVec 12) (va : BitVec 48) (acc : Access) (s : State) : Host.Outcome State Fault Refusal :=
  whenOk ((domAt? s dom).isSome && (virtOf s dom c).isSome) (fun s => (pageWalk s c dom noStrand va acc).2) s

/-- MIGRATION_COPY_COMPLETE (R194, R273, R336). -/
def execMigrationCopyComplete (n : Nat) (s : State) : Host.Outcome State Fault Refusal :=
  match s.migrs.find? fun m => m.n == n with
  | some m => .next (dueAll (finishMove s m))
  | none => .next s

/-! ### Replies from outside the package (R192, R214, R218, R258, R264, R266) -/

/-- The response flow of a request. -/
def replyFlow (f : FlowId) : FlowId := ⟨f.dpkg, f.ddie, f.spkg, f.sdie, 1⟩

/-- A response to a request of another die or package: the request's tag and argument come back (log entry 15). -/
def respond (s : State) (f : FlowId) (tag : Word) (arg : BitVec 64) (ty : BitVec 8) (par : Word) (data : Nat) : State :=
  sendMsg s (replyFlow f) ty (if ty == 0x42 || ty == 0x44 then 1 else 5) arg (mkPay tag par data)

/-- What a request's home has answered: a value with its poison mark, or that there is no home. -/
inductive Answer where
  | value (v : Nat) (pois : Bool)
  | lost
  deriving DecidableEq, Repr

def Answer.val : Answer → Nat
  | .value v _ => v
  | .lost => 0

/-- Zeros from a lost home are marked with poison (R192). -/
def Answer.pois : Answer → Bool
  | .value _ p => p
  | .lost => true

/-- The response code of an operation (R310). -/
def AskOp.code : AskOp → BitVec 8
  | .read => 0x41
  | .write => 0x42
  | .atomic _ _ _ => 0x43
  | .steal _ _ _ => 0x42

/-- An access of a context that found no home is counted, and the first of its domain gives an event; zeros that it returns are created poison
(R192, R207). -/
def noteAnswer (s : State) (x : CtxId) (va : BitVec 48) (op : AskOp) (a : Answer) : State :=
  match a, op with
  | .value _ _, _ => s
  | .lost, .write => noteLost s x.core.die (ctxAt s x).dom (va.setWidth 64) (groupWord (ctxAt s x).grp)
  | .lost, _ => readLost s x.core.die (ctxAt s x).dom (va.setWidth 64) (groupWord (ctxAt s x).grp)

/-- The context that waited for a reply issues its bundle again. -/
def Ctx.answered (c : Ctx) : Ctx := if c.wait == .outside then c.nextWait else c

/-- What an answered operation leaves at its requester: stolen chunks are in the die's share (R296). -/
def answerDone (s : State) (op : AskOp) : State :=
  match op with
  | .steal n thief _ => modLaunch s n fun l => { l with shares := receiveSteal thief l.shares }
  | _ => s

/-- The reply to a request reaches the one who waits for it. -/
def takeAnswer (s0 : State) (p : Pend) (a : Answer) : State :=
  let s := answerDone { s0 with pend := s0.pend.filter fun q => !(q.tag == p.tag) } p.op
  match p.who with
  | .bundle x key va => modCtx (noteAnswer s x va p.op a) x fun c => { c.answered with reply := c.reply ++ [⟨key, p.at_, a.val, a.pois⟩] }
  | .fetch x va => modCtx (noteAnswer s x va p.op a) x fun c => { c.answered with fetched := c.fetched ++ [(va, a.val)] }
  | .piece x n => modEntry s x n fun e =>
      { e with pieces := e.pieces.map fun q => if q.tag == p.tag then { q with got := some (a.val, a.pois), lost := a == .lost } else q }
  | .store x _ va => dueAll (resumeStalls (noteAnswer s x va p.op a))
  | .remote f tag arg => match a with
    | .value v pois => respond s f tag arg p.op.code (BitVec.ofNat 64 (if pois then 1 else 0)) v
    | .lost => respond s f tag arg 0x44 0 0
  | .nobody => s

/-- The request with a tag. -/
def pendAt (s : State) (tag : Nat) : Option Pend := s.pend.find? fun p => p.tag == tag

/-- HOST_COMPLETION (R214, R218, R266): an error is answered as a lost home. -/
def execHostCompletion (tag : Nat) (err : Bool) (data : BitVec 512) (s : State) : Host.Outcome State Fault Refusal :=
  match pendAt s tag with
  | some p => whenOk p.at_.isHost (fun s => takeAnswer s p (if err then .lost else .value (data.toNat % 256 ^ p.size) false)) s
  | none => .next s

end Sys2Proof.Machine
end

