-- ==== Sys2Proof/Machine/Contain.lean ====
section
/-! DEFINITION. Containment: the region table, deadbolting, level choice, hinge mirrors, restore and relaunch, splits (spec/16 R394 to R418;
spec/08 R189 to R192; spec/02 R34 to R36, R44; spec/13 R342, R343; spec/01 R8, R10). -/

namespace Sys2Proof.Machine

/-! ### The containment-region table (R8, R343, R409) -/

def RegSt.code : RegSt → BitVec 3
  | .live => 0
  | .testing => 1
  | .lost => 2
  | .held => 3

def RegSt.ofCode (c : BitVec 3) : RegSt := if c = 0 then .live else if c = 1 then .testing else if c = 2 then .lost else .held

/-- An entry as R343 lays it out. -/
def RegionEntry.bits (e : RegionEntry) : BitVec 128 := e.since ++ e.gen ++ e.reason ++ (0 : BitVec 12) ++ BitVec.ofBool e.key ++ e.st.code

def RegionEntry.ofBits (w : BitVec 128) : RegionEntry :=
  ⟨w.extractLsb' 64 64, w.extractLsb' 32 32, w.extractLsb' 16 16, w.getLsbD 3, RegSt.ofCode (w.setWidth 3)⟩

/-- The ruling entry of a die. -/
def entryOf (s : State) (i : Fin 4) : RegionEntry := (dieAt s (keyDie s)).regions[i.val]

/-- Writes an entry into a die's copy of the table. -/
def putEntry (s : State) (copy i : Fin 4) (e : RegionEntry) : State := modDie s copy fun y => { y with regions := y.regions.set i.val e }

/-- A die can be sent to. -/
def hears (s : State) (d : Fin 4) : Bool := (regSt s d != .lost) && !(dieAt s d).fenced

/-- Sends an entry to the other dies (R343, R409). -/
def announce (s : State) (k i : Fin 4) : State :=
  let e := (dieAt s k).regions[i.val].bits
  (allDies.filter fun j => !(decide (j = k)) && hears s j).foldl (fun s j =>
    sendMsg s (ownFlow s k j 3) 0xC2 1 (BitVec.ofNat 64 i.val) (mkPay (e.setWidth 64) (e.extractLsb' 64 64) 0)) s

/-- The heir of a keyholder: the first live die in the order of R8. Where none is live, a testing die is taken: R8 names live dies alone, and a test
that is abandoned leaves its die live (R416) (DESIGN CHOICE, log entry 67). -/
def heirOf (s : State) (k : Fin 4) : Option (Fin 4) :=
  let l := [dieAfter k 1, dieAfter k 2, dieAfter k 3]
  (l.find? fun d => isLive s d && !(dieAt s d).fenced) <|> (l.find? fun d => regSt s d == .testing)

/-- The keyholder is out of a die's reach (R394). -/
def keyGone (s : State) (d : Fin 4) : Bool := (dieAt s (keyDie s)).fenced || !pathUp s d (keyDie s)

/-- The newer of two entries by GEN. -/
def newerEntry (a b : RegionEntry) : RegionEntry := if a.gen.ult b.gen then b else a

/-- The table that a new keyholder goes by: its own, with what the former keyholder has mirrored to its hinge partner (R343, R409). -/
def heirTable (s : State) (h : Fin 4) : Vector RegionEntry 4 :=
  match hingePartner s (keyDie s) with
  | some p => Vector.ofFn fun i : Fin 4 => newerEntry (dieAt s h).regions[i.val] (dieAt s p).regions[i.val]
  | none => (dieAt s h).regions

/-- KEY passes to a die (R8, R409); both entries change (R343). -/
def passKey (s : State) (h : Fin 4) : State :=
  let k := keyDie s
  if h = k then s
  else
    let g := (heirTable s h)[k.val]
    let f := (heirTable s h)[h.val]
    let table := heirTable s h
    let s := modDie s h fun y => { y with regions := table }
    let former : RegionEntry := ⟨tbOf s h, g.gen + 1, g.reason, false, g.st⟩
    let s := putEntry s h h ⟨tbOf s h, f.gen + 1, f.reason, true, f.st⟩
    announce (announce (putEntry (putEntry s h k former) k k former) h h) h k

/-- The keyholder's hinge partner holds an entry before the keyholder applies it (R409). -/
def mirrorEntry (s : State) (i : Fin 4) (e : RegionEntry) : State :=
  match hingePartner s (keyDie s) with
  | some p => putEntry s p i e
  | none => s

/-- A new condition of a die: GEN + 1, SINCE, the reason, mirrored and then applied; KEY passes where the keyholder goes (R8, R343, R397, R409). -/
def changeState (s : State) (i : Fin 4) (st : RegSt) (reason : BitVec 16) : State :=
  let gone := st == .lost || st == .held
  let s := if (entryOf s i).key && gone then match heirOf s (keyDie s) with
      | some h => passKey s h
      | none => s
    else s
  let k := keyDie s
  let old := entryOf s i
  let e : RegionEntry := ⟨tbOf s k, old.gen + 1, reason, old.key, st⟩
  announce (putEntry (putEntry (mirrorEntry s i e) k i e) i i e) k i

/-! ### Placement sets and pieces (R189, R337, R446) -/

/-- The die that a slot of a set holds at boot. -/
def slotOrigin (ps k : Fin 4) : Fin 4 := fin4 (ps.val + k.val)

def setSlot (s : State) (ps k : Fin 4) (v : PSlot) : State :=
  { s with psets := s.psets.set ps.val { s.psets[ps.val] with slot := (s.psets[ps.val]).slot.set k.val v } }

/-- The free pieces of a die's reserve, lowest first. -/
def freePieces (y : Die) : List (Fin 2) := [0, 1].filter fun (p : Fin 2) => !(y.pieces.any fun q => q.1 == p)

/-- The base of a piece of the reserve. -/
def pieceBase (s : State) (ps : Fin 4) (p : Fin 2) : Nat := 0x600000000 + p.val * (s.psets[ps.val]).ssize.toNat

/-- The surviving die with the most free pieces, the lowest on a tie. -/
def pieceDie (s : State) : Option (Fin 4) :=
  ((allDies.filter fun d => serves s d && !(freePieces (dieAt s d)).isEmpty).foldl (fun (b : Option (Fin 4)) d =>
    match b with
    | none => some d
    | some v => if (freePieces (dieAt s v)).length < (freePieces (dieAt s d)).length then some d else some v) none)

/-- The bytes of a range of a die are zeros and its lines poisoned, each a creation (R192, R207). -/
def blankRange (s : State) (d : Fin 4) (off n : Nat) : State :=
  let lo := memKey d off
  { countErrs s d 8 (n / 64) with mem := memKeep s.mem fun k => !(decide (lo ≤ k) && decide (k < lo + n)), poisonAll := s.poisonAll ++ [(lo / 64, (lo + n) / 64)] }

/-- Remaps one slot that names a lost die; it keeps naming it when no piece is free. -/
def remapSlot (s : State) (lost ps k : Fin 4) : State :=
  let v := (s.psets[ps.val]).slot[k.val]
  if v.die ≠ lost then s
  else match pieceDie s with
    | none => s
    | some d => match freePieces (dieAt s d) with
      | [] => s
      | p :: _ =>
        let base := pieceBase s ps p
        let s := modDie s d fun y => { y with pieces := y.pieces ++ [(p, ps, k)] }
        blankRange (setSlot s ps k ⟨d, true, BitVec.ofNat 35 base⟩) d base (s.psets[ps.val]).ssize.toNat

/-- Every slot of the lost die, sets and slots ascending. -/
def remapSets (s : State) (lost : Fin 4) : State :=
  allDies.foldl (fun s ps => allDies.foldl (fun s k => remapSlot s lost ps k) s) s

/-! ### Hinge pairs (R190, R403, R406) -/

/-- A die goes: from now on its mirrored pages are served by the partner that holds the complete copy (R190). -/
def pinMirror (before s : State) (i : Fin 4) : State :=
  modDie s i fun y => { y with recopy := y.recopy <|> (hingePartner before i).filter fun p => serves before p }

/-- Pairs that a change of state moves: the home copies its mirrored pages anew, the former partner keeps the complete copy while the copy
runs, and the next checkpoint is early. -/
def rePair (before s : State) : State :=
  let moved := allDies.filter fun i => serves s i && hingePartner before i != hingePartner s i
  let s := moved.foldl (fun s i => modDie s i fun y => { y with recopy := match y.recopy, hingePartner before i with
    | some f, _ => some f
    | none, some p => some p
    | none, none => none }) s
  if moved.isEmpty then s else { s with tasksets := s.tasksets.map fun t => { t with early := true } }

/-- A die goes: a complete copy that it held for another is one no longer; a page whose copy is in progress then has none (R190). -/
def loseCopies (s : State) (i : Fin 4) : State :=
  { s with dies := Vector.ofFn fun d : Fin 4 => let y := dieAt s d; { y with recopy := if y.recopy = some i && d != i then some d else y.recopy } }

/-- Copies a range of storage of one die to another, poison with it: its lines are read, the lines that they reach are wholly rewritten (R190, R196). -/
def copyRange (s0 : State) (d : Fin 4) (a : Nat) (e : Fin 4) (b n : Nat) : State :=
  let lo := memKey d a
  let to_ := memKey e b
  let within (base l : Nat) : Bool := decide (base / 64 ≤ l) && decide (l < (base + n) / 64)
  let s := ((s0.latent.map Prod.fst).filter (within lo)).foldl (fun s l => meetLatent s d l) s0
  let s := { s with latent := s.latent.filter fun p => !within to_ p.1 }
  let src := s.mem.filter fun c => decide (lo ≤ c.1) && decide (c.1 < lo + n)
  let kept := memKeep s.mem fun k => !(decide (to_ ≤ k) && decide (k < to_ + n))
  let mem := src.foldl (fun m c => cellWrite m (to_ + (c.1 - lo)) c.2) kept
  let inDst (l : Nat) : Bool := decide (to_ / 64 ≤ l) && decide (l < (to_ + n) / 64)
  let inSrc (l : Nat) : Bool := decide (lo / 64 ≤ l) && decide (l < (lo + n) / 64)
  let move (l : Nat) : Nat := to_ / 64 + (l - lo / 64)
  let ranges := (s.poisonAll.map fun r => (Nat.max r.1 (lo / 64), Nat.min r.2 ((lo + n) / 64))).filter fun r => decide (r.1 < r.2)
  { s with mem := mem
           poison := s.poison.filter (fun l => !inDst l) ++ (s.poison.filter inSrc).map move
           poisonAll := s.poisonAll.flatMap (cutLines (to_ / 64) ((to_ + n) / 64)) ++ ranges.map fun r => (move r.1, move r.2) }

/-- The granules of mirrored pages homed on i, from one die to another. -/
def copyMirrored (s : State) (i d e : Fin 4) : State :=
  if d = e then s else (dieAt s i).mpages.foldl (fun s g => copyRange s d (g * 2 ^ 18) e (g * 2 ^ 18) (2 ^ 18)) s

/-! ### Checkpoint sets (R191, R342, R404, R405) -/

/-- The place of the line at a virtual address of a domain, with HD of its page where that is mirrored. -/
def lineAt (s : State) (dom : BitVec 12) (line : Nat) : Option (Place × Option (Fin 4)) :=
  let va := BitVec.ofNat 48 (64 * line)
  match walkFrom s dom va 3 1 (domAt s dom).ptroot with
  | .stop _ _ => none
  | .leaf lvl e _ => (leafPlace s dom lvl e va).map fun p => (p, leafHd e)

/-- A line lies wholly inside a region (R407). -/
def insideRegion (c : CkptReg) (line : Nat) : Bool := decide (c.addr.toNat ≤ 64 * line) && decide (64 * line + 64 ≤ c.addr.toNat + c.bytes.toNat)

/-- The leaves of a page table with HM = 1: level and first address. -/
def hmLeaves (s : State) (dom : BitVec 12) : Nat → Nat → BitVec 52 → Nat → List (Nat × Nat)
  | 0, _, _, _ => []
  | n + 1, lvl, table, va =>
    (List.range 1024).flatMap fun k =>
      let at_ := va + k * 2 ^ (48 - 10 * lvl)
      match stage2 s dom (table + BitVec.ofNat 52 (8 * k)) with
      | none => []
      | some t => match placeOf s 0 0 (t.pa.extractLsb' 35 2) t.pa with
        | .error _ => []
        | .ok p =>
          let e : Word := BitVec.ofNat 64 (devRead8 s p)
          if !pteV e || pteMalformed lvl e then []
          else if ptePointer e then hmLeaves s dom n (lvl + 1) (e.extractLsb' 13 39 ++ (0 : BitVec 13)) at_
          else if e.getLsbD 14 then [(lvl, at_)] else []

/-- The lines of the domain's pages with HM = 1. -/
def hmLines (s : State) (dom : BitVec 12) : List Nat :=
  (hmLeaves s dom 3 1 (domAt s dom).ptroot 0).flatMap fun p =>
    (List.range (2 ^ (48 - 10 * p.1) / 64)).map fun k => p.2 / 64 + k

/-- FP32 to BF16, sixteen elements of a line (R407). -/
def narrowLine (v : Nat) : Nat :=
  (List.range 16).foldl (fun a k => a + (Fmt.bf16.round .rne (f32 (v / 2 ^ (32 * k) % 2 ^ 32))).bits * 2 ^ (16 * k)) 0

/-- BF16 to FP32, exactly (R401). -/
def widenLine (v : Nat) : Nat := (List.range 16).foldl (fun a k => a + (v / 2 ^ (16 * k) % 2 ^ 16) * 2 ^ (32 * k + 16)) 0

/-- A line of the checkpoint set goes into the open epoch. -/
def ckptCopy (t : TaskSet) (s : State) (line : Nat) (narrow : Bool) : State :=
  match lineAt s t.reg.dom line with
  | some (.mem d off, _) =>
    let r := readMem s d off 64
    mirrorLine r.st d t.reg.tsid (t.epoch + 1) line (if narrow then narrowLine r.val else r.val) narrow
  | _ => s

/-- How far die i has taken the control messages of die j: what a checkpoint of i covers (R313; log entry 15). -/
def epochMark (s : State) (i j : Fin 4) : Word :=
  let x := flowAt s (ownFlow s j i 3)
  if x.heard then BitVec.ofNat 64 (65536 + (x.expect - 1).toNat) else 0

/-- Every line of the checkpoint set is copied into the open epoch, and each die tells the others; the epoch closes where its partner accepts that
(R313, R404, R405, R407). `next`: the frame that follows. -/
def checkpoint (s : State) (t : TaskSet) (next : Nat) : State :=
  let regs := (t.active.map (levelCkpts t)).getD []
  let s := (hmLines s t.reg.dom).foldl (fun s l => ckptCopy t s l false) s
  let s := regs.foldl (fun s c => (ckptLines c).foldl (fun s l => ckptCopy t s l (c.narrow && insideRegion c l)) s) s
  let e := t.epoch + 1
  let s := { s with tasksets := s.tasksets.map fun (u : TaskSet) =>
    if u.reg.tsid == t.reg.tsid then { u with epoch := e, early := false, frames := (e, next) :: u.frames, errBase := s.dies.map errSum } else u }
  let ds := allDies.filter fun d => serves s d
  ds.foldl (fun s i => (ds.filter fun j => !(decide (j = i))).foldl (fun s j =>
    sendMsg s (ownFlow s i j 2) 0x82 1 (BitVec.ofNat 64 e) (mkPay (epochMark s i j) (t.reg.tsid.setWidth 64) 0)) s) s

/-! ### Frames (R143, R401, R405) -/

/-- What reading words of a domain's memory gives: they cannot be read, a page migrates, or the words. -/
inductive RecRd where
  | bad (s : State)
  | wait (s : State)
  | ok (l : List Word) (s : State)

/-- n words of a domain's memory from an address, with the walks' effects and what the reads meet (R186, R192, R193, R196). -/
def recWords (c : CoreId) (dom : BitVec 12) : Nat → Nat → State → RecRd
  | 0, _, s => .ok [] s
  | n + 1, a, s =>
    if 2 ^ 48 ≤ a then .bad s
    else match translate s c dom noStrand (BitVec.ofNat 48 a) .read with
      | .bad _ s => .bad s
      | .wait s => .wait s
      | .ok t p s =>
        let w : Word := if t.st == 1 then 0 else BitVec.ofNat 64 (devRead8 s p)
        let s := if t.st == 1 then s else devMet s c.die dom (BitVec.ofNat 64 a) noStrand p
        match recWords c dom n (a + 8) s with
        | .ok l s => .ok (w :: l) s
        | .bad s => .bad s
        | .wait s => .wait s

/-- A launch record in a domain's memory. -/
def readRecord (s : State) (dom : BitVec 12) (a : BitVec 64) : RecRd :=
  recWords (((domAt s dom).cores.head?.map MapEntry.core).getD ⟨keyDie s, 0⟩) dom 16 a.toNat s

/-- The words of a record. -/
def recVec (l : List Word) : Vector Word 16 := Vector.ofFn fun k : Fin 16 => l.getD k.val 0

/-- Submits one launch of the running level; refused with code 10 it is tried again (R401). -/
def submitLaunch (n : BitVec 32) (s : State) (a : BitVec 64) : State :=
  match s.tasksets.find? fun t => t.reg.tsid == n with
  | none => s
  | some t =>
    let roles := ((t.active.bind (levelReg t)).map LevelReg.roles).getD []
    let s := modSet s n fun t => { t with refused := t.refused.filter fun r => !(r.launch == a) }
    match readRecord s t.reg.dom a with
    | .bad s => s
    | .wait s => modSet s n fun t => { t with refused := t.refused ++ roles.filter fun r => r.launch == a }
    | .ok l s =>
      let id := s.nextLaunch
      let q := submit s t.reg.dom (recVec l) a (some n) t.active
      if q.2 = 10 then modSet q.1 n fun t => { t with refused := t.refused ++ roles.filter fun r => r.launch == a }
      else if q.2 = 0 then modSet q.1 n fun t => { t with running := t.running ++ [id] }
      else q.1

/-- The launches of a level, each once, in the order of the roles. -/
def levelLaunches (t : TaskSet) : List (BitVec 64) := dedup ((((t.active.bind (levelReg t)).map LevelReg.roles).getD []).map RoleReg.launch)

/-- The next frame begins: every launch of the level is submitted. -/
def startFrame (s : State) (n : BitVec 32) : State :=
  match s.tasksets.find? fun t => t.reg.tsid == n with
  | none => s
  | some t => (levelLaunches t).foldl (submitLaunch n) s

/-- Writes one whole line of a task set's domain, its poison cleared (R208, R401). -/
def writeLine (dom : BitVec 12) (s : State) (line v : Nat) : State :=
  match lineAt s dom line with
  | some (.mem d off, hd) => homeWritten (homeWrite s d off 64 v hd).1 d off hd false true
  | _ => s

/-- Zeros in the bytes of a line that lie in a region; a whole line loses its poison (R208, R408). -/
def zeroLine (dom : BitVec 12) (c : CkptReg) (s : State) (line : Nat) : State :=
  let lo := Nat.max (64 * line) c.addr.toNat
  let hi := Nat.min (64 * line + 64) (c.addr.toNat + c.bytes.toNat)
  if hi - lo = 64 then writeLine dom s line 0
  else match lineAt s dom line with
    | some (.mem d off, hd) => (homeWrite s d (off + (lo - 64 * line)) (hi - lo) 0 hd).1
    | _ => s

/-- A line of a page with HM = 1 stands in storage that a remap has blanked: the manager restores it from the hinge mirror (R192). -/
def blanked (s : State) (dom : BitVec 12) (line : Nat) : Bool :=
  match lineAt s dom line with
  | some (.mem d off, _) => s.poisonAll.any fun r => decide (r.1 ≤ lineKey d off) && decide (lineKey d off < r.2)
  | _ => false

/-- Restores the regions of the running level, as whole lines of their highest closed epoch, and the blanked lines of pages with HM = 1; or zeros the
regions for a cold relaunch (R192, R401, R408). -/
def restoreSet (s : State) (t : TaskSet) : State :=
  let regs := (t.active.map (levelCkpts t)).getD []
  let lines := dedup (regs.flatMap ckptLines)
  if t.cold then regs.foldl (fun s c => (ckptLines c).foldl (zeroLine t.reg.dom c) s) s
  else (lines ++ (hmLines s t.reg.dom).filter fun l => !lines.contains l && blanked s t.reg.dom l).foldl (fun s l =>
    match closedLine s t l with
    | some (v, narrow) => writeLine t.reg.dom s l (if narrow then widenLine v else v)
    | none => s) s

/-- The frame that follows the epoch from which a task set is restored (R401). -/
def frameAfter (s : State) (t : TaskSet) : Nat :=
  let lines := ((t.active.map (levelCkpts t)).getD []).flatMap ckptLines
  let e := (lines.filterMap fun l => (closedAt s t l).map Prod.fst).foldl Nat.max 0
  ((t.frames.find? fun p => p.1 == e).map Prod.snd).getD t.frame

/-- TBOFS of a domain rises by the length of the interval in which its work was stopped; an interval counts once (R40, R356). -/
def raiseTbofs (s : State) (t : TaskSet) : State :=
  match t.stopped with
  | none => s
  | some a =>
    let now := tbOf s (keyDie s)
    let s := modDom s t.reg.dom fun x => { x with tbofs := x.tbofs + (now - a), heldAt := x.heldAt.map fun _ => now }
    { s with tasksets := s.tasksets.map fun (u : TaskSet) =>
      if u.reg.tsid == t.reg.tsid then { u with stopped := none }
      else if u.reg.dom == t.reg.dom && u.stopped.isSome then { u with stopped := some now } else u }

/-- Step 4 for one task set: restored and relaunched. -/
def relaunchSet (s : State) (n : BitVec 32) : State :=
  match s.tasksets.find? fun t => t.reg.tsid == n with
  | none => s
  | some t0 =>
    let t := { t0 with cold := (t0.active.map (relaunchCold s t0)).getD t0.cold }
    let frame := if t.cold then 0 else frameAfter s t
    let s := raiseTbofs (restoreSet s t) t
    startFrame (modSet s n fun t => { t with restore := false, frame := frame, cold := false }) n

/-! ### Deadbolting (R10, R34, R44, R397 to R399) -/

/-- Messages to and from a die are gone (R397 step 1). -/
def dropMessages (s : State) (i : Fin 4) : State :=
  { s with flows := s.flows.map fun p =>
    if (p.1.spkg == s.pkg && p.1.sdie == i) || (p.1.dpkg == s.pkg && p.1.ddie == i) then (p.1, { p.2 with transit := [] }) else p }

/-- Requests that have no way to package q any more are answered as those of a lost home (R192, R423). -/
def losePkg (s : State) (q : Fin 4) : State :=
  (s.pend.filter fun p => match p.at_ with
    | .pkg r _ _ => decide (r = q)
    | _ => false).foldl (fun s p => takeAnswer s p .lost) s

/-- The requests that were lost in flight on a flow leave again, in their order, by the new way, before any newer one (R260). -/
def reroute (s : State) (old new : FlowId) : State :=
  let x := flowAt s old
  let l := ((x.log.filter fun m => !m.acked).map Logged.wire) ++ x.backlog
  let s := putFlow s old { x with log := x.log.filter Logged.acked, backlog := [], retries := 0 }
  l.foldl (fun s w => sendMsg s new (hdrType w.hdr) (hdrLen w.hdr) (hdrArg w.hdr) w.pay) s

/-- A package has no way: its flow holds nothing for it any more. -/
def unroute (s : State) (old : FlowId) : State := modFlow s old fun x => { x with log := x.log.filter Logged.acked, backlog := [], retries := 0 }

/-- The routing table after a change of links: what was on its way by a route that has gone leaves again by the new one, or is answered as lost; a route
that still works is kept while something is on its way by it (R11, R15, R260, R423). -/
def relink (s : State) : State :=
  let keeps (a b : FlowId) : Bool := decide (a = b) || (rillenUp s a.sdie && !flowIdle s a)
  allDies.foldl (fun t q => match s.route[q.val], routeTo s q with
    | some a, some b => if keeps a b then t else reroute t a b
    | some a, none => losePkg (unroute t a) q
    | none, _ => t) { s with route := Vector.ofFn fun q : Fin 4 => match s.route[q.val], routeTo s q with
      | some a, some b => if keeps a b then some a else some b
      | _, r => r }

/-- The atomic with a tag. -/
def Out.isAtomic (tag : Nat) (o : Out) : Bool :=
  match o with
  | .hostAtomic t _ _ _ _ _ => t == tag
  | _ => false

/-- Outstanding requests of a host port that has gone: they leave again by the other port, or are answered as those of a lost home; an atomic that the
port held was lost in flight and has not been performed (R258, R260, R266; log entry 6). -/
def rehost (s : State) : State :=
  (s.pend.filter fun p => p.at_.isHost).foldl (fun s p => match hostPort s, p.at_, p.op with
    | some _, .host a, .atomic o b c => { s with outbox := (s.outbox.filter (Out.isAtomic p.tag · |> not)) ++ [.hostAtomic p.tag o a p.size b c] }
    | some _, .host a, _ => { s with outbox := s.outbox ++ [.hostRead p.tag a p.size] }
    | _, _, _ => takeAnswer s p .lost) s

/-- Steals that a lost die has not answered find nothing there (R34, R296). -/
def unsteal (s : State) (i : Fin 4) : State :=
  (s.pend.filter fun p => match p.op with
    | .steal _ _ v => decide (v = i)
    | _ => false).foldl (fun s p => takeAnswer s p (.value 0 false)) s

/-- What a test leaves of the blocks that it covers: as after a warm reset (R416); the rule tables change by RTLOAD and DKILL alone (R346). -/
def resetCores (s : State) (d : Fin 4) : State :=
  let s := ((allCtx s).filter fun x => x.core.die == d && !(ctxAt s x).occupied).foldl (fun s x => putCtx s x Ctx.reset) s
  { s with cores := s.cores.map fun p => if p.1.die == d then (p.1, { Core.reset with removed := p.2.removed, rules := p.2.rules }) else p }

/-- Tests of other dies are abandoned (R416). -/
def abandonTests (i : Fin 4) (s : State) : State :=
  (allDies.filter fun d => !(decide (d = i)) && (dieAt s d).test.isSome && !(dieAt s d).reinit).foldl (fun s d =>
    modDie s d fun y => { y with test := none, reinit := true, stc := y.stc.set 3 (satInc y.stc[3]) }) s

/-- The shares of a die pass to the next live die of the share set (R34). -/
def passShares (i : Fin 4) (s : State) : State :=
  { s with launches := s.launches.map fun l =>
    match l.shares.find? fun h => h.die == i with
    | none => l
    | some h =>
      match [dieAfter i 1, dieAfter i 2, dieAfter i 3].find? fun d => isLive s d && l.shares.any fun k => k.die == d with
      | none => l
      | some r => { l with shares := l.shares.map fun k =>
        if k.die = i then { k.withRanges [] with held := [], again := [], coming := [] }
        else if k.die = r then { k.gains (h.ranges ++ h.coming) with again := k.again ++ h.again ++ h.held.map fun c => c.1 }
        else k } }

/-- The groups that a die had queued are offered elsewhere (R44). -/
def unqueue (s : State) (i : Fin 4) : State :=
  let q := (dieAt s i).launchq
  let s := q.foldl (fun s e => modLaunch s e.launch fun l => { l with todo := l.todo ++ e.groups }) s
  modDie s i fun y => { y with launchq := [] }

/-- The PC of a group's first resident strand, 0 for none (R305). -/
def groupPc (s : State) (g : Group) : Word :=
  (g.members.findSome? fun m => match m with
    | .resident x => some ((ctxAt s x).pc.setWidth 64)
    | _ => none).getD 0

/-- The groups of a lost die are killed; those that the manager does not relaunch give an event (R44, R400). -/
def killGroups (s : State) (i : Fin 4) : State :=
  (dieAt s i).groups.foldl (fun s g =>
    let ts := ((launchAt s g.launch).bind Launch.ts).isSome
    let pc := groupPc s g
    let s := killGroup s g.id
    if ts then s else event s g.dom 3 3 [pc, groupWord g.id]) s

/-- The cores of a die leave every core map (R40, R397). -/
def dropCores (s : State) (i : Fin 4) : State :=
  { s with doms := s.doms.map fun p =>
    (p.1, { p.2 with cores := renumber (p.2.cores.filter fun m => !(m.core.die == i))
                     dropped := p.2.dropped ++ (p.2.cores.filter fun m => m.core.die == i).map MapEntry.core }) }

/-- The strands of a die that finds itself outside the winning group are pre-empted and Held (R18, R411). -/
def holdStrands (s : State) (i : Fin 4) : State :=
  let s := ((allResidents s).filter fun x => x.core.die == i).foldl (fun s x => forceSave s x true) s
  let y := dieAt s i
  let l := (y.saved.map fun v => (v.base.grp, v.base.strix)) ++ (y.reflected.map fun v => (v.base.grp, v.base.strix)) ++ y.contq.map fun e => (recGrp e.record, recStrix e.record)
  let s := putDie s i { y with saved := y.saved.map fun v => { v with held := true }, reflected := y.reflected.map fun v => { v with held := true }, contq := y.contq.map fun e => { e with held := true } }
  l.foldl (fun s p => setMember s p.1 p.2 .held) s

/-- What is left on a lost die is of no use: its contexts, queues, mirror areas and tables (R44, R397). -/
def clearDie (s : State) (i : Fin 4) : State :=
  let s := ((allResidents s).filter fun x => x.core.die == i).foldl (fun s x => vacate s x) s
  modDie s i fun y => { y with contq := [], saved := [], reflected := [], groups := [], tlb := [], mirror := [], test := none, reinit := false }

/-- Task sets after the loss or the hold of a die: one that runs on it, or still waits for its restore, chooses anew (R396, R400). -/
def chooseLevels (before : State) (i : Fin 4) (s : State) : State :=
  (before.tasksets).foldl (fun s t => chooseLevel s t.reg.tsid .serving (t.map.contains i || t.restore)) s

/-- A die that is declared by its report has driven its ports until then; one whose rail has gone, or that fell silent behind its fence, drives its
host port no longer (R10, R394). -/
def drivesPort (s : State) (i : Fin 4) (reason : BitVec 16) : Bool := reason != 3 && !((dieAt s i).fenced && (reason == 1 || reason == 2))

/-- DEADBOLT of a die with its new condition and reason (R397, R410), with level choice (R400). -/
def deadbolt (s0 : State) (i : Fin 4) (st : RegSt) (reason : BitVec 16) : State :=
  let s := dropMessages s0 i
  let s := if (i == 0 || i == 2) && drivesPort s0 i reason then { s with outbox := s.outbox ++ [.completerAbort i] } else s
  let s := if st == .lost then modDie s i fun y => { y with fenced := true } else s
  let s := loseCopies (pinMirror s0 (changeState s i st reason) i) i
  let s := rePair s0 (remapSets s i)
  let s := relink s
  let s := if hostPort s0 == hostPort s && !(hostPort s0 == some i) then s else rehost s
  let s := abandonTests i s
  let s := passShares i (unqueue (unsteal s i) i)
  let s := if st == .lost then loseDeps (clearDie (killGroups s i) i) i else holdStrands s i
  let s := dropCores s i
  let s := { s with dies := s.dies.map fun y => { y with lostSeen := [] } }
  offerAll (chooseLevels s0 i (dueAll (resumeStalls (discardSpilled s))))

/-! ### Links and splits (R9, R395, R410) -/

/-- The ring link between two adjacent dies. -/
def linkOf (a b : Fin 4) : Option (Fin 4) := if dieAfter a 1 = b then some a else if dieAfter b 1 = a then some b else none

/-- The dies that a die reaches over the ring: only dies in service pass traffic on (R9, R395). -/
def reached (s : State) (from_ : Fin 4) : Nat → List (Fin 4) → List (Fin 4)
  | 0, l => l
  | n + 1, l => reached s from_ n (allDies.filter fun d => l.contains d || l.any fun a => (decide (a = from_) || passesOn s a) && linkUp s a d)

def ringReach (s : State) (d : Fin 4) : List (Fin 4) := reached s d 4 [d]

/-- The group that keeps authority: the one with more members, on a tie the keyholder's (R410). -/
def winners (s : State) : List (Fin 4) :=
  let member (d : Fin 4) : Bool := (regSt s d == .live || regSt s d == .testing) && !(dieAt s d).fenced
  let grp (d : Fin 4) : List (Fin 4) := (ringReach s d).filter member
  let k := keyDie s
  (allDies.filter member).foldl (fun best d => if best.length < (grp d).length then grp d else best) (if member k then grp k else [])

/-- A test that a split ends: its die enters live (R416). -/
def endAbandoned (s : State) (d : Fin 4) : State :=
  if regSt s d == .testing then
    let s := modDie (resetCores s d) d fun y =>
      { y with reinit := false, test := none, stc := if y.test.isSome && !y.reinit then y.stc.set 3 (satInc y.stc[3]) else y.stc }
    changeState s d .live 0x0102
  else s

/-- SPLIT: the dies outside the winning group are held (R410, R411); a testing one has entered live before (R343, R416). -/
def split (s : State) : State :=
  let w := winners s
  let out := allDies.filter fun d => (regSt s d == .live || regSt s d == .testing) && !(dieAt s d).fenced && !w.contains d
  let k := keyDie s
  let heir := ([dieAfter k 1, dieAfter k 2, dieAfter k 3].find? fun d => w.contains d && isLive s d) <|> w.head?
  let s := if out.isEmpty || w.contains k then s else match heir with
    | some h => passKey s h
    | none => s
  out.foldl (fun s d => deadbolt (endAbandoned s d) d .held 7) s

/-- Declares a die lost (R394); one that is held already has been deadbolted. The loss of a die on the way between others may split them (R9). -/
def declareLost (s : State) (i : Fin 4) (reason : BitVec 16) : State :=
  match regSt s i with
  | .lost => s
  | .held => loseDeps (clearDie (killGroups (changeState (modDie s i fun y => { y with fenced := true }) i .lost reason) i) i) i
  | _ => split (deadbolt s i .lost reason)

/-- The ring link that carries a flow: the last one on its way, which is the one that leads to its destination; none where no way is open (R9; R312 does
not say which link of several: DESIGN CHOICE, log entry 74). -/
def flowLink (s : State) (a b : Fin 4) : Option (Fin 4) :=
  let via := if dieAfter a 2 = b then [dieAfter a 1, dieAfter a 3].find? fun m => viaUp s a m b
    else if linkUp s a b then some a
    else if pathUp s a b then some (if dieAfter a 1 = b then dieAfter b 1 else dieAfter b 3)
    else none
  via.bind fun m => (linkOf m b).filter fun k => s.links[k.val]

/-- LINK_FAILED of the link that carries a flow (R312, R395). -/
def failLink (s : State) (f : FlowId) : State :=
  let s := countErr s f.sdie 16
  if f.dpkg = s.pkg then
    match flowLink s f.sdie f.ddie with
    | some k => split { s with links := s.links.set k.val false }
    | none => s
  else relink (modDie s f.sdie fun y => { y with rillen := false })

/-- Every unacknowledged message again, with its time (R312). -/
def retryNow (s : State) (f : FlowId) : State :=
  let now := tbOf s f.sdie
  let s := modFlow s f fun x => { x with retries := x.retries + 1, log := x.log.map fun m => if m.acked then m else { m with at_ := now } }
  resendAll (countErr s f.sdie 15) f

/-- A retry; the third without progress declares the link failed, and what is unacknowledged leaves again by another way (R312, R394). -/
def retryFlow (s : State) (f : FlowId) : State :=
  if 2 ≤ (flowAt s f).retries then
    let s := failLink (countErr s f.sdie 15) f
    let now := tbOf s f.sdie
    resendAll (modFlow s f fun x => { x with retries := 0, log := x.log.map fun m => if m.acked then m else { m with at_ := now } }) f
  else retryNow s f

/-! ### Rejoining (R190, R403, R412, R413) -/

/-- The slots that a die held at boot point back to it, with their data (R413). -/
def pointBack (s : State) (i : Fin 4) : State :=
  allDies.foldl (fun s ps => allDies.foldl (fun s k =>
    let v := (s.psets[ps.val]).slot[k.val]
    if slotOrigin ps k ≠ i || !v.rv then s
    else
      let set := s.psets[ps.val]
      let s := copyRange s v.die v.rbase.toNat i set.sbase.toNat set.ssize.toNat
      let s := modDie s v.die fun y => { y with pieces := y.pieces.filter fun q => !(q.2.1 == ps && q.2.2 == k) }
      setSlot s ps k ⟨i, false, 0⟩) s) s

/-- The cores that a die's loss took from the core maps come back, parents first (R36, R400, R413; DEDUCED, log entry 29). -/
def returnCores (s : State) (i : Fin 4) : State :=
  let doms := sortBy (fun a b => decide ((domAt s a).depth.toNat ≤ (domAt s b).depth.toNat)) (s.doms.map Prod.fst)
  doms.foldl (fun s d =>
    let x := domAt s d
    let l := (x.dropped.filter fun c => c.die == i).filter fun c => x.depth == 0 || (virtOf s x.parent c).isSome
    let s := modDom s d fun y => { y with dropped := y.dropped.filter fun c => !(c.die == i) }
    addCores s d (l.map fun c => ⟨c, 0, BitVec.ofNat 6 c.core.val⟩)) s

/-- The flows of a die that rejoins start again: retained control messages keep their order under new numbers and are replayed (R313). -/
def restartFlows (s : State) (d : Fin 4) : State :=
  { s with flows := s.flows.map fun p =>
    if p.1.spkg == s.pkg && p.1.dpkg == s.pkg && (p.1.sdie == d || p.1.ddie == d) then
      if p.1.ddie == d && p.1.cls == 3 then
        let l := p.2.log.zipIdx.map fun q =>
          let h := q.1.wire.hdr
          let h := BitVec.ofNat 16 q.2 ++ h.extractLsb' 0 112
          { q.1 with acked := false, at_ := tbOf s p.1.sdie, wire := { q.1.wire with hdr := h, crc := wireCrc h q.1.wire.pay } }
        (p.1, { Flow.reset with seq := BitVec.ofNat 16 l.length, log := l, transit := l.map Logged.wire })
      else (p.1, Flow.reset)
    else p }

/-- The neighbours of a die that are live. -/
def liveBeside (s : State) (d : Fin 4) : List (Fin 4) := [dieAfter d 1, dieAfter d 3].filter fun j => isLive s j

/-- Links of a die to live neighbours carry frames again: those that do already, else some of them, at least one (R412, R413; the links that come up
are the ring's: free, log entry 8). -/
def joinRing (s : State) (d : Fin 4) : State :=
  let up (s : State) (j : Fin 4) : State := match linkOf d j with
    | some k => { s with links := s.links.set k.val true }
    | none => s
  if (liveBeside s d).any fun j => linkUp s d j then s
  else match (liveBeside s d).filter fun j => Config.linkBack s.clk j.val with
    | [] => (liveBeside s d).head?.elim s (up s)
    | l => l.foldl up s

/-- A die enters service again with its data, slots, homes and cores: the partner copies its mirrored pages back and stays the complete copy until
the hinge partner has one (R190). -/
def rejoin (s0 : State) (i : Fin 4) (reason : BitVec 16) : State :=
  let before := s0
  let s := restartFlows s0 i
  let s := match mirrorHome s i with
    | some p => modDie (copyMirrored s i p i) i fun y => { y with recopy := if hingePartner s i = some p then none else some p }
    | none => modDie s i fun y => { y with recopy := none }
  let s := pointBack s i
  let s := modDie s i fun y => { y with fenced := false, regions := (dieAt s (keyDie s)).regions }
  let s := changeState s i .live reason
  let now := tbOf s (keyDie s)
  let s := { s with dies := s.dies.map fun y => { y with hb := y.hb.set i.val now } }
  let s := modDie s i fun y => { y with hb := Vector.replicate 4 now, hbSent := now }
  split (offerAll (raiseIdle (returnCores (rePair before (relink s)) i)))

end Sys2Proof.Machine
end

