-- ==== Sys2Proof/Machine/Messages.lean ====
section
/-! DEFINITION. Message events: what a receiver does with the next message of a flow, retries and links (spec/12 R296, R310 to R313; spec/17
R422 to R424; spec/16 R394). The payload's layout is the model's own (log entry 15). -/

namespace Sys2Proof.Machine

/-! ### Taking a message from its flow (R310, R311, R343, R423) -/

/-- The TYPE codes of R310. -/
def knownType (t : BitVec 8) : Bool :=
  [0x01, 0x02, 0x03, 0x04, 0x05, 0x06, 0x07, 0x41, 0x42, 0x43, 0x44, 0x81, 0x82, 0xC1, 0xC2, 0xC3, 0xC4].contains t

/-- The next message of a flow. -/
def nextWire (s : State) (f : FlowId) : Option Wire := (flowAt s f).transit.head?

/-- Every event of a message without a code of its own may take it. -/
def takes (s : State) (f : FlowId) (ty : BitVec 8) : Bool :=
  match nextWire s f with
  | some w => hdrType w.hdr == ty || !knownType (hdrType w.hdr)
  | none => false

/-- What a header acknowledges and asks for on the reverse flow (R310 to R312). -/
def takeHeader (s : State) (f : FlowId) (h : BitVec 128) : State :=
  let r := flowBack f
  let s := if hdrAv h then takeAck s r (hdrAck h) else s
  if hdrNak h then retryFlow s r else s

/-- A discarded message asks for a replay, once for a gap: the example below R313 has one NAK for three discarded messages (log entry 15). -/
def sendNak (s : State) (f : FlowId) : State := if (flowAt s f).nakSent then s else sendAck s f true

/-- A message is lost on its way: its receiver takes nothing, holds its source for lost, or no path of the ring reaches it any more; a port whose die is
held or fenced, or whose link is down, takes none from outside (R9, R11, R343, R397, R411). -/
def lostOnWay (s : State) (f : FlowId) : Bool :=
  !hears s f.ddie || if f.spkg == s.pkg then (dieAt s f.ddie).regions[f.sdie.val].st == .lost || !pathUp s f.sdie f.ddie else !serves s f.ddie

/-- A message for another package goes on its way when it has come straight from its source, over the ring to the port of its destination; it is
relayed once (R423). -/
def relaysOn (s : State) (f : FlowId) : Bool :=
  let in_ := f.spkg ^^^ s.pkg
  let out := f.dpkg ^^^ s.pkg
  f.sdie == in_ && f.spkg != s.pkg && rillenUp s in_ && rillenUp s out && pathUp s in_ out

/-- A message is accepted when its CRC is right and its SEQ the next; a duplicate repeats the acknowledgement, anything else gives a NAK. A message
for another package goes on its way (R423). -/
def receive (act : State → FlowId → Wire → State) (s : State) (f : FlowId) : State :=
  match nextWire s f with
  | none => s
  | some w =>
    let s := modFlow s f fun x => { x with transit := x.transit.tail }
    let x := flowAt s f
    let seq := hdrSeq w.hdr
    if f.dpkg ≠ s.pkg then (if relaysOn s f then { s with outbox := s.outbox ++ [.message f w] } else s)
    else if lostOnWay s f then s
    else if w.crc != wireCrc w.hdr w.pay then sendNak (countErr s f.ddie 14) f
    else if hdrType w.hdr == 0 then takeHeader s f w.hdr
    else if seq == x.expect then
      let s := modFlow s f fun x => { x with expect := x.expect + 1, ackDue := true, heard := true, nakSent := false }
      let s := takeHeader s f w.hdr
      if knownType (hdrType w.hdr) then act s f w else countErr s f.ddie 14
    else if (x.expect - 1 - seq).toNat < logCap then sendAck s f false
    else sendNak s f

/-- A message event: the next message of the flow is of the type, or of no type. -/
def messageEvent (ty : BitVec 8) (act : State → FlowId → Wire → State) (f : FlowId) (s : State) : Host.Outcome State Fault Refusal :=
  whenOk (takes s f ty) (fun s => receive act s f) s

/-! ### Requests at their home (R11, R15, R182, R218, R310) -/

/-- A response to a request. -/
def reply (s : State) (f : FlowId) (w : Wire) (ty : BitVec 8) (par : Word) (data : Nat) : State :=
  respond s f (payTag w.pay) (hdrArg w.hdr) ty par data

/-- A request of another package to host memory: its answer goes back when the host's has come (R266, R310). -/
def relay (s : State) (f : FlowId) (w : Wire) (p : Place) (n : Nat) (op : AskOp) : State :=
  sendAsk s f.ddie p n op (.remote f (payTag w.pay) (hdrArg w.hdr))

/-- The place of a request's bytes in this package. -/
def requestPlace (s : State) (w : Wire) : Place :=
  let leaf : BitVec 6 := (payPar w.pay).extractLsb' 8 6
  match placeOf s (leaf.extractLsb' 4 2) (leaf.extractLsb' 2 2) (leaf.extractLsb' 0 2) ((hdrArg w.hdr).setWidth 52) with
  | .ok p => p
  | .error _ => .lost 0

def requestSize (w : Wire) : Nat := ((payPar w.pay).extractLsb' 0 8).toNat

/-- A request is counted where it is served (R370). -/
def served (s : State) (p : Place) : State :=
  match p with
  | .mem d _ => countReq s d 2
  | _ => s

def actRead (s : State) (f : FlowId) (w : Wire) : State :=
  let p := requestPlace s w
  let s := served s p
  match p with
  | .mem d off =>
    let r := readMem s d off (requestSize w)
    reply r.st f w 0x41 (BitVec.ofNat 64 (if r.pois then 1 else 0)) r.val
  | .host _ => relay s f w p (requestSize w) .read
  | .pkg _ _ _ => reply s f w 0x44 0 0
  | .lost _ => reply s f w 0x44 0 0

/-- Bytes with the bits of a mask replaced. -/
def writeBits (old v mask : Nat) : Nat := (old ^^^ (old &&& mask)) ||| (v &&& mask)

/-- The mask that came ahead of a write (R222; log entry 15). -/
def maskOf (s : State) (f : FlowId) (w : Wire) : Nat :=
  ((s.masks.find? fun m => m.1 == f.spkg && m.2.1 == payTag w.pay).map fun m => m.2.2).getD 0

/-- Performs a write of n bytes of which the bits of a mask are written, as one access at its home (R207, R208, R222, R259). -/
def putGranule (s : State) (f : FlowId) (w : Wire) (mask : Nat) : State :=
  let p := requestPlace s w
  let s := served s p
  let n := requestSize w
  let par := payPar w.pay
  let pois := par.getLsbD 16
  let hd := mirrorHd (par.extractLsb' 12 2) (par.extractLsb' 8 2)
  match p with
  | .mem d off =>
    let v := writeBits (memRead s.mem (memKey d off) n) (payData w.pay) mask
    reply (homeWritten (homeWrite s d off n v hd).1 d off hd pois (decide (n = 64) && decide (mask = fullMask 64))) f w 0x42 0 0
  | .host a => reply (hostPut s a n (payData w.pay) mask) f w 0x42 0 0
  | .pkg _ _ _ => reply s f w 0x44 0 0
  | .lost _ => reply s f w 0x44 0 0

/-- A write message: a mask that goes ahead of its write is kept, a write takes the mask that went ahead of it (log entry 15). -/
def actWrite (s : State) (f : FlowId) (w : Wire) : State :=
  let par := payPar w.pay
  if par.getLsbD 18 then { s with masks := (f.spkg, payTag w.pay, payData w.pay) :: s.masks }
  else if par.getLsbD 17 then
    putGranule { s with masks := s.masks.filter fun m => !(m.1 == f.spkg && m.2.1 == payTag w.pay) } f w (maskOf s f w)
  else putGranule s f w (fullMask (requestSize w))

/-- The operation of an atomic's opcode (R49, R216). -/
def atOpOf (code : Nat) : AtOp :=
  let k := (code - 0x90) / 2
  if k = 0 then .add else if k = 1 then .min else if k = 2 then .max else if k = 3 then .and else if k = 4 then .or
  else if k = 5 then .xor else if k = 6 then .swp else .cas

def actAtomic (s : State) (f : FlowId) (w : Wire) : State :=
  let p := requestPlace s w
  let s := served s p
  let code := requestSize w
  let op := atOpOf code
  let size := if code % 2 = 0 then 4 else 8
  let b := payData w.pay % 2 ^ 64
  let c := payData w.pay / 2 ^ 64 % 2 ^ 64
  match p with
  | .mem d off =>
    let r := readMem s d off size
    let s := if op.writes (8 * size) r.val b then
      (homeWrite r.st d off size (op.new (8 * size) r.val b c) (mirrorHd ((payPar w.pay).extractLsb' 12 2) ((payPar w.pay).extractLsb' 8 2))).1 else r.st
    reply s f w 0x43 (BitVec.ofNat 64 (if r.pois then 1 else 0)) r.val
  | .host _ => relay s f w p size (.atomic (BitVec.ofNat 8 code) (BitVec.ofNat 64 b) (BitVec.ofNat 64 c))
  | .pkg _ _ _ => reply s f w 0x44 0 0
  | .lost _ => reply s f w 0x44 0 0

/-- MSG_READ (R310). -/
def execMsgRead (f : FlowId) (s : State) : Host.Outcome State Fault Refusal := messageEvent 0x01 actRead f s

/-- MSG_WRITE (R310). -/
def execMsgWrite (f : FlowId) (s : State) : Host.Outcome State Fault Refusal := messageEvent 0x02 actWrite f s

/-- MSG_ATOMIC (R310). -/
def execMsgAtomic (f : FlowId) (s : State) : Host.Outcome State Fault Refusal := messageEvent 0x03 actAtomic f s

/-- MSG_FLAG_POST (R43, R350): ARG names the flag in [4:0] and the core in [10:5]; the parameter is the value. -/
def execMsgFlagPost (f : FlowId) (s : State) : Host.Outcome State Fault Refusal :=
  messageEvent 0x04 (fun s f w =>
    postFlag s ⟨⟨f.ddie, fin48 ((hdrArg w.hdr).extractLsb' 5 6).toNat⟩, fin32 ((hdrArg w.hdr).extractLsb' 0 5).toNat⟩ ((payPar w.pay).setWidth 32)) f s

/-- MSG_FORWARDED_ACCESS (R194, R273): the access is performed at the new home; bits [63:56] of the parameter say which it is. -/
def execMsgForwardedAccess (f : FlowId) (s : State) : Host.Outcome State Fault Refusal :=
  messageEvent 0x05 (fun s f w =>
    let k := ((payPar w.pay).extractLsb' 56 8).toNat
    if k = 1 then actRead s f w else if k = 3 then actAtomic s f w else actWrite s f w) f s

/-- MSG_MOVED_MARKER (R194): what waited for the marker has not been translated before the switch in this model; it is accepted. -/
def execMsgMovedMarker (f : FlowId) (s : State) : Host.Outcome State Fault Refusal := messageEvent 0x06 (fun s _ _ => s) f s

/-- MSG_RANGE_STEAL (R33, R296): ARG names the launch; the thief is the source die. The victim performs it at its share state and responds. -/
def execMsgRangeSteal (f : FlowId) (s : State) : Host.Outcome State Fault Refusal :=
  messageEvent 0x07 (fun s f w =>
    reply (modLaunch s (hdrArg w.hdr).toNat fun l => { l with shares := steal f.sdie f.ddie l.shares }) f w 0x42 0 0) f s

/-! ### Responses (R214, R218, R264, R266, R296) -/

/-- The request that a response of a flow answers: one to the package it comes from, or a steal at the die it comes from (log entry 15). -/
def answered (s : State) (f : FlowId) (w : Wire) : Option Pend :=
  (pendAt s (payTag w.pay).toNat).filter fun p => match p.op, p.at_ with
    | .steal _ thief victim, _ => f.spkg == s.pkg && f.sdie == victim && f.ddie == thief
    | _, .pkg q _ _ => f.spkg == q
    | _, _ => false

/-- A response reaches the one who waits for it. -/
def actAnswer (a : Wire → Answer) (s : State) (f : FlowId) (w : Wire) : State :=
  match answered s f w with
  | some p => takeAnswer s p (a w)
  | none => s

/-- A response's value, with its poison mark. -/
def wireValue (w : Wire) : Answer := .value (payData w.pay) ((payPar w.pay).getLsbD 0)

/-- MSG_READ_DATA (R214, R310). -/
def execMsgReadData (f : FlowId) (s : State) : Host.Outcome State Fault Refusal := messageEvent 0x41 (actAnswer wireValue) f s

/-- MSG_WRITE_DONE (R264, R310): the write, or the steal, has been performed. -/
def execMsgWriteDone (f : FlowId) (s : State) : Host.Outcome State Fault Refusal := messageEvent 0x42 (actAnswer wireValue) f s

/-- MSG_ATOMIC_RESULT (R218, R310). -/
def execMsgAtomicResult (f : FlowId) (s : State) : Host.Outcome State Fault Refusal := messageEvent 0x43 (actAnswer wireValue) f s

/-- MSG_LOST_OR_ERROR (R192, R310). -/
def execMsgLostOrError (f : FlowId) (s : State) : Host.Outcome State Fault Refusal := messageEvent 0x44 (actAnswer fun _ => .lost) f s

/-! ### Mirror class (R190, R313, R404) -/

/-- MSG_MIRROR_WRITE (R190): ARG is the storage offset. -/
def execMsgMirrorWrite (f : FlowId) (s : State) : Host.Outcome State Fault Refusal :=
  messageEvent 0x81 (fun s f w =>
    let off := (hdrArg w.hdr).toNat
    let n := requestSize w
    writeMem (meetWrite s f.ddie off n) f.ddie off n (payData w.pay)) f s

/-- The control messages that a die has retained for another may go, as far as the checkpoint that is announced covers them (R313). -/
def freeRetained (s : State) (a b : Fin 4) (upTo : Option (BitVec 16)) : State :=
  match upTo with
  | none => s
  | some n => drainBacklog (modFlow s (ownFlow s a b 3) fun x => { x with log := x.log.filter fun m => !(m.acked && seqCovered n (hdrSeq m.wire.hdr)) })
      (ownFlow s a b 3) logCap

/-- MSG_CHECKPOINT_EPOCH (R313, R404): the epoch closes at the partner; the sender's control messages need not be kept. -/
def execMsgCheckpointEpoch (f : FlowId) (s : State) : Host.Outcome State Fault Refusal :=
  messageEvent 0x82 (fun s f w =>
    let n : BitVec 32 := (payPar w.pay).setWidth 32
    let e := (hdrArg w.hdr).toNat
    let s := modDie s f.ddie fun y => { y with mirror := y.mirror.map fun m =>
      if m.src == f.sdie && m.ts == n && m.epoch == e then { m with closed := true } else m }
    freeRetained s f.ddie f.sdie (if (payTag w.pay).getLsbD 16 then some ((payTag w.pay).setWidth 16) else none)) f s

/-! ### Control class (R343, R394, R400, R424) -/

/-- MSG_HEARTBEAT (R394). -/
def execMsgHeartbeat (f : FlowId) (s : State) : Host.Outcome State Fault Refusal :=
  messageEvent 0xC1 (fun s f _ => modDie s f.ddie fun y => { y with hb := y.hb.set f.sdie.val y.tb }) f s

/-- The die declares another on its self-report: the keyholder, or the first candidate where the keyholder reports itself or cannot be reached (R394). -/
def takesReport (s : State) (f : FlowId) : Bool :=
  f.ddie == keyDie s || ((f.sdie == keyDie s || keyGone s f.ddie) && heirOf s (keyDie s) == some f.ddie)

/-- A configuration message: a self-report of its source (ARG[8]) that is declared, or an entry that is applied in GEN order. -/
def actConfig (s : State) (f : FlowId) (w : Wire) : State :=
  let arg := hdrArg w.hdr
  if arg.getLsbD 8 then (if takesReport s f then declareLost s f.sdie (arg.extractLsb' 16 16) else s)
  else
    let i := fin4 (arg.extractLsb' 0 2).toNat
    let e := RegionEntry.ofBits (payPar w.pay ++ payTag w.pay)
    if (dieAt s f.ddie).regions[i.val].gen.ult e.gen then putEntry s f.ddie i e else s

/-- MSG_CONFIGURATION (R343, R394, R397, R400). -/
def execMsgConfiguration (f : FlowId) (s : State) : Host.Outcome State Fault Refusal := messageEvent 0xC2 actConfig f s

/-- MSG_SERVICE_LEVEL (R342): every die reads one service-level table in this model, which holds the choice already. -/
def execMsgServiceLevel (f : FlowId) (s : State) : Host.Outcome State Fault Refusal := messageEvent 0xC3 (fun s _ _ => s) f s

/-- The delay of a link from the stamps that a message carries: the time from this die's last message to now, less what the other end held it (R424). -/
def stampDelay (w : Wire) (now : BitVec 64) : BitVec 64 := ((now - payPar w.pay) - (hdrArg w.hdr - payTag w.pay)) >>> 1

/-- MSG_TIMEBASE (R16, R17, R424): its stamp and the time of its receipt are kept. One of the box's master that answers this die's own message gives the
link's delay: before the package issues, its dies load the master's time; after that they make up the difference by their rate. -/
def actTimebase (s : State) (f : FlowId) (w : Wire) : State :=
  if f.spkg == s.pkg then s
  else
    let now := tbOf s f.ddie
    let s := modDie s f.ddie fun y => { y with heardTb := some (hdrArg w.hdr, now) }
    if hdrLen w.hdr == 0 || f.spkg != masterPkg s then s
    else
      let t := hdrArg w.hdr + stampDelay w now
      if hasIssued s then { s with tbOff := (t - now).toInt, tbSynced := true }
      else { s with dies := s.dies.map fun y => { y with tb := t }, tbSynced := true }

/-- MSG_TIMEBASE. -/
def execMsgTimebase (f : FlowId) (s : State) : Host.Outcome State Fault Refusal := messageEvent 0xC4 actTimebase f s

/-! ### Acknowledgements and retries (R311, R312) -/

/-- ACK_TIMEOUT (R311): an acknowledgement that no header has carried goes alone. -/
def execAckTimeout (f : FlowId) (s : State) : Host.Outcome State Fault Refusal :=
  whenOk (f.dpkg == s.pkg && (flowAt s f).ackDue) (fun s => sendAck s f false) s

/-- The oldest unacknowledged message of a flow is 20 µs old. -/
def replayDue (s : State) (f : FlowId) : Bool :=
  f.spkg == s.pkg && (if f.dpkg == s.pkg then hears s f.sdie else serves s f.sdie) && match (flowAt s f).log.find? fun m => !m.acked with
    | some m => decide (m.at_.toNat + 20000 ≤ (tbOf s f.sdie).toNat)
    | none => false

/-- REPLAY_TIMEOUT (R312, R395, R410). -/
def execReplayTimeout (f : FlowId) (s : State) : Host.Outcome State Fault Refusal := whenOk (replayDue s f) (fun s => retryFlow s f) s

/-! ### Links and time (R15, R422 to R424) -/

/-- The control flow to the package at the other end of a die's Rillen link. -/
def rillenFlow (s : State) (d : Fin 4) : FlowId := ⟨s.pkg, d, d ^^^ s.pkg, d, 3⟩

/-- An exchange is due: every 100 µs (R424). -/
def exchangeDue (s : State) (d : Fin 4) : Bool := serves s d && decide ((dieAt s d).exchAt.toNat + 100000 ≤ (tbOf s d).toNat)

/-- TIMEBASE_EXCHANGE (R16, R424): stamps go out on the links of a die: ARG the time of sending; on the Rillen link, the stamp of the last message
received and the time of its receipt (log entry 15). -/
def execTimebaseExchange (d : Fin 4) (s : State) : Host.Outcome State Fault Refusal :=
  whenOk (exchangeDue s d) (fun s =>
    let stamp := tbOf s d
    let s := modDie s d fun y => { y with exchAt := stamp }
    let s := if rillenUp s d then (match (dieAt s d).heardTb with
        | some (sent, at_) => sendMsg s (rillenFlow s d) 0xC4 1 stamp (mkPay at_ sent 0)
        | none => sendMsg s (rillenFlow s d) 0xC4 0 stamp 0) else s
    (allDies.filter fun j => linkUp s d j && serves s j).foldl (fun s j => sendMsg s (ownFlow s d j 3) 0xC4 0 stamp 0) s) s

/-- LINK_TRAINING (R17, R313, R422): the Rillen link of a die is up, its flows start at SEQ 0. -/
def execLinkTraining (d : Fin 4) (s : State) : Host.Outcome State Fault Refusal :=
  whenOk (serves s d) (fun s =>
    let q := d ^^^ s.pkg
    let s := modDie s d fun y => { y with rillen := true }
    relink { s with flows := s.flows.filter fun p =>
      !(d != 0 && ((p.1.spkg == s.pkg && p.1.sdie == d && p.1.dpkg == q) || (p.1.spkg == q && p.1.dpkg == s.pkg && p.1.ddie == d))) }) s

/-- FAILED_LANE (R422, R423): a failed lane fails the link. -/
def execFailedLane (d : Fin 4) (s : State) : Host.Outcome State Fault Refusal :=
  whenOk (dieAt s d).rillen (fun s => relink (modDie (countErr s d 16) d fun y => { y with rillen := false })) s

end Sys2Proof.Machine
end

