-- ==== Sys2Proof/Machine/PowerEvents.lean ====
section
/-! DEFINITION. Events of bank power, operating points, thermal throttling and slack control (spec/05 R110 to R113; spec/08 R199, R200;
spec/14 R362, R366, R369, R372). -/

namespace Sys2Proof.Machine

/-! ### Vector banks (R110, R112, R113) -/

def modVBank (s : State) (x : CtxId) (b : Fin 8) (f : VBank → VBank) : State :=
  modCtx s x fun c => { c with vbank := c.vbank.set b.val (f c.vbank[b.val]) }

/-- A bank goes off; what its dead registers held is gone, parity errors with it (R110, R115). -/
def vBankOff (s : State) (x : CtxId) (b : Fin 8) : State :=
  modCtx (modVBank s x b fun k => { k with st := .off }) x fun c => { c with vpar := c.vpar.filter fun p => !(decide (p.1.val / 4 = b.val)) }

/-- The idle condition of R110, with R113 inside a region. -/
def idleOffDue (s : State) (x : CtxId) (b : Fin 8) : Bool :=
  let c := ctxAt s x
  let k := c.vbank[b.val]
  k.st == .full && !bankPart c.livev b && !c.keptBank b && decide (k.last + 16 ≤ (coreAt s x.core).cyc)

/-- BANK_IDLE_OFF (R110, R113). -/
def execBankIdleOff (x : CtxId) (b : Fin 8) (s : State) : Host.Outcome State Fault Refusal :=
  whenOk (idleOffDue s x b) (fun s => vBankOff s x b) s

def retentionDue (s : State) (x : CtxId) (b : Fin 8) : Bool :=
  let c := ctxAt s x
  let k := c.vbank[b.val]
  k.st == .full && bankPart c.livev b && decide (k.last + 512 ≤ (coreAt s x.core).cyc)

/-- BANK_RETENTION (R110). -/
def execBankRetention (x : CtxId) (b : Fin 8) (s : State) : Host.Outcome State Fault Refusal :=
  whenOk (retentionDue s x b) (fun s => modVBank s x b fun k => { k with st := .retention }) s

def killOffDue (s : State) (x : CtxId) (b : Fin 8) : Bool :=
  let c := ctxAt s x
  let k := c.vbank[b.val]
  k.st == .retention && !bankPart c.livev b && !c.keptBank b && decide (k.killed + 16 ≤ (coreAt s x.core).cyc)

/-- BANK_KILL_OFF (R110). -/
def execBankKillOff (x : CtxId) (b : Fin 8) (s : State) : Host.Outcome State Fault Refusal :=
  whenOk (killOffDue s x b) (fun s => vBankOff s x b) s

def vWakeDue (s : State) (x : CtxId) (b : Fin 8) : Bool :=
  let k := (ctxAt s x).vbank[b.val]
  k.st == .waking && decide (k.ready ≤ (coreAt s x.core).cyc)

/-- BANK_WAKE_DONE (R110, R111): the end of a wake is no access. -/
def execBankWakeDone (x : CtxId) (b : Fin 8) (s : State) : Host.Outcome State Fault Refusal :=
  whenOk (vWakeDue s x b) (fun s => modVBank s x b fun k => { k with st := .full }) s

/-! ### Scratchpad banks (R199, R200) -/

/-- SPAD_CLEAR_DONE (R200): the cleared bank goes off. -/
def execSpadClearDone (c : CoreId) (b : Fin 32) (s : State) : Host.Outcome State Fault Refusal :=
  whenOk ((coreAt s c).sbank[b.val].st == .clearing) (fun s => modCore s c fun k => setBanks k [b] .off) s

/-- SPAD_WAKE_DONE (R200). -/
def execSpadWakeDone (c : CoreId) (b : Fin 32) (s : State) : Host.Outcome State Fault Refusal :=
  whenOk ((coreAt s c).sbank[b.val].st == .waking) (fun s => modCore s c fun k => setBanks k [b] .full) s

/-- Banks of a core that are marked failed. -/
def failedBanks (k : Core) : Nat := (k.sbank.toList.filter SBank.failed).length + (k.codeFailed.toList.filter id).length

/-- The domains that hold a core. -/
def holders (s : State) (c : CoreId) : List (BitVec 12) := (s.doms.filter fun p => p.2.cores.any fun m => m.core == c).map Prod.fst

/-- A bank can be marked failed: a data bank at the firmware's threshold, a code bank when the safety manager finds it so (R199, R369). -/
def bankFailDue (s : State) (c : CoreId) (b : Fin 34) : Bool :=
  let k := coreAt s c
  if h : b.val < 32 then !(k.sbank[b.val]).failed && (dieAt s c.die).bankThr.ule (k.sbank[b.val]).corr else !(k.codeFailed[b.val - 32])

/-- BANK_FAILED (R199): with the second failed bank the core is removed from every domain. -/
def execBankFailed (c : CoreId) (b : Fin 34) (s : State) : Host.Outcome State Fault Refusal :=
  whenOk (bankFailDue s c b) (fun s =>
    let s := modCore s c fun k =>
      if h : b.val < 32 then { k with sbank := k.sbank.set b.val { k.sbank[b.val] with failed := true } }
      else { k with codeFailed := k.codeFailed.set (b.val - 32) true }
    if 2 ≤ failedBanks (coreAt s c) then modCore (removeCore s c (holders s c)) c fun k => { k with removed := true } else s) s

/-! ### Operating points (R362, R366) -/

/-- OP_SETTLE_DONE (R362): the change has settled; the next one starts where the target has moved. -/
def execOpSettleDone (c : CoreId) (s : State) : Host.Outcome State Fault Refusal :=
  match (coreAt s c).settle with
  | some v => .next (
    let s := modCore s c fun k => { k with opCur := v.target, settle := none }
    opUpdate s c v.next)
  | none => .next s

/-- New changes on the cores of a die after a ceiling has moved. -/
def opUpdateDie (s : State) (d : Fin 4) : State := (coresOf d).foldl (fun s c => opUpdate s c []) s

/-- The ceiling can move: 100 µs after the last step downward, 1 ms upward. -/
def thermalDue (s : State) (d : Fin 4) (hot : Bool) : Bool :=
  let y := dieAt s d
  let now := (tbOf s d).toNat
  if hot then y.ceil != 0 && (y.ceil == 7 || decide (y.thermAt.toNat + 100000 ≤ now)) else y.ceil != 7 && decide (y.thermAt.toNat + 1000000 ≤ now)

/-- The die's throttle ceiling steps (R366). -/
def ceilingStep (s : State) (d : Fin 4) (up : Bool) : State :=
  modDie s d fun y => { y with ceil := if up then y.ceil + 1 else y.ceil - 1, thermAt := y.tb }

/-- A step downward for a cause: every domain with a context on the die may get its event. -/
def throttleStep (s : State) (d : Fin 4) (t : Throttle) : State :=
  ((allResidents s).filter fun x => x.core.die == d).foldl (fun s x => throttleEvent s x.core (ctxAt s x).dom t) (ceilingStep s d false)

/-- THERMAL_THROTTLE_STEP (R366): down while the die or its rail is above its limit, up once it is 5 °C below. -/
def execThermalThrottleStep (d : Fin 4) (h : Heat) (s : State) : Host.Outcome State Fault Refusal :=
  whenOk (thermalDue s d (h != .cool)) (fun s =>
    opUpdateDie (match h with
      | .thermal => throttleStep s d .thermal
      | .rail => throttleStep s d .rail
      | .cool => ceilingStep s d true) d) s

/-! ### Slack control (R372) -/

/-- The report of a die: its cores' counters over its waiting cores, in 10^6 ticks. -/
def slackOf (s : State) (d : Fin 4) : SlackRep :=
  let l := (coresOf d).map (coreAt s)
  ⟨(l.map fun k => k.slack.toNat).sum, 1000000 * Nat.max 1 (l.filter fun k => decide (0 < k.slackWaits)).length⟩

def slackDen (r : SlackRep) : Nat := if r.den = 0 then 1 else r.den

/-- r leads q by more than 0.05. -/
def slackLeads (r q : SlackRep) : Bool := decide ((slackDen r) * (slackDen q) + 20 * (q.num * (slackDen r)) < 20 * (r.num * (slackDen q)))

/-- The greatest request of the contexts of a core. -/
def opWanted (s : State) (c : CoreId) : Nat := (residents s c).foldl (fun m x => Nat.max m (ctxAt s x).opreq.toNat) 0

/-- A throttle ceiling holds the operating point of some core of the die down. -/
def heldDown (s : State) (d : Fin 4) : Bool :=
  (coresOf d).any fun c =>
    let lim := (residents s c).foldl (fun m x => Nat.min m (limitsOf s (ctxAt s x).dom).opmax.toNat) 7
    decide ((dieAt s d).ceil.toNat < Nat.min (Nat.min (opWanted s c) lim) (dieAt s d).slackCeil.toNat)

/-- The new slack ceiling of a member that is not excluded, by its report and those of the others that are not. -/
def slackStep (s : State) (d : Fin 4) (r : SlackRep) (others : List SlackRep) : BitVec 3 :=
  let y := dieAt s d
  if (tbOf s d).toNat < y.slackAt.toNat + 2000000 then y.slackCeil
  else if others.any fun q => slackLeads r q then (if y.slackCeil == 0 then 0 else y.slackCeil - 1)
  else if (others.all fun q => slackLeads q r) && y.slackCeil != 7 && (coresOf d).any fun c => decide (y.slackCeil.toNat < opWanted s c) then
    y.slackCeil + 1
  else y.slackCeil

/-- The last reports of the other members in this package that are not excluded. -/
def slackPeers (s : State) (d : Fin 4) : List SlackRep :=
  (s.slackMembers.filter fun i => !(decide (i = d)) && isLive s i && !heldDown s i).filterMap fun i => (dieAt s i).slackRep.map Prod.fst

/-- The counters of a die's cores begin anew. -/
def clearSlack (s : State) (d : Fin 4) : State :=
  (coresOf d).foldl (fun s c => if (coreAt s c).slack == 0 && (coreAt s c).slackWaits == 0 then s else
    modCore s c fun q => { q with slack := 0, slackWaits := 0 }) s

/-- A member may report: 1 ms after its last report. -/
def reportDue (s : State) (d : Fin 4) : Bool :=
  isLive s d && s.slackMembers.contains d && match (dieAt s d).slackRep with
    | some p => decide (p.2.toNat + 1000000 ≤ (tbOf s d).toNat)
    | none => true

/-- A member reports, begins its counters anew and moves its slack ceiling; `others` are the reports of members of other packages that are not
excluded. -/
def slackReported (s : State) (d : Fin 4) (others : List SlackRep) : State :=
  let r := slackOf s d
  let s := modDie (clearSlack s d) d fun y => { y with slackRep := some (r, y.tb) }
  let k := slackStep s d r (others ++ slackPeers s d)
  if heldDown s d || k == (dieAt s d).slackCeil then s
  else opUpdateDie (modDie s d fun y => { y with slackCeil := k, slackAt := y.tb }) d

/-- SLACK_REPORT (R372). -/
def execSlackReport (d : Fin 4) (r : SlackOp) (s : State) : Host.Outcome State Fault Refusal :=
  match r with
  | .mark flags members => .next { s with slackFlags := flags.map fun p => ⟨p.1, p.2⟩, slackMembers := members }
  | .report others => whenOk (reportDue s d) (fun s => slackReported s d others) s

end Sys2Proof.Machine
end

