-- ==== Sys2Proof/Machine/PreemptEvents.lean ====
section
/-! DEFINITION. Pre-emption by firmware and the end of a save (spec/15 R385 to R389, R392, R393). -/

namespace Sys2Proof.Machine

/-- The context holds a strand that is not being saved. -/
def saveable (s : State) (x : CtxId) : Bool := (ctxAt s x).occupied && (ctxAt s x).saving.isNone

/-- SUSPENSION_REQUEST (R385, R386): firmware asks the strand to suspend. -/
def execSuspensionRequest (x : CtxId) (s : State) : Host.Outcome State Fault Refusal :=
  whenOk (saveable s x && (ctxAt s x).preq.isNone) (fun s =>
    modCtx s x fun c => { c with preq := some ⟨0, tbOf s x.core.die⟩ }) s

/-- The drain begins: the region ends, the iterations not started are counted in LCS (R387). -/
def startDrain (s : State) (x : CtxId) : State :=
  modCtx (endRegion s x) x fun c => { c with lcs := c.lc, lc := 0, draining := true, preq := some ⟨1, tbOf s x.core.die⟩ }

/-- LOOP_DRAIN (R385, R387). -/
def execLoopDrain (x : CtxId) (s : State) : Host.Outcome State Fault Refusal :=
  whenOk (saveable s x && atBoundary s x && !(ctxAt s x).draining) (fun s => startDrain s x) s

/-- The immediate grade: a watchdog that is due is delivered first (R388, R393). -/
def preemptNow (s : State) (x : CtxId) : State :=
  modCtx (startSave (watchdogFirst s x) x 2 false) x fun c => { c with draining := false }

/-- IMMEDIATE_PREEMPTION (R385, R388). -/
def execImmediatePreemption (x : CtxId) (s : State) : Host.Outcome State Fault Refusal :=
  whenOk (saveable s x && atBoundary s x) (fun s => preemptNow s x) s

/-- A grade has not completed within its limit (R385). -/
def escalationDue (s : State) (x : CtxId) : Bool :=
  let y := dieAt s x.core.die
  match (ctxAt s x).preq with
  | some q => decide (q.since.toNat + (if q.grade == 0 then y.suspLim else y.drainLim).toNat ≤ y.tb.toNat)
  | none => false

/-- PREEMPT_ESCALATION (R385): a suspension becomes a loop drain while LC ≠ 0, everything else the immediate grade. -/
def execPreemptEscalation (x : CtxId) (s : State) : Host.Outcome State Fault Refusal :=
  whenOk (saveable s x && atBoundary s x && escalationDue s x) (fun s =>
    match (ctxAt s x).preq with
    | some q => if q.grade == 0 && (ctxAt s x).lc != 0 && !(ctxAt s x).draining then startDrain s x else preemptNow s x
    | none => s) s

/-- CONTEXT_SAVE_COMPLETE (R388, R389, R392): a strand whose core has left its domain is spilled, and Held where its die has no other. -/
def execContextSaveComplete (x : CtxId) (s : State) : Host.Outcome State Fault Refusal :=
  whenOk (saveReady s x) (fun s =>
    let dom := (ctxAt s x).dom
    let s := completeSave s x
    if (virtOf s dom x.core).isNone then holdDomain (spillStrands s x.core [dom]) dom x.core.die else s) s

end Sys2Proof.Machine
end

