-- ==== Sys2Proof/Machine/ContainEvents.lean ====
section
/-! DEFINITION. Events of detection, self-test, checkpoints, restore, scrubbing and stored errors (spec/16 R394 to R417; spec/08 R190, R195,
R196, R198, R199, R202, R203; spec/05 R115; spec/13 R342). -/

namespace Sys2Proof.Machine

/-! ### Detection (R5, R394, R395, R428) -/

/-- A heartbeat of a die is due (R394, R411). -/
def heartbeatDue (s : State) (d : Fin 4) : Bool :=
  hears s d && decide ((dieAt s d).hbSent.toNat + 100000 ≤ (tbOf s d).toNat)

/-- HEARTBEAT_SEND (R394). -/
def execHeartbeatSend (d : Fin 4) (s : State) : Host.Outcome State Fault Refusal :=
  whenOk (heartbeatDue s d) (fun s =>
    let s := modDie s d fun y => { y with hbSent := y.tb }
    (allDies.filter fun j => !(decide (j = d)) && serves s j).foldl (fun s j => sendMsg s (ownFlow s d j 3) 0xC1 0 (tbOf s d) 0) s) s

/-- Die d suspects die i: nothing accepted from it for 300 µs (R394). -/
def suspects (s : State) (d i : Fin 4) : Bool :=
  serves s d && !(decide (d = i)) && (regSt s i == .live || regSt s i == .testing)
    && decide (((dieAt s d).hb[i.val]).toNat + 300000 ≤ (tbOf s d).toNat)

/-- Die d declares: the keyholder, or the first candidate where the keyholder is suspected or cannot be reached (R394). -/
def declares (s : State) (d i : Fin 4) : Bool :=
  let k := keyDie s
  d == k || ((i == k || keyGone s d) && heirOf s k == some d)

/-- The reason of a declaration by heartbeat: a way to the die is open, or none is though it has not been heard (R395, R397, R418). -/
def lossReason (s : State) (d i : Fin 4) : BitVec 16 :=
  if (ringReach { s with dies := s.dies.set i.val { dieAt s i with fenced := false } } d).contains i then 1 else 2

/-- HEARTBEAT_LOSS (R394, R396 to R400). -/
def execHeartbeatLoss (d i : Fin 4) (s : State) : Host.Outcome State Fault Refusal :=
  whenOk (suspects s d i && declares s d i) (fun s => declareLost s i (lossReason s d i)) s

/-- A die fails: where its rail holds it reports itself to the keyholder or the first candidate, by a message that its flow's log keeps; it fences
its ports (R312, R394). Without a die to report to it is lost at once. -/
def dieFault (s : State) (d : Fin 4) (reason : BitVec 16) (reports : Bool) : State :=
  let k := keyDie s
  let fence (s : State) : State := modDie s d fun y => { y with fenced := true }
  if !reports then fence s
  else match if d = k || keyGone s d then heirOf s k else some k with
    | none => declareLost (fence s) d reason
    | some j => fence (sendMsg s (ownFlow s d j 3) 0xC2 0 ((0 : BitVec 32) ++ reason ++ (0x100 : BitVec 16)) 0)

/-- The fault of a die that is in service. -/
def faultable (s : State) (d : Fin 4) : Bool := hears s d

/-- RAIL_FAULT (R6, R394). -/
def execRailFault (d : Fin 4) (reports : Bool) (s : State) : Host.Outcome State Fault Refusal :=
  whenOk (faultable s d) (fun s => dieFault s d 3 reports) s

/-- CLOCK_FAULT (R6, R394). -/
def execClockFault (d : Fin 4) (reports : Bool) (s : State) : Host.Outcome State Fault Refusal :=
  whenOk (faultable s d) (fun s => dieFault s d 4 reports) s

/-- LOCKSTEP_MISMATCH (R5, R369, R394). -/
def execLockstepMismatch (d : Fin 4) (reports : Bool) (s : State) : Host.Outcome State Fault Refusal :=
  whenOk (faultable s d) (fun s => dieFault (countErr s d 17) d 5 reports) s

/-- JUNCTION_OVERTEMP (R428): the safety manager removes the die's rail; the die is lost with the rail's reason. -/
def execJunctionOvertemp (d : Fin 4) (s : State) : Host.Outcome State Fault Refusal :=
  whenOk (faultable s d) (fun s => dieFault s d 3 true) s

/-! ### Restore, reunion, rebuild (R401, R412, R413) -/

/-- RESTORE_AND_RELAUNCH (R396, R401, R402, R408, R416): it waits while a die is reinitialised. -/
def execRestoreAndRelaunch (s : State) : Host.Outcome State Fault Refusal :=
  whenOk ((s.tasksets.any TaskSet.restore) && !(s.dies.toList.any Die.reinit)) (fun s =>
    (s.tasksets.filter TaskSet.restore).foldl (fun s t => relaunchSet s t.reg.tsid) s) s

/-- RELAUNCH_RETRY (R401). -/
def execRelaunchRetry (s : State) : Host.Outcome State Fault Refusal :=
  whenOk (s.tasksets.any fun t => !t.refused.isEmpty) (fun s =>
    s.tasksets.foldl (fun s t => (dedup (t.refused.map RoleReg.launch)).foldl (submitLaunch t.reg.tsid) s) s) s

/-- REUNION (R412): a link between a held die and the winning group carries frames again. -/
def execReunion (d : Fin 4) (s : State) : Host.Outcome State Fault Refusal :=
  whenOk (regSt s d == .held && !(dieAt s d).fenced && !(liveBeside s d).isEmpty) (fun s =>
    let s := joinRing s d
    let s := (dieAt s d).groups.foldl (fun s g => killGroup s g.id) s
    rejoin (clearDie s d) d 0x0201) s

/-- REBUILD (R7, R413): the timebase and the tables, the data, the retained messages, then live. -/
def execRebuild (d : Fin 4) (s : State) : Host.Outcome State Fault Refusal :=
  whenOk (regSt s d == .lost && !(dieAt s d).fenced && !(liveBeside s d).isEmpty) (fun s =>
    let s := modDie (joinRing s d) d fun y => { y with tb := tbOf s (keyDie s) }
    let s := { s with boot := { s.boot with tries := Vector.replicate 2 0, warm := s.boot.warm.filter fun p => !(decide (p.1 = d)) } }
    rejoin s d 0x0200) s

/-! ### Rotating self-test (R371, R414 to R416) -/

/-- The next die in the order 0 to 3 that is live. -/
def nextTested (s : State) : Option (Fin 4) :=
  let from_ : Fin 4 := (s.tested.map fun d => dieAfter d 1).getD 0
  ([0, 1, 2, 3].map (dieAfter from_)).find? fun d => isLive s d

/-- A task set has a declared level when die d is counted out. -/
def levelWithout (s : State) (d : Fin 4) (t : TaskSet) : Bool := (levelFor s t (.without d)).isSome

/-- Groups on a die that no level choice moves away. -/
def ownGroups (s : State) (d : Fin 4) : Bool := (dieAt s d).groups.any fun g => ((launchAt s g.launch).bind Launch.ts).isNone

/-- The test of a die can begin (R414). -/
def testable (s : State) (d : Fin 4) : Bool :=
  decide (3 ≤ (allDies.filter fun k => isLive s k).length)
    && !(s.tasksets.any TaskSet.restore) && !(s.dies.toList.any fun y => y.test.isSome || y.reinit) && s.tasksets.all (levelWithout s d)
    && !ownGroups s d && (s.tested.isNone || decide (s.testAt.toNat + 1000000000 ≤ (tbOf s (keyDie s)).toNat))

/-- SELF_TEST_START (R371, R414). -/
def execSelfTestStart (s : State) : Host.Outcome State Fault Refusal :=
  match nextTested s with
  | none => .next s
  | some d => whenOk (testable s d) (fun s =>
    let now := tbOf s (keyDie s)
    let s := s.tasksets.foldl (fun s t => chooseLevel s t.reg.tsid (.without d) false) s
    let s := modDie { s with tested := some d, testAt := now } d fun y =>
      { y with test := some ⟨y.tb⟩, stc := y.stc.set 0 (satInc y.stc[0]) }
    offerAll (unqueue (changeState s d .testing 0x0100) d)) s

/-- A test of a die is running. -/
def underTest (s : State) (d : Fin 4) : Bool := regSt s d == .testing && !(dieAt s d).reinit && (dieAt s d).test.isSome

/-- The time that a test has run. -/
def testTime (s : State) (d : Fin 4) : Nat :=
  match (dieAt s d).test with
  | some t => (tbOf s d).toNat - t.since.toNat
  | none => 0

/-- The test is over: counted, its duration in µs kept; a pass returns the die to live, a failure loses it (R371, R415). -/
def endTest (s : State) (d : Fin 4) (pass : Bool) : State :=
  let us := BitVec.ofNat 32 (testTime s d / 1000)
  let s := modDie s d fun y =>
    { y with test := none, stc := (if pass then y.stc.set 1 (satInc y.stc[1]) else y.stc.set 2 (satInc y.stc[2])).set 4 us }
  if pass then offerAll (raiseIdle (changeState (resetCores s d) d .live 0x0101)) else declareLost s d 6

/-- SELF_TEST_END (R371, R415). -/
def execSelfTestEnd (d : Fin 4) (pass : Bool) (s : State) : Host.Outcome State Fault Refusal :=
  whenOk (underTest s d && decide (testTime s d ≤ 40000000) && (!pass || decide (24000000 ≤ testTime s d))) (fun s => endTest s d pass) s

/-- SELF_TEST_TIMEOUT (R415): not passed when 40 ms have elapsed. -/
def execSelfTestTimeout (d : Fin 4) (s : State) : Host.Outcome State Fault Refusal :=
  whenOk (underTest s d && decide (40000000 ≤ testTime s d)) (fun s => endTest s d false) s

/-- SELF_TEST_REINITIALISATION_DONE (R416). -/
def execSelfTestReinitialisationDone (d : Fin 4) (s : State) : Host.Outcome State Fault Refusal :=
  whenOk (regSt s d == .testing && (dieAt s d).reinit) (fun s =>
    let s := modDie (resetCores s d) d fun y => { y with reinit := false, test := none }
    offerAll (raiseIdle (changeState s d .live 0x0102))) s

/-! ### Checkpoints (R404 to R407) -/

/-- The task set with an identifier. -/
def setAt (s : State) (n : Nat) : Option TaskSet := s.tasksets.find? fun t => t.reg.tsid.toNat == n

/-- FRAME_CHECKPOINT (R405): the frame is complete: its checkpoint, a level that now fits, the next frame. -/
def execFrameCheckpoint (ts : Nat) (s : State) : Host.Outcome State Fault Refusal :=
  match setAt s ts with
  | none => .next s
  | some t => whenOk (t.ckptDue && t.running.isEmpty && t.refused.isEmpty && !t.restore && t.active.isSome) (fun s =>
    let n := t.reg.tsid
    let s := modSet (checkpoint s t (t.frame + 1)) n fun t => { t with ckptDue := false, frame := t.frame + 1 }
    let s := chooseLevel s n .live false
    match s.tasksets.find? fun u => u.reg.tsid == n with
    | some u => if u.restore then s else startFrame s n
    | none => s) s

/-- A strand that occupies a slot. -/
def Member.onSlot (m : Member) : Bool :=
  match m with
  | .resident _ => true
  | _ => false

/-- No group of a task set is resident (R406). -/
def noGroups (s : State) (n : BitVec 32) : Bool :=
  allDies.all fun d => !((dieAt s d).groups.any fun g => ((launchAt s g.launch).bind Launch.ts) == some n && g.members.any Member.onSlot)

/-- EARLY_CHECKPOINT (R369, R403, R406): admission has been held until no group was left; it goes on. -/
def execEarlyCheckpoint (ts : Nat) (s : State) : Host.Outcome State Fault Refusal :=
  match setAt s ts with
  | none => .next s
  | some t => whenOk (earlyDue s t && !t.restore && t.active.isSome && noGroups s t.reg.tsid) (fun s => checkpoint s t t.frame) s

/-- MIRROR_COPY_COMPLETE (R190): the new partner holds a complete copy. -/
def execMirrorCopyComplete (d : Fin 4) (s : State) : Host.Outcome State Fault Refusal :=
  whenOk ((dieAt s d).recopy.isSome && serves s d) (fun s =>
    let s := match hingePartner s d with
      | some p => copyMirrored s d d p
      | none => s
    modDie s d fun y => { y with recopy := if (hingePartner s d).isSome then none else y.recopy }) s

/-! ### Task sets (R75, R342, R396) -/

/-- What registration accepts: a new identifier among 256, a domain, distinct levels, every role on a die of its level, at most 512 MiB to
checkpoint in a level. -/
def setGood (s : State) (r : TaskSetReg) : Bool :=
  decide (s.tasksets.length < 256) && (domAt? s r.dom).isSome && !(s.tasksets.any fun t => t.reg.tsid == r.tsid)
    && decide ((dedup (r.levels.map LevelReg.level)).length = r.levels.length)
    && r.levels.all fun v => (v.roles.all fun q => decide (q.vdie.toNat ≤ v.level.val)) && decide ((v.ckpts.map fun c => c.bytes.toNat).sum ≤ 536870912)

/-- TASK_SET_REGISTRATION (R342): the entries are written, the level chosen, the first frame submitted. -/
def execTaskSetRegistration (ts : TaskSetReg) (s : State) : Host.Outcome State Fault Refusal :=
  whenOk (setGood s ts) (fun s =>
    let t : TaskSet := ⟨ts, none, [], 0, [], 0, [], s.dies.map errSum, false, [], false, false, false, none⟩
    let s := { s with tasksets := s.tasksets ++ [t] }
    let k := levelFor s t .live
    let map := match k with
      | some v => (setDies s t .live).take (v.val + 1)
      | none => []
    let s := modSet s ts.tsid fun t => { t with active := k, map := map }
    let s := event s ts.dom 5 (levelByte k) [0xFF, ts.tsid.setWidth 64]
    startFrame s ts.tsid) s

/-! ### Stored bits (R115, R195, R196, R198, R199, R202, R203) -/

/-- SCRUB (R196). -/
def execScrub (d : Fin 4) (line : BitVec 29) (s : State) : Host.Outcome State Fault Refusal :=
  whenOk (serves s d) (fun s => meetLatent s d (lineKey d (64 * line.toNat))) s

/-- One place of a vector given a new value. -/
def vmod {α : Type} {n : Nat} (v : Vector α n) (i : Nat) (h : i < n) (f : α → α) : Vector α n := v.set i (f v[i])

/-- A changed bit of a cell or checksum. -/
def flipCell (bit : Fin 128) (c : Cell) : Cell := { c with n := flipBit c.n bit.val }

/-- The operands of the product of index k that an MMA has added to cell (i, j), with the scales that its block drew (R239, R241). -/
def addedProduct (s : State) (x : CtxId) (e : Entry) (a b : Tile) (i j k : Nat) : Val × Val :=
  let ma := scaledBy s x a e.marka
  let mb := scaledBy s x b e.markb
  let need := scaleNeed s x e a b
  let sc := (e.drawn.drop (e.drawn.length - (e.prog - k / 32) * need)).take need
  (mmaA e a ma sc i k, mmaB e b ma mb sc k j)

/-- A bit of a cell's partial sum flips: the products after index k are taken away, and added again after the flip (R90, R430; log entry 12). -/
def flipDuring (s : State) (c : CoreId) (tid k : Nat) (i j : Fin 32) (bit : Fin 128) : State :=
  match (startedOn s c).find? fun p => mmaDone s p.1 p.2 && p.2.td == some (.own tid) with
  | none => s
  | some (x, e) => match entryTile s x e.ta, entryTile s x e.tb with
    | some a, some b =>
      let later := (List.range (32 * e.prog - (k + 1))).map fun d => addedProduct s x e a b i.val j.val (k + 1 + d)
      let flip (q : Int) (u : Cell) : Cell :=
        let first : Cell := { u with n := later.foldl (fun m p => m - (Cell.zero.addProd p.1 p.2 q).cell.n) u.n }
        later.foldl (fun v p => (v.addProd p.1 p.2 q).cell) (flipCell bit first)
      modTile s c tid fun t => { t with acc := t.acc.map fun q => { q with cells := vmod q.cells (32 * i.val + j.val) (by omega) (flip q.q) } }
    | _, _ => s

/-- A row of a scratchpad tile holds the byte of some bank at an offset: by the tile's placement in row layout (R223), a free choice in bit-plane
layout (R205; log entry 12). -/
def rowHolds (t : Tile) (byte i : Nat) : Bool :=
  if t.banks.isEmpty then false
  else if t.plane then Config.planeByte byte i
  else if t.dense then decide ((byte + 16384 - i * t.rb % 16384) % 16384 < t.rb)
  else
    let run := 2 ^ t.run.toNat
    let pitch := if t.pitch == 0 then t.rb else t.pitch.toNat
    let off := i / run / t.banks.length * run * pitch + i % run * pitch
    decide (off ≤ byte) && decide (byte < off + t.rb)

/-- Rows of a tile become poisoned. -/
def Tile.poisonRows (t : Tile) (f : Nat → Bool) : Tile := ((List.range t.rows).filter f).foldl Tile.poisonRow t

/-- Rows that are poisoned in the second tile alone. -/
def newPoison (t u : Tile) : Nat := ((List.range t.rows).filter fun i => rowPoisoned u.pois i && !rowPoisoned t.pois i).length

/-- A stripe with changed symbols, the first in bank b: one at a place that is not known is corrected and counted at its bank, an erased one is
rebuilt, two in error poison every tile row that holds a byte of the stripe (R198, R199, R207, R369). -/
def stripeError (s : State) (c : CoreId) (b : Fin 34) (byte symbols : Nat) : State :=
  let k := coreAt s c
  let erased (b : Fin 34) : Bool := if h : b.val < 32 then (k.sbank[b.val]).failed else k.codeFailed[b.val - 32]
  let others := ((List.finRange 34).filter fun i => erased i && !(decide (i = b))).length
  if symbols = 0 || (symbols = 1 && erased b && others ≤ 1) then s
  else if symbols = 1 && others = 0 then
    modCore (countErr s c.die 0) c fun k => if h : b.val < 32 then
      { k with sbank := vmod k.sbank b.val h fun v => { v with corr := if v.corr == 0xFF then v.corr else v.corr + 1 } } else k
  else
    let hit (t : Tile) : Tile := t.poisonRows (rowHolds t byte)
    let n := (k.tiles.map fun t => newPoison t (hit t)).sum
    modCore (countErrs (countErr s c.die 1) c.die 8 n) c fun k => { k with tiles := k.tiles.map hit }

/-- A double error in a tile's state poisons every row (R202, R207). -/
def accError (s : State) (c : CoreId) (tid : Nat) : State :=
  match tileAt s c tid with
  | none => countErr s c.die 5
  | some t =>
    let u := t.poisonRows fun _ => true
    modTile (countErrs (countErr s c.die 5) c.die 8 (newPoison t u)) c tid fun _ => u

/-- A double error in a row of a D tile poisons the row (R203, R207). -/
def dstoreError (s : State) (d : Fin 4) (g : BitVec 20) (h : Fin 8) (row : Nat) : State :=
  let hit (t : Tile) : Tile := t.poisonRows fun i => decide (i = row)
  let n := ((groupAt s g).bind fun x => x.dt[h.val]).map fun t => newPoison t (hit t)
  modGroup (countErrs (countErr s d 5) d 8 (n.getD 0)) g fun x => { x with dt := vmod x.dt h.val h.isLt fun o => o.map hit }

/-- A changed bit of a vector register toggles its word's parity (R115). -/
def flipPar (l : List (Fin 32 × Fin 32)) (p : Fin 32 × Fin 32) : List (Fin 32 × Fin 32) := if l.contains p then l.filter fun q => !(q == p) else p :: l

/-- SOFT_ERROR (R115, R195, R196, R198, R202, R203): a stored bit changes. What a code finds is counted at once where the access that would find
it cannot tell the difference (log entry 12). -/
def softEffect (s : State) : SoftErr → State
  | .partialSum c tid k i j bit => flipDuring s c tid k.val i j bit
  | .cell c tid i j bit => modTile s c tid fun t => { t with acc := t.acc.map fun a => { a with cells := vmod a.cells (32 * i.val + j.val) (by omega) (flipCell bit) } }
  | .rowck c tid i bit => modTile s c tid fun t => { t with acc := t.acc.map fun a => { a with rowck := vmod a.rowck i.val i.isLt (flipCell bit) } }
  | .colck c tid j bit => modTile s c tid fun t => { t with acc := t.acc.map fun a => { a with colck := vmod a.colck j.val j.isLt (flipCell bit) } }
  | .accState c tid => accError s c tid
  | .vreg x r bit => modCtx s x fun c =>
      { c with vreg := vmod c.vreg r.val r.isLt (fun v => v ^^^ (1 <<< bit.val)), vpar := flipPar c.vpar (r, ⟨bit.val / 32, by omega⟩) }
  | .stripe c b byte symbols => stripeError s c b byte.val symbols
  | .line d line symbols =>
      let l := lineKey d (64 * line.toNat)
      if symbols = 0 then s else { s with latent := tabPut s.latent l (tabGet s.latent l 0 + symbols) }
  | .cacheLine d line double =>
      if double then poisonLine (countErr s d 5) d (lineKey d (64 * line.toNat)) else countErr s d 4
  | .dstoreRow d grp h row double =>
      if double then dstoreError s d grp h row.val else countErr s d 4

/-- SOFT_ERROR. -/
def execSoftError (e : SoftErr) (s : State) : Host.Outcome State Fault Refusal := .next (softEffect s e)

end Sys2Proof.Machine
end

