-- ==== Sys2Proof/Machine/Boot.lean ====
section
/-! DEFINITION. Start, warm reset, recovery and what firmware sets at boot (spec/01 R7, R8, R16, R17; spec/13 R319, R321, R337, R344; spec/14
R371; spec/17 R425 to R428, R445, R446). -/

namespace Sys2Proof.Machine

/-! ### The mask ROM (R371, R425, R427) -/

/-- The boot attempt counter as the mask ROM reads it: the higher of the copies that read valid, 3 when neither does (R425). -/
def triesRead (s : State) (b : BootInput) : BitVec 8 :=
  let v : BitVec 8 × BitVec 8 := b.flash.getD (s.boot.tries[0], s.boot.tries[1])
  if b.copies == 0 then 3
  else
    let x := if b.copies.getLsbD 0 then v.1 else 0
    let y := if b.copies.getLsbD 1 then v.2 else 0
    if x.ult y then y else x

/-- The counter after the increment; it does not wrap. -/
def triesNext (s : State) (b : BootInput) : BitVec 8 := if triesRead s b == 0xFF then 0xFF else triesRead s b + 1

/-- The reason for which a start fails, 0 for none; the first failure in the order of R425. -/
def bootReason (b : BootInput) : BitVec 8 :=
  if b.passes == 0 then 5
  else if !b.keysOk then 2
  else if !b.signaturesOk then 1
  else if !b.pufOk then 4
  else if !b.versionOk then 3
  else 0

/-- The keyholder at cold start: die 0 if it passes, else the lowest that passes (R8). -/
def firstPass (b : BootInput) : Fin 4 := (allDies.find? fun d => b.passes.getLsbD d.val).getD 0

/-- The dies that a start brings up: those that pass their test, in recovery the lowest of them alone (R427, R428). -/
def booted (b : BootInput) (recover : Bool) (d : Fin 4) : Bool := b.passes.getLsbD d.val && (!recover || d == firstPass b)

/-- The region table at a cold start: a die whose start-up test or rail failed is lost (R8, R428), one that recovery leaves down as well (R427). -/
def bootRegions (b : BootInput) (recover : Bool) : Vector RegionEntry 4 :=
  Vector.ofFn fun d : Fin 4 =>
    if booted b recover d then ⟨0, 0, 0, d == firstPass b, .live⟩ else ⟨0, 1, if b.passes.getLsbD d.val then 0 else 0x10, false, .lost⟩

/-- A die at a cold start: its timebase starts with the keyholder's at 0 (R17). -/
def bootDie (b : BootInput) (recover : Bool) (d : Fin 4) : Die :=
  { Die.reset with regions := bootRegions b recover, fenced := !booted b recover d }

/-- Cold start of a package that has lost its power: only the flash keeps its contents (R425, R427). -/
def startCold (b : BootInput) (s : State) : State :=
  let reason := bootReason b
  let recover := decide (3 ≤ (triesRead s b).toNat)
  let boot : Boot :=
    { tries := Vector.replicate 2 (triesNext s b)
      phase := if reason ≠ 0 then .failed else if recover then .recovery else .starting
      step := b.stepping
      auth := reason == 0
      recov := reason == 0 && recover
      triesReg := triesNext s b
      reason := if reason ≠ 0 then reason else if recover then s.boot.reason else 0
      since := 0
      warm := []
      measured := if reason = 0 then [Config.imageHash] else [] }
  let t := { State.reset with agenda := s.agenda, outbox := s.outbox, clk := s.clk, pkg := s.pkg, boot := boot }
  if reason = 0 then { t with dies := Vector.ofFn (bootDie b recover) } else t

/-- COLD_START (R8, R16, R17, R425, R427, R428). -/
def execColdStart (b : BootInput) (s : State) : Host.Outcome State Fault Refusal := .next (startCold b s)

/-- What a reset of a die leaves: its on-chip state at reset values, its memory not relied on (R7; log entry 13). Which of its pages are mirrored,
and who holds their copy, is known outside it (R190). -/
def wipeDie (s : State) (d : Fin 4) : State :=
  let lo := memKey d 0
  let out (l : Nat) : Bool := !(decide (lo / 64 ≤ l) && decide (l < (lo + 2 ^ 35) / 64))
  { s with
    mem := memKeep s.mem fun k => !(decide (lo ≤ k) && decide (k < lo + 2 ^ 35))
    poison := s.poison.filter out
    poisonAll := s.poisonAll.flatMap (cutLines (lo / 64) ((lo + 2 ^ 35) / 64))
    latent := s.latent.filter fun p => out p.1
    cores := s.cores.filter fun p => !(p.1.die == d)
    dies := s.dies.set d.val { Die.reset with regions := (dieAt s d).regions, fenced := true, mpages := (dieAt s d).mpages, recopy := (dieAt s d).recopy } }

/-- Warm reset of a lost die: the mask ROM counts the start and checks the image; a die that passes waits for its rebuild, behind its fence
while a check fails or the counter calls for recovery; a check that fails leaves its reason (R7, R413, R425, R427). -/
def startWarm (d : Fin 4) (b : BootInput) (s : State) : State :=
  let reason := bootReason b
  let good := reason == 0 && b.passes.getLsbD d.val && decide ((triesRead s b).toNat < 3)
  let boot := { s.boot with tries := Vector.replicate 2 (triesNext s b), triesReg := triesNext s b
                            reason := if reason == 0 then s.boot.reason else reason
                            warm := (s.boot.warm.filter fun p => !(decide (p.1 = d))) ++ if good then [(d, tbOf s (keyDie s))] else [] }
  let s := relink (wipeDie { s with boot := boot } d)
  modDie s d fun y => { y with fenced := !good }

/-- WARM_RESET (R7, R425). -/
def execWarmReset (d : Fin 4) (b : BootInput) (s : State) : Host.Outcome State Fault Refusal :=
  whenOk (regSt s d == .lost && s.boot.phase == .running) (startWarm d b) s

/-- A start is not completed within 2 s of the mask ROM's first step (R427). -/
def lateSince (s : State) (a : BitVec 64) : Bool := decide (a.toNat + 2000000000 ≤ (tbOf s (keyDie s)).toNat)

/-- A start or the warm reset of a die is late (R427). -/
def bootLate (s : State) : Bool :=
  (s.boot.phase == .starting && lateSince s s.boot.since) || s.boot.warm.any fun p => lateSince s p.2

/-- The late start has failed with reason 0x06: the package's, or that of a die, which stays behind its fence (R427). -/
def failStart (s : State) : State :=
  if s.boot.phase == .starting then { s with boot := { s.boot with phase := .failed, reason := 6, auth := false } }
  else
    let late := s.boot.warm.filter fun p => lateSince s p.2
    let s := { s with boot := { s.boot with reason := 6, warm := s.boot.warm.filter fun p => !lateSince s p.2 } }
    late.foldl (fun s p => modDie s p.1 fun y => { y with fenced := true }) s

/-- BOOT_TIMEOUT (R427). -/
def execBootTimeout (s : State) : Host.Outcome State Fault Refusal := whenOk (bootLate s) failStart s

/-- The attestation report: the measurements, signed with both identity keys (R426; log entry 78). -/
def attestation (s : State) : List (BitVec 384) × List (BitVec 8) × List (BitVec 8) :=
  (s.boot.measured, Config.identitySigns 0 s.boot.measured, Config.identitySigns 1 s.boot.measured)

/-! ### What firmware sets (R319, R321, R337, R426, R445, R446) -/

/-- The root's composed table: device memory of every package's dies and the package's own host space, each at its physical address (log entry 11). -/
def rootRanges (pkg : Fin 4) : List Range :=
  ((List.range 4).flatMap fun p =>
    ⟨BitVec.ofNat 34 (p * 2 ^ 32), BitVec.ofNat 34 (p * 2 ^ 32), BitVec.ofNat 34 (2 ^ 19), true, true, true⟩ ::
      (if p = pkg.val then [⟨BitVec.ofNat 34 (p * 2 ^ 32 + 2 ^ 30), BitVec.ofNat 34 (p * 2 ^ 32 + 2 ^ 30), BitVec.ofNat 34 (2 ^ 30), true, true, true⟩] else []))

/-- The root's core map: the cores of the dies that are in service. -/
def rootCores (s : State) : List MapEntry :=
  renumber ((allDies.filter fun d => serves s d).flatMap fun d => (coresOf d).map fun c => ⟨c, 0, BitVec.ofNat 6 c.core.val⟩)

/-- Placement set s holds die (s + k) mod 4 in slot k (R446). -/
def bootSet (ps : Fin 4) : PSet := ⟨0x400000000, 0x100000000, Vector.ofFn fun k : Fin 4 => ⟨slotOrigin ps k, false, 0⟩⟩

/-- A system act of the root, as firmware does it. -/
def asRoot (f : State → State) (s : State) : State :=
  let t := f { s with ctx := { s.ctx with dom := 0 }, frame := none }
  { t with ctx := { t.ctx with dom := s.ctx.dom }, frame := s.frame }

/-- A grant that is refused changes nothing. -/
def grantOr (r : Except Nat (State × Word)) (s : State) : State :=
  match r with
  | .ok (t, _) => t
  | .error _ => s

/-- Grants one core of the root's to a partition. -/
def giveCore (w : Word) (s : State) (c : CoreId) : State :=
  match virtOf s 0 c with
  | none => s
  | some m => grantOr (grantCore s w (BitVec.ofNat 64 (2 ^ m.vcore.toNat)) (m.vdie.setWidth 64)) s

/-- A range that firmware may hand to a domain: of device memory, only storage offsets below the hinge mirror areas and the remap reserve, which
begin at 0x5_4000_0000 (R426, R446). -/
def handable (r : PartRange) : Bool :=
  decide (2 ^ 30 ≤ r.pbase.toNat % 2 ^ 32) || decide (r.pbase.toNat % 2 ^ 17 + r.count.toNat ≤ 0x15000)

/-- Grants one range that may be handed out. -/
def giveRange (w : Word) (s : State) (r : PartRange) : State :=
  if !handable r then s
  else grantOr (grantRange s w [(r.dbase.setWidth 64 <<< 18) ||| r.perm.setWidth 64, r.pbase.setWidth 64 <<< 18, r.count.setWidth 64 <<< 18, 0]) s

def partShare (p : PartEntry) : BitVec 32 := p.eshare.getD 0x07FFFFFF

/-- Creates one partition: DNEW, then its cores, ranges, VFs and budget, and its limits (R348, R445). -/
def makePart (s : State) (p : PartEntry) : State :=
  let w := p.iw.getD 128
  let b := p.bw.getD 128
  match newDomain s [p.ptroot.setWidth 64 <<< 13, p.supcb.setWidth 64, (b ++ w).setWidth 64, (partShare p).setWidth 64, p.tbofs] with
  | .error _ => s
  | .ok (s, id) =>
    let s := p.cores.foldl (giveCore id) s
    let s := p.ranges.foldl (giveRange id) s
    let s := p.vfs.foldl (fun s v => grantOr (grantVf s id (BitVec.ofNat 64 v.val)) s) s
    let s := grantOr (grantBud s id ((b ++ w).setWidth 64) ((partShare p).setWidth 64)) s
    modDom s (id.setWidth 12) fun y =>
      { y with lim := ⟨((p.opmax.map fun v => BitVec.ofNat 3 v.val).getD Limits.default.opmax), p.slew.getD Limits.default.slew,
                       p.bcap.getD Limits.default.bcap, p.wdlim.getD Limits.default.wdlim⟩ }

/-- The image's table keeps the root's energy share (R323, R445), names at most 32 partitions (R329), and keeps SLEW in its range (R348). -/
def partsGood (parts : List PartEntry) : Bool :=
  decide (parts.length ≤ 32) && decide ((parts.map fun p => (partShare p).toNat).sum ≤ 0xFFFFFFFF)
    && parts.all fun p => decide (256 ≤ p.slew.getD Limits.default.slew) && decide (p.slew.getD Limits.default.slew ≤ 7936)

/-- What firmware does before it clears the counter. -/
def completeStart (parts : List PartEntry) (s : State) : State :=
  let root := { Dom.root with comp := rootRanges s.pkg, cores := rootCores s }
  let s := { s with doms := [((0 : BitVec 12), root)], psets := Vector.ofFn bootSet, vfb := [], vfr := [],
                    ruleKeys := Vector.ofFn fun k : Fin 8 => Config.ruleKey k.val }
  let s := asRoot (fun s => parts.foldl makePart s) s
  { s with boot := { s.boot with tries := Vector.replicate 2 0, phase := .running } }

/-- START_COMPLETE (R426, R445, R446). -/
def execStartComplete (parts : List PartEntry) (s : State) : Host.Outcome State Fault Refusal :=
  whenOk (s.boot.phase == .starting && partsGood parts) (completeStart parts) s

end Sys2Proof.Machine
end

