-- ==== Sys2Proof/Machine/Crossbar.lean ====
section
/-! DEFINITION. Crossbar instructions (spec/07 R170 to R172). -/

namespace Sys2Proof.Machine

/-- The element width in bits and the element count. -/
def XB.eb (o : XB) : Nat := 8 * esBytes o.es
def XB.count (o : XB) : Nat := 1024 / XB.eb o

/-- Element j of a source. -/
def State.xe (s : State) (o : XB) (n : BitVec 5) (j : Nat) : Nat := elemAt (s.vv n).toNat (XB.eb o) j

/-- Writes the elements of vd that a predicate names (R115). -/
def State.xbPutAt (s : State) (o : XB) (p : PReg) (l : List Nat) : State :=
  s.setV o.vd (wroteWord p (esBytes o.es) (XB.count o)) (BitVec.ofNat 1024 (packElems (XB.eb o) l))

/-- Writes every element of vd. -/
def State.xbPut (s : State) (o : XB) (l : List Nat) : State := s.xbPutAt o (BitVec.allOnes 128) l

/-- Writes the active elements of vd; the others keep it, or read zero when it was dead (R170). -/
def State.xbWrite (s : State) (o : XB) (f : Nat → Nat) : State :=
  s.xbPutAt o (s.pv o.pg) ((List.range (XB.count o)).map fun j =>
    if active (s.pv o.pg) (esBytes o.es) j then f j else elemAt (s.oldV o.vd).toNat (XB.eb o) j)

/-- S[s] + imm11 modulo E (R171). -/
def xbAmount (s : State) (o : XB) : Nat := ((s.sv o.xi).toNat + o.imm.toNat) % XB.count o

/-- The index that element j of B gives (R171). -/
def xbIndex (s : State) (o : XB) (j : Nat) : Nat := s.xe o o.xi j % XB.count o

/-- XPERM, gather (R171). -/
def execXperm (o : XB) (s : State) : Host.Outcome State Fault Refusal :=
  asSlot (.xperm o) (fun s => ((s.useV .x o.va false).useV .x o.xi false).xbWrite o fun j => s.xe o o.va (xbIndex s o j)) s

/-- The active sources of a destination element, ascending (R172). -/
def scatSources (s : State) (o : XB) (d : Nat) : List Nat :=
  (List.range (XB.count o)).filter fun j => active (s.pv o.pg) (esBytes o.es) j && xbIndex s o j == d

/-- XPERM, scatter: two sources of one destination collide (R172). Where more than two target the lowest colliding element, the two lowest are reported,
the lower one in [14:8] (DESIGN CHOICE, log entry 79). -/
def scatEffect (o : XB) (s : State) : State :=
  let src := (List.range (XB.count o)).map (scatSources s o)
  let l := src.zipIdx.map fun p => match p.1 with
    | j :: _ => s.xe o o.va j
    | [] => elemAt (s.oldV o.vd).toNat (XB.eb o) p.2
  let hit : PReg := BitVec.ofNat 128 (packPred (esBytes o.es) (src.map fun p => !p.isEmpty))
  let w := ((s.useV .x o.va false).useV .x o.xi false).xbPutAt o hit l
  match src.zipIdx.findSome? fun p => match p.1 with
    | a :: b :: _ => some (p.2, a, b)
    | _ => none with
  | some (d, a, b) => w.raise .x (precise cLaneCollision [BitVec.ofNat 64 (d + 256 * a + 65536 * b)])
  | none => w

/-- XPERM, scatter (R172). -/
def execXpermScat (o : XB) (s : State) : Host.Outcome State Fault Refusal := asSlot (.xpermScat o) (scatEffect o) s

/-- XROT (R171). -/
def execXrot (o : XB) (s : State) : Host.Outcome State Fault Refusal :=
  asSlot (.xrot o) (fun s => (s.useV .x o.va false).xbWrite o fun j =>
    s.xe o o.va ((j + XB.count o - xbAmount s o) % XB.count o)) s

/-- XZIP (R171). -/
def execXzip (o : XB) (s : State) : Host.Outcome State Fault Refusal :=
  asSlot (.xzip o) (fun s => ((s.useV .x o.va false).useV .x o.xi false).xbWrite o fun j =>
    let h := if o.imm.getLsbD 0 then XB.count o / 2 else 0
    if j % 2 = 0 then s.xe o o.va (j / 2 + h) else s.xe o o.xi ((j - 1) / 2 + h)) s

/-- XUNZIP (R171). -/
def execXunzip (o : XB) (s : State) : Host.Outcome State Fault Refusal :=
  asSlot (.xunzip o) (fun s => ((s.useV .x o.va false).useV .x o.xi false).xbWrite o fun j =>
    let k := 2 * j + if o.imm.getLsbD 0 then 1 else 0
    if k < XB.count o then s.xe o o.va k else s.xe o o.xi (k - XB.count o)) s

/-- XBCST (R171). -/
def execXbcst (o : XB) (s : State) : Host.Outcome State Fault Refusal :=
  asSlot (.xbcst o) (fun s => (s.useV .x o.va false).xbWrite o fun _ => s.xe o o.va (xbAmount s o)) s

/-- The active elements, ascending. -/
def xbActive (s : State) (o : XB) : List Nat := (List.range (XB.count o)).filter fun j => active (s.pv o.pg) (esBytes o.es) j

/-- XCMPR (R171): every element is written. -/
def execXcmpr (o : XB) (s : State) : Host.Outcome State Fault Refusal :=
  asSlot (.xcmpr o) (fun s => (s.useV .x o.va false).xbPut o ((xbActive s o).map (s.xe o o.va))) s

/-- XEXPD (R171): every element is written. -/
def execXexpd (o : XB) (s : State) : Host.Outcome State Fault Refusal :=
  asSlot (.xexpd o) (fun s => (s.useV .x o.va false).xbPut o ((List.range (XB.count o)).map fun j =>
    if active (s.pv o.pg) (esBytes o.es) j then s.xe o o.va (((xbActive s o).filter fun k => k < j).length) else 0)) s

end Sys2Proof.Machine
end

