-- ==== Sys2Proof/Machine/Engines.lean ====
section
/-! DEFINITION. Matrix and accumulator instructions at issue (spec/10 R237, R238, R245, R248 to R256; spec/12 R289, R290). -/

namespace Sys2Proof.Machine

/-- TSCALE (R250): k is formed from the scalar read at issue. -/
def execTscale (o : TX) (s : State) : Host.Outcome State Fault Refusal := asSlot (.tscale o) (fun s => s.tIssue (s.sv o.x)) s

/-- TSCALE in its form that sets the block-scale mark (R241). -/
def execTscaleBs (o : TX) (s : State) : Host.Outcome State Fault Refusal := asSlot (.tscaleBs o) (fun s => s.tIssue 0) s

/-- TSCALE in its form that clears the block-scale mark (R241). -/
def execTscaleNobs (o : TX) (s : State) : Host.Outcome State Fault Refusal := asSlot (.tscaleNobs o) (fun s => s.tIssue 0) s

/-- The block-scale mark that a tile will have when an entry reaches it: earlier TALLOCs of the window clear it, earlier TSCALEs in the mark forms
set or clear it (R241, R250). -/
def blockScaled (s : State) (before : List Entry) (r : Option TRef) : Bool :=
  (before.filter fun f => f.td.isSome && f.td == r && (f.op == 1 || (f.op == 0x0C && f.ta.isNone))).foldl (fun _ f => f.op != 1 && f.fn.extractLsb' 7 2 == 1)
    (((entryTile s s.cur r).map Tile.bs).getD false)

/-- The tile that an operand will name when an entry reaches it: that of the last earlier TALLOC of the window, or the one that it names now. -/
def tileAhead (s : State) (before : List Entry) (r : Option TRef) : Option Tile :=
  match (before.filter fun f => f.op == 1 && f.td.isSome && f.td == r).getLast? with
  | some f => some (allocTile s.src f.slot 0)
  | none => entryTile s s.cur r

/-- The scales that an MMA of the window will still draw (R241, R242). -/
def willDraw (s : State) (win : List Entry) (e : Entry) : Nat :=
  let before := earlier win e.n
  let scaled (r mark : Option TRef) : Nat := if blockScaled s before (mark <|> r) then 32 else 0
  match tileAhead s before e.ta with
  | none => 0
  | some a => (a.kBlocks - e.prog) * (scaled e.ta e.marka + scaled e.tb e.markb)

/-- Scales queued and to come, less what the earlier MMAs draw (R291). -/
def scaleLoad (s : State) : Int :=
  let win := s.src.win
  let sum (l : List Nat) : Int := ((l.sum : Nat) : Int)
  (s.src.scq.length : Int) + sum ((win.filter fun e => e.op == 0x0D).map Entry.scaleCount) - sum ((win.filter fun e => e.op == 0x10).map (willDraw s win))

/-- The number of scales of a TSQLD in the slot. -/
def slotScales (w : SlotBits) : Nat := (w.extractLsb' 0 9).toNat + 1

/-- TSQLD's checks of R290, then the imbalance of R291, precise at issue. -/
def tsqldEffect (o : TX) (s : State) : State :=
  let n := slotScales (s.slotVal .t)
  let load := scaleLoad s
  if 16 ≤ s.src.win.length || (firstBad (s.tChecks (s.sv o.x))).isSome || load + n ≤ 512 then s.tIssue (s.sv o.x)
  else s.raise .t (precise cScaleQueue [BitVec.ofNat 64 (n + 65536 * (512 - load).toNat)])

/-- TSQLD (R290): the first scale's index is read at issue. -/
def execTsqld (o : TX) (s : State) : Host.Outcome State Fault Refusal := asSlot (.tsqld o) (tsqldEffect o) s

/-- An MMA whose context has no energy budget does not issue (R245, R366). -/
def mmaEffect (s : State) : State := if s.src.ebud = 0 then (s.stick (.throttle .energy)).unissue else s.tIssue 0

/-- MMA (R237, R238). -/
def execMma (o : MM) (s : State) : Host.Outcome State Fault Refusal := asSlot (.mma o) mmaEffect s

/-- ACLR (R248). -/
def execAclr (o : TQ) (s : State) : Host.Outcome State Fault Refusal := asSlot (.aclr o) (fun s => s.tIssue 0) s

/-- ASETQ (R248). -/
def execAsetq (o : TQ) (s : State) : Host.Outcome State Fault Refusal := asSlot (.asetq o) (fun s => s.tIssue 0) s

/-- ACVT (R251). -/
def execAcvt (o : TX) (s : State) : Host.Outcome State Fault Refusal := asSlot (.acvt o) (fun s => s.tIssue 0) s

/-- AADDT (R249). -/
def execAaddt (o : TX) (s : State) : Host.Outcome State Fault Refusal := asSlot (.aaddt o) (fun s => s.tIssue 0) s

/-- ACHK (R252). -/
def execAchk (o : TX) (s : State) : Host.Outcome State Fault Refusal := asSlot (.achk o) (fun s => s.tIssue 0) s

/-- AFIX (R254). -/
def execAfix (o : TX) (s : State) : Host.Outcome State Fault Refusal := asSlot (.afix o) (fun s => s.tIssue 0) s

end Sys2Proof.Machine
end

