-- ==== Sys2Proof/Machine/HostIf.lean ====
section
/-! DEFINITION. The host's functions: registers of the virtual functions and of the physical function, submission queues, release, counters
(spec/12 R301 to R303; spec/16 R412; spec/17 R419 to R421). -/

namespace Sys2Proof.Machine

/-! ### Virtual functions (R301, R420) -/

def vfRegs (s : State) (v : Fin 1024) : VfRegs := tabGet s.vfr v VfRegs.reset
def putVf (s : State) (v : Fin 1024) (r : VfRegs) : State := { s with vfr := tabPut s.vfr v r }

/-- A port carries host requests and the package runs. -/
def hostUp (s : State) : Bool := s.boot.phase == .running && (hostPort s).isSome

/-- The die whose command sequencer serves a VF (R8, R420). -/
def vfDie (s : State) (v : Fin 1024) : Option (Fin 4) :=
  let d := fin4 (v.val / 256)
  [d, dieAfter d 1, dieAfter d 2, dieAfter d 3].find? fun d => isLive s d && !(dieAt s d).fenced

/-- An error is recorded; the VF's vector is signalled when ERR goes from 0 to 1 (R301, R420). -/
def vfError (s : State) (v : Fin 1024) (code : BitVec 8) : State :=
  let r := vfRegs s v
  let s := putVf s v { r with code := code, err := true }
  if r.err then s else { s with outbox := s.outbox ++ [.msix v] }

/-- Entries of a ring. -/
def ringSize (r : VfRegs) : Nat := 2 ^ (r.lsz.toNat + 6)

/-- Writes SQBASE. -/
def putSqbase (v : Fin 1024) (w : BitVec 64) (s : State) : State :=
  let r := vfRegs s v
  if r.en then vfError s v 0x21 else putVf s v { r with base := w.extractLsb' 12 52 }

/-- Writes SQCFG. -/
def putSqcfg (v : Fin 1024) (w : BitVec 64) (s : State) : State :=
  let r := vfRegs s v
  let lsz : BitVec 4 := w.setWidth 4
  let en := w.getLsbD 8
  if 7 ≤ lsz.toNat then vfError s v 0x22
  else if r.en && lsz != r.lsz then vfError s v 0x21
  else if r.en && !en then putVf s v { r with en := false, lsz := lsz, head := 0, tail := 0, stall := false }
  else putVf s v { r with en := en, lsz := lsz }

/-- Writes SQTAIL. -/
def putSqtail (v : Fin 1024) (w : BitVec 64) (s : State) : State :=
  let r := vfRegs s v
  let t : BitVec 12 := w.setWidth 12
  if ringSize r ≤ t.toNat then vfError s v 0x20 else putVf s v { r with tail := t }

/-- Writes SQSTAT: a 1 clears ERR. -/
def putSqstat (v : Fin 1024) (w : BitVec 64) (s : State) : State :=
  let r := vfRegs s v
  if w.getLsbD 0 then putVf s v { r with err := false } else s

/-- SQBASE_WRITE (R301). -/
def execSqbaseWrite (v : Fin 1024) (w : BitVec 64) (s : State) : Host.Outcome State Fault Refusal := whenOk (hostUp s) (putSqbase v w) s

/-- SQCFG_WRITE (R301). -/
def execSqcfgWrite (v : Fin 1024) (w : BitVec 64) (s : State) : Host.Outcome State Fault Refusal := whenOk (hostUp s) (putSqcfg v w) s

/-- SQTAIL_WRITE (R301). -/
def execSqtailWrite (v : Fin 1024) (w : BitVec 64) (s : State) : Host.Outcome State Fault Refusal := whenOk (hostUp s) (putSqtail v w) s

/-- SQSTAT_WRITE (R301). -/
def execSqstatWrite (v : Fin 1024) (w : BitVec 64) (s : State) : Host.Outcome State Fault Refusal := whenOk (hostUp s) (putSqstat v w) s

/-! ### Submission (R143, R302, R303) -/

/-- Word k of a submission entry. -/
def qWord (q : BitVec 512) (k : Nat) : Word := q.extractLsb' (64 * k) 64

def qOpc (q : BitVec 512) : BitVec 8 := (qWord q 0).setWidth 8

/-- A reserved bit or opcode. -/
def qReserved (q : BitVec 512) : Bool :=
  (qWord q 0).extractLsb' 8 24 != 0 || 2 < (qOpc q).toNat || (qWord q 3).extractLsb' 15 49 != 0
    || [4, 5, 6, 7].any (fun k => qWord q k != 0) || (qOpc q == 2 && (qWord q 3).extractLsb' 0 2 != 0)

/-- What carrying an entry out gives: the state and the code; none while a page of the record migrates. -/
def carryOut (s : State) (dom : BitVec 12) (q : BitVec 512) : Option (State × Nat) :=
  if qReserved q then some (s, 0x10)
  else if qOpc q == 1 then
    let a := qWord q 1
    if a.extractLsb' 0 6 != 0 then some (s, 0x11)
    else match readRecord s dom a with
      | .bad s => some (s, 0x11)
      | .wait _ => none
      | .ok l s => some (submit s dom (recVec l) a none none)
  else if qOpc q == 2 then
    let w := qWord q 3
    match physOf s dom (w.extractLsb' 13 2) (w.extractLsb' 7 6) with
    | some c => some (postFlag s ⟨c, fin32 (w.extractLsb' 2 5).toNat⟩ 1, 0)
    | none => some (s, 0x13)
  else some (s, 0)

/-- The entry is taken: HEAD advances, and a non-zero code is recorded. -/
def takeEntry (s : State) (v : Fin 1024) (code : Nat) : State :=
  let r := vfRegs s v
  let s := putVf s v { r with head := BitVec.ofNat 12 ((r.head.toNat + 1) % ringSize r), stall := false }
  if code = 0 then s else vfError s v (BitVec.ofNat 8 code)

/-- The status of an entry, posted to the host. -/
def postStatus (s : State) (d : Fin 4) (dom : BitVec 12) (q : BitVec 512) (code : Nat) : State :=
  let a := qWord q 2
  if a == 0 then s
  else
    let w : Word := (qWord q 0).extractLsb' 32 32 ++ BitVec.ofNat 32 code
    { s with outbox := s.outbox ++ [.hostWrite a 16 ((tbView s d dom).toNat * 2 ^ 64 + w.toNat)] }

/-- One service slot of a VF whose ring's head holds q. -/
def serveEntry (v : Fin 1024) (d : Fin 4) (q : BitVec 512) (s : State) : State :=
  let dom := (vfBind s v).dom
  if (qWord q 2).extractLsb' 0 4 != 0 then takeEntry s v 0x14
  else if dom = 0 then takeEntry (postStatus s d dom q 0x12) v 0x12
  else match carryOut s dom q with
    | none => s
    | some (s, code) =>
      if code = 10 then putVf s v { vfRegs s v with stall := true } else takeEntry (postStatus s d dom q code) v code

/-- A VF has an entry to serve. -/
def vfPending (s : State) (v : Fin 1024) : Bool := hostUp s && (vfRegs s v).en && (vfRegs s v).head != (vfRegs s v).tail

/-- SUBMISSION_SERVICE (R302, R303). -/
def execSubmissionService (v : Fin 1024) (q : BitVec 512) (s : State) : Host.Outcome State Fault Refusal :=
  match vfDie s v with
  | none => .next s
  | some d => whenOk (vfPending s v) (serveEntry v d q) s

/-! ### The physical function (R412, R419, R421) -/

/-- The physical function answers: recovery firmware brings it up as well (R427). -/
def pfUp (s : State) : Bool := (s.boot.phase == .running || s.boot.phase == .recovery) && (hostPort s).isSome

/-- Writes RELEASE: a held die becomes lost. -/
def putRelease (w : BitVec 64) (size : Nat) (s : State) : State :=
  let d := fin4 (w.setWidth 2 : BitVec 2).toNat
  if size = 8 && w.extractLsb' 16 48 == (0xD1E50C1A55ED : BitVec 48) && w.extractLsb' 2 14 == (0 : BitVec 14) && regSt s d == .held then
    declareLost s d 8
  else s

/-- RELEASE_WRITE (R412, R421). -/
def execReleaseWrite (w : BitVec 64) (size : Nat) (s : State) : Host.Outcome State Fault Refusal := whenOk (pfUp s) (putRelease w size) s

/-- Writes ERRCNT: 0 in 4 bytes clears the counter; the block of a lost die ignores writes. -/
def putErrcnt (d : Fin 4) (k : Fin 18) (w : BitVec 32) (size : Nat) (s : State) : State :=
  if size = 4 && w == 0 && regSt s d != .lost then modDie s d fun y => { y with err := y.err.set k.val 0 } else s

/-- ERRCNT_WRITE (R369, R421). -/
def execErrcntWrite (d : Fin 4) (k : Fin 18) (w : BitVec 32) (size : Nat) (s : State) : Host.Outcome State Fault Refusal :=
  whenOk (pfUp s) (putErrcnt d k w size) s

/-- An 8-byte write to a function's BAR: a named register that can be written is written, all else is ignored. -/
def putRegister (fn : HostFn) (off : BitVec 16) (w : BitVec 64) (s : State) : State :=
  match fn with
  | .vf v =>
    if !hostUp s then s
    else if off = 0x00 then putSqbase v w s
    else if off = 0x08 then putSqcfg v w s
    else if off = 0x10 then putSqtail v w s
    else if off = 0x20 then putSqstat v w s
    else s
  | .pf => if pfUp s && off == 0x40 then putRelease w 8 s else s

/-- REGISTER_WRITE (R420, R421). -/
def execRegisterWrite (fn : HostFn) (off : BitVec 16) (w : BitVec 64) (s : State) : Host.Outcome State Fault Refusal := .next (putRegister fn off w s)

/-- UNSUPPORTED_REQUEST (R419). -/
def execUnsupportedRequest (tag : Nat) (s : State) : Host.Outcome State Fault Refusal := .next { s with outbox := s.outbox ++ [.unsupported tag] }

/-! ### What the host reads (R301, R420, R421) -/

/-- SQSTAT as a word. -/
def sqstatWord (r : VfRegs) : Word := (r.code ++ (0 : BitVec 6) ++ BitVec.ofBool r.stall ++ BitVec.ofBool r.err).setWidth 64

/-- A VF's registers, by offset. -/
def vfRead (s : State) (v : Fin 1024) (off : Nat) : Word :=
  let r := vfRegs s v
  match off with
  | 0x00 => r.base ++ (0 : BitVec 12)
  | 0x08 => (BitVec.ofBool r.en ++ (0 : BitVec 4) ++ r.lsz).setWidth 64
  | 0x10 => r.tail.setWidth 64
  | 0x18 => r.head.setWidth 64
  | 0x20 => sqstatWord r
  | _ => 0

/-- The registers of the PF with their offsets and widths in bytes. -/
def pfRegs (s : State) : List (Nat × Nat × Nat) :=
  [(0x0000, 8, 65536 * s.boot.step.toNat + 0x4896),
   (0x0008, 8, (BitVec.ofBool s.boot.auth ++ BitVec.ofBool s.boot.recov ++ s.boot.triesReg ++ s.boot.reason).toNat)]
    ++ allDies.flatMap fun d =>
      let y := dieAt s d
      [(0x100 + 16 * d.val, 16, (entryOf s d).bits.toNat)]
        ++ ((List.finRange 18).map fun k => (0x1000 + 0x100 * d.val + 4 * k.val, 4, (y.err[k.val]).toNat))
        ++ [(0x1080 + 0x100 * d.val, 32, ((y.req.toList.zipIdx.map fun p => p.1.toNat * 2 ^ (64 * p.2)).sum)),
            (0x10A0 + 0x100 * d.val, 20, ((y.stc.toList.zipIdx.map fun p => p.1.toNat * 2 ^ (32 * p.2)).sum))]

/-- An offset in the block of a lost die. -/
def lostBlock (s : State) (off : Nat) : Bool := allDies.any fun d => decide (off / 256 = 16 + d.val) && regSt s d == .lost

/-- The byte at an offset of the PF's BAR; the block of a lost die reads as all ones (R421). -/
def pfByte (s : State) (off : Nat) : Nat :=
  if lostBlock s off then 255
  else match (pfRegs s).find? fun r => decide (r.1 ≤ off) && decide (off < r.1 + r.2.1) with
  | some r => r.2.2 / 2 ^ (8 * (off - r.1)) % 256
  | none => 0

/-- A naturally aligned read of 4 or 8 bytes of the PF's BAR. -/
def pfRead (s : State) (off size : Nat) : Nat := ((List.range size).map fun k => pfByte s (off + k) * 2 ^ (8 * k)).sum

end Sys2Proof.Machine
end

