-- ==== Sys2Proof/Machine/Pred.lean ====
section
/-! DEFINITION. Predicate instructions (spec/06 R136, R137). -/

namespace Sys2Proof.Machine

/-- A predicate instruction that writes one predicate. -/
def predOp (i : Instr) (pd : BitVec 4) (v : State → PReg) (s : State) : Host.Outcome State Fault Refusal :=
  asSlot i (fun s => s.setP pd (v s)) s

/-- PAND (R136). -/
def execPand (o : PR) (s : State) : Host.Outcome State Fault Refusal :=
  predOp (.pand o) o.pd (fun s => s.pv o.pa &&& s.pv o.pb) s

/-- POR (R136). -/
def execPor (o : PR) (s : State) : Host.Outcome State Fault Refusal :=
  predOp (.por o) o.pd (fun s => s.pv o.pa ||| s.pv o.pb) s

/-- PXOR (R136). -/
def execPxor (o : PR) (s : State) : Host.Outcome State Fault Refusal :=
  predOp (.pxor o) o.pd (fun s => s.pv o.pa ^^^ s.pv o.pb) s

/-- PNOT (R136, R137). -/
def execPnot (o : PR) (s : State) : Host.Outcome State Fault Refusal :=
  predOp (.pnot o) o.pd (fun s => ~~~(s.pv o.pa)) s

/-- The elements of b bytes in a predicate (R136). -/
def predElems (es : BitVec 2) : Nat := 128 / esBytes es

/-- The first elements true, up to a count (R136). -/
def firstElems (es : BitVec 2) (n : Word) : PReg :=
  BitVec.ofNat 128 (packPred (esBytes es) ((List.range (predElems es)).map fun j => decide (j < n.toNat)))

/-- PSETN (R136, R137). -/
def execPsetn (o : PR) (s : State) : Host.Outcome State Fault Refusal :=
  predOp (.psetn o) o.pd (fun s => firstElems o.es (s.sv o.s)) s

/-- The elements active in both predicates (R136, R137). -/
def bothActive (es : BitVec 2) (a b : PReg) : List Nat :=
  (List.range (predElems es)).filter fun j => active a (esBytes es) j && active b (esBytes es) j

/-- PCNT (R136). -/
def execPcnt (o : PR) (s : State) : Host.Outcome State Fault Refusal :=
  asSlot (.pcnt o) (fun s => s.setS o.s (BitVec.ofNat 64 (bothActive o.es (s.pv o.pa) (s.pv o.pb)).length)) s

/-- PFIRST (R136). -/
def execPfirst (o : PR) (s : State) : Host.Outcome State Fault Refusal :=
  asSlot (.pfirst o) (fun s => s.setS o.s (BitVec.ofNat 64 ((bothActive o.es (s.pv o.pa) (s.pv o.pb)).headD (predElems o.es)))) s

end Sys2Proof.Machine
end

