-- ==== Sys2Proof/Machine/Scalar.lean ====
section
/-! DEFINITION. Scalar integer instructions (spec/06 R123 to R130). -/

namespace Sys2Proof.Machine

/-- A scalar instruction that writes one value. -/
def scalarOp (i : Instr) (sd : BitVec 5) (v : State → Word) (s : State) : Host.Outcome State Fault Refusal :=
  asSlot i (fun s => s.setS sd (v s)) s

/-- sext(imm22, 64). -/
def imm22 (b : BitVec 22) : Word := b.signExtend 64

/-- The shift amount of R126. -/
def shiftReg (w : Word) : Nat := (w.extractLsb' 0 6).toNat
def shiftImm (b : BitVec 22) : Nat := (b.extractLsb' 0 6).toNat

/-- The 128-bit product's upper half, signed reading (R127). -/
def mulHigh (a b : Word) : Word := (a.signExtend 128 * b.signExtend 128).extractLsb' 64 64
/-- The same, unsigned reading. -/
def mulHighU (a b : Word) : Word := (a.setWidth 128 * b.setWidth 128).extractLsb' 64 64

/-- Quotient and remainder of R128, signed reading. -/
def divSigned (a b : Word) : Word := if b = 0 then BitVec.allOnes 64 else BitVec.ofInt 64 (a.toInt.tdiv b.toInt)
def remSigned (a b : Word) : Word := if b = 0 then a else BitVec.ofInt 64 (a.toInt.tmod b.toInt)
/-- Quotient and remainder of R128, unsigned reading. -/
def divUnsigned (a b : Word) : Word := if b = 0 then BitVec.allOnes 64 else BitVec.ofNat 64 (a.toNat / b.toNat)
def remUnsigned (a b : Word) : Word := if b = 0 then a else BitVec.ofNat 64 (a.toNat % b.toNat)

/-- Zero bits of a word above its highest one bit, among its lowest `n` bits (R129). -/
def leadingZeros (w : Word) : Nat → Nat
  | 0 => 0
  | n + 1 => if w.getLsbD n then 0 else 1 + leadingZeros w n

/-- Zero bits below the lowest one bit, among the highest `n` bits. -/
def trailingZeros (w : Word) : Nat → Nat
  | 0 => 0
  | n + 1 => if w.getLsbD (63 - n) then 0 else 1 + trailingZeros w n

/-- One bits among the lowest `n` bits. -/
def onesIn (w : Word) : Nat → Nat
  | 0 => 0
  | n + 1 => (if w.getLsbD n then 1 else 0) + onesIn w n

/-- A comparison as a word. -/
def flagWord (b : Bool) : Word := if b then 1 else 0

/-- sext of the low b bits (R130). -/
def sextLow (w : Word) (b : Nat) : Word := BitVec.ofInt 64 (intOf b w.toNat)

/-- MOVK's insert (R130). -/
def insert16 (w : Word) (pos : Nat) (v : BitVec 16) : Word :=
  (w &&& ~~~((0xFFFF : Word) <<< (16 * pos))) ||| (v.setWidth 64 <<< (16 * pos))


/-- ADD (R125). -/
def execAdd (sl : CS) (o : RR) (s : State) : Host.Outcome State Fault Refusal :=
  scalarOp (.add sl o) o.sd (fun s => s.sv o.sa + s.sv o.sb) s

/-- SUB (R125). -/
def execSub (sl : CS) (o : RR) (s : State) : Host.Outcome State Fault Refusal :=
  scalarOp (.sub sl o) o.sd (fun s => s.sv o.sa - s.sv o.sb) s

/-- AND (R125). -/
def execAnd (sl : CS) (o : RR) (s : State) : Host.Outcome State Fault Refusal :=
  scalarOp (.and sl o) o.sd (fun s => s.sv o.sa &&& s.sv o.sb) s

/-- OR (R125). -/
def execOr (sl : CS) (o : RR) (s : State) : Host.Outcome State Fault Refusal :=
  scalarOp (.or sl o) o.sd (fun s => s.sv o.sa ||| s.sv o.sb) s

/-- XOR (R125). -/
def execXor (sl : CS) (o : RR) (s : State) : Host.Outcome State Fault Refusal :=
  scalarOp (.xor sl o) o.sd (fun s => s.sv o.sa ^^^ s.sv o.sb) s

/-- MIN (R125): signed reading. -/
def execMin (sl : CS) (o : RR) (s : State) : Host.Outcome State Fault Refusal :=
  scalarOp (.min sl o) o.sd (fun s => if (s.sv o.sa).slt (s.sv o.sb) then s.sv o.sa else s.sv o.sb) s

/-- MAX (R125): signed reading. -/
def execMax (sl : CS) (o : RR) (s : State) : Host.Outcome State Fault Refusal :=
  scalarOp (.max sl o) o.sd (fun s => if (s.sv o.sa).slt (s.sv o.sb) then s.sv o.sb else s.sv o.sa) s

/-- MINU (R125): unsigned reading. -/
def execMinu (sl : CS) (o : RR) (s : State) : Host.Outcome State Fault Refusal :=
  scalarOp (.minu sl o) o.sd (fun s => if (s.sv o.sa).ult (s.sv o.sb) then s.sv o.sa else s.sv o.sb) s

/-- MAXU (R125): unsigned reading. -/
def execMaxu (sl : CS) (o : RR) (s : State) : Host.Outcome State Fault Refusal :=
  scalarOp (.maxu sl o) o.sd (fun s => if (s.sv o.sa).ult (s.sv o.sb) then s.sv o.sb else s.sv o.sa) s

/-- SLT (R125). -/
def execSlt (sl : CS) (o : RR) (s : State) : Host.Outcome State Fault Refusal :=
  scalarOp (.slt sl o) o.sd (fun s => flagWord ((s.sv o.sa).slt (s.sv o.sb))) s

/-- SLTU (R125). -/
def execSltu (sl : CS) (o : RR) (s : State) : Host.Outcome State Fault Refusal :=
  scalarOp (.sltu sl o) o.sd (fun s => flagWord ((s.sv o.sa).ult (s.sv o.sb))) s

/-- SEL (R125). -/
def execSel (sl : CS) (o : RR) (s : State) : Host.Outcome State Fault Refusal :=
  scalarOp (.sel sl o) o.sd (fun s => if s.sv o.sc ≠ 0 then s.sv o.sa else s.sv o.sb) s

/-- ADDI (R125). -/
def execAddi (sl : CS) (o : RI) (s : State) : Host.Outcome State Fault Refusal :=
  scalarOp (.addi sl o) o.sd (fun s => s.sv o.sa + imm22 o.imm) s

/-- ANDI (R125). -/
def execAndi (sl : CS) (o : RI) (s : State) : Host.Outcome State Fault Refusal :=
  scalarOp (.andi sl o) o.sd (fun s => s.sv o.sa &&& imm22 o.imm) s

/-- ORI (R125). -/
def execOri (sl : CS) (o : RI) (s : State) : Host.Outcome State Fault Refusal :=
  scalarOp (.ori sl o) o.sd (fun s => s.sv o.sa ||| imm22 o.imm) s

/-- XORI (R125). -/
def execXori (sl : CS) (o : RI) (s : State) : Host.Outcome State Fault Refusal :=
  scalarOp (.xori sl o) o.sd (fun s => s.sv o.sa ^^^ imm22 o.imm) s

/-- SHL (R126). -/
def execShl (sl : CS) (o : RR) (s : State) : Host.Outcome State Fault Refusal :=
  scalarOp (.shl sl o) o.sd (fun s => s.sv o.sa <<< shiftReg (s.sv o.sb)) s

/-- SHLI (R126). -/
def execShli (sl : CS) (o : RI) (s : State) : Host.Outcome State Fault Refusal :=
  scalarOp (.shli sl o) o.sd (fun s => s.sv o.sa <<< shiftImm o.imm) s

/-- SHR (R126). -/
def execShr (sl : CS) (o : RR) (s : State) : Host.Outcome State Fault Refusal :=
  scalarOp (.shr sl o) o.sd (fun s => s.sv o.sa >>> shiftReg (s.sv o.sb)) s

/-- SHRI (R126). -/
def execShri (sl : CS) (o : RI) (s : State) : Host.Outcome State Fault Refusal :=
  scalarOp (.shri sl o) o.sd (fun s => s.sv o.sa >>> shiftImm o.imm) s

/-- SAR (R126). -/
def execSar (sl : CS) (o : RR) (s : State) : Host.Outcome State Fault Refusal :=
  scalarOp (.sar sl o) o.sd (fun s => (s.sv o.sa).sshiftRight (shiftReg (s.sv o.sb))) s

/-- SARI (R126). -/
def execSari (sl : CS) (o : RI) (s : State) : Host.Outcome State Fault Refusal :=
  scalarOp (.sari sl o) o.sd (fun s => (s.sv o.sa).sshiftRight (shiftImm o.imm)) s

/-- ROR (R126). -/
def execRor (sl : CS) (o : RR) (s : State) : Host.Outcome State Fault Refusal :=
  scalarOp (.ror sl o) o.sd (fun s => (s.sv o.sa).rotateRight (shiftReg (s.sv o.sb))) s

/-- MUL (R127). -/
def execMul (sl : CS) (o : RR) (s : State) : Host.Outcome State Fault Refusal :=
  scalarOp (.mul sl o) o.sd (fun s => s.sv o.sa * s.sv o.sb) s

/-- MULH (R127). -/
def execMulh (sl : CS) (o : RR) (s : State) : Host.Outcome State Fault Refusal :=
  scalarOp (.mulh sl o) o.sd (fun s => mulHigh (s.sv o.sa) (s.sv o.sb)) s

/-- MULHU (R127). -/
def execMulhu (sl : CS) (o : RR) (s : State) : Host.Outcome State Fault Refusal :=
  scalarOp (.mulhu sl o) o.sd (fun s => mulHighU (s.sv o.sa) (s.sv o.sb)) s

/-- DIV (R128). -/
def execDiv (sl : CS) (o : RR) (s : State) : Host.Outcome State Fault Refusal :=
  scalarOp (.div sl o) o.sd (fun s => divSigned (s.sv o.sa) (s.sv o.sb)) s

/-- DIVU (R128). -/
def execDivu (sl : CS) (o : RR) (s : State) : Host.Outcome State Fault Refusal :=
  scalarOp (.divu sl o) o.sd (fun s => divUnsigned (s.sv o.sa) (s.sv o.sb)) s

/-- REM (R128). -/
def execRem (sl : CS) (o : RR) (s : State) : Host.Outcome State Fault Refusal :=
  scalarOp (.rem sl o) o.sd (fun s => remSigned (s.sv o.sa) (s.sv o.sb)) s

/-- REMU (R128). -/
def execRemu (sl : CS) (o : RR) (s : State) : Host.Outcome State Fault Refusal :=
  scalarOp (.remu sl o) o.sd (fun s => remUnsigned (s.sv o.sa) (s.sv o.sb)) s

/-- CLZ (R129). -/
def execClz (sl : CS) (o : RR) (s : State) : Host.Outcome State Fault Refusal :=
  scalarOp (.clz sl o) o.sd (fun s => BitVec.ofNat 64 (leadingZeros (s.sv o.sa) 64)) s

/-- CTZ (R129). -/
def execCtz (sl : CS) (o : RR) (s : State) : Host.Outcome State Fault Refusal :=
  scalarOp (.ctz sl o) o.sd (fun s => BitVec.ofNat 64 (trailingZeros (s.sv o.sa) 64)) s

/-- POPC (R129). -/
def execPopc (sl : CS) (o : RR) (s : State) : Host.Outcome State Fault Refusal :=
  scalarOp (.popc sl o) o.sd (fun s => BitVec.ofNat 64 (onesIn (s.sv o.sa) 64)) s

/-- MOVI (R130). -/
def execMovi (sl : CS) (o : MI) (s : State) : Host.Outcome State Fault Refusal :=
  scalarOp (.movi sl o) o.sd (fun _ => o.imm.signExtend 64) s

/-- MOVK (R130): reads sd as it was before the bundle. -/
def execMovk (sl : CS) (o : MK) (s : State) : Host.Outcome State Fault Refusal :=
  scalarOp (.movk sl o) o.sd (fun s => insert16 (s.sv o.sd) o.pos.toNat o.imm) s

/-- SEXT (R130). -/
def execSext (sl : CS) (o : RI) (s : State) : Host.Outcome State Fault Refusal :=
  scalarOp (.sext sl o) o.sd (fun s => sextLow (s.sv o.sa) (shiftImm o.imm + 1)) s

end Sys2Proof.Machine
end

