-- ==== Sys2Proof/Machine/ScalarFp.lean ====
section
/-! DEFINITION. Scalar floating-point instructions (spec/06 R131 to R135; spec/05 R101). -/

namespace Sys2Proof.Machine

/-- The format that P selects (R131). -/
def fmtOfP (p : BitVec 1) : Fmt := if p == 1 then .fp64 else .fp32

/-- The number that a floating-point source holds: an FP32 value in the low half (R101). -/
def State.fv (s : State) (f : Fmt) (n : BitVec 5) : Val := f.decode ((s.sv n).toNat % 2 ^ f.width)

/-- A floating-point result with its flags: an enabled one traps, the others accrue; an FP32 result clears bits [63:32] (R101, R131). -/
def fpWrite (lat : Nat) (sl : CS) (sd : BitVec 5) (r : Res) (s : State) : State :=
  (s.setS sd (BitVec.ofNat 64 r.bits)).fpDone sl.id lat (.s sd) r.fl none

/-- An arithmetic form: its exact result, rounded once under FPC.RM, no flush (R79, R131, R132); a double takes one cycle more (R152). -/
def fpArith (lat : Nat) (sl : CS) (o : RR) (op : Bool → Val → Val → Val → VRes) (s : State) : State :=
  let f := fmtOfP o.p
  let rm := s.rnd.rm
  let v := op (rm == .rdn) (s.fv f o.sa) (s.fv f o.sb) (s.fv f o.sc)
  let r := f.round rm v.val
  fpWrite (lat + o.p.toNat) sl o.sd ⟨r.bits, r.fl ||| v.fl⟩ s

/-- SFADD (R132). -/
def execSfadd (sl : CS) (o : RR) (s : State) : Host.Outcome State Fault Refusal :=
  asSlot (.sfadd sl o) (fpArith 4 sl o fun rdn a b _ => Val.add rdn a b) s

/-- SFSUB (R132). -/
def execSfsub (sl : CS) (o : RR) (s : State) : Host.Outcome State Fault Refusal :=
  asSlot (.sfsub sl o) (fpArith 4 sl o fun rdn a b _ => Val.add rdn a b.neg) s

/-- SFMUL (R132). -/
def execSfmul (sl : CS) (o : RR) (s : State) : Host.Outcome State Fault Refusal :=
  asSlot (.sfmul sl o) (fpArith 4 sl o fun _ a b _ => Val.mul a b) s

/-- SFFMA (R132): one rounding. -/
def execSffma (sl : CS) (o : RR) (s : State) : Host.Outcome State Fault Refusal :=
  asSlot (.sffma sl o) (fpArith 5 sl o Val.fma) s

/-- The smaller or larger operand, without rounding (R133). -/
def fpPick (max : Bool) (sl : CS) (o : RR) (s : State) : State :=
  let f := fmtOfP o.p
  let v := pickVal max (s.fv f o.sa) (s.fv f o.sb)
  fpWrite 2 sl o.sd ⟨(f.round .rne v.val).bits, v.fl⟩ s

/-- SFMIN (R133). -/
def execSfmin (sl : CS) (o : RR) (s : State) : Host.Outcome State Fault Refusal :=
  asSlot (.sfmin sl o) (fpPick false sl o) s

/-- SFMAX (R133). -/
def execSfmax (sl : CS) (o : RR) (s : State) : Host.Outcome State Fault Refusal :=
  asSlot (.sfmax sl o) (fpPick true sl o) s

/-- The relations of R134 with the NV that they raise. -/
def fpRelation (fn : BitVec 4) (a b : Val) : CmpRes :=
  let nan := a.isNan || b.isNan
  let snan := a.isSnan || b.isSnan
  let o := a.cmp b
  if fn = 0 then ⟨o == some .eq, Fl.nv.when snan⟩
  else if fn = 1 then ⟨o == some .lt, Fl.nv.when nan⟩
  else if fn = 2 then ⟨o == some .lt || o == some .eq, Fl.nv.when nan⟩
  else if fn = 3 then ⟨nan, Fl.nv.when snan⟩
  else ⟨nan || o != some .eq, Fl.nv.when snan⟩

/-- SFCMP (R134). -/
def execSfcmp (sl : CS) (o : RR) (s : State) : Host.Outcome State Fault Refusal :=
  asSlot (.sfcmp sl o) (fun s =>
    let f := fmtOfP o.p
    let r := fpRelation o.fn (s.fv f o.sa) (s.fv f o.sb)
    fpWrite 2 sl o.sd ⟨if r.val then 1 else 0, r.fl⟩ s) s

/-- The conversions of R135 under a rounding mode. -/
def fpConvert (fn : BitVec 4) (p : BitVec 1) (rm : Rm) (w : Word) : Res :=
  let f := fmtOfP p
  let v := f.decode (w.toNat % 2 ^ f.width)
  if fn = 0 then
    let g := if p == 1 then Fmt.fp32 else Fmt.fp64
    let r := g.round rm v
    ⟨r.bits, r.fl ||| Fl.nv.when v.isSnan⟩
  else if fn = 1 then let x := v.toInt rm 64 true
    ⟨intBits 64 x.val, x.fl⟩
  else if fn = 2 then let x := v.toInt rm 64 false
    ⟨intBits 64 x.val, x.fl⟩
  else if fn = 3 then f.round rm (Val.ofInt w.toInt)
  else f.round rm (Val.ofInt w.toNat)

/-- SFCVT (R135). -/
def execSfcvt (sl : CS) (o : RR) (s : State) : Host.Outcome State Fault Refusal :=
  asSlot (.sfcvt sl o) (fun s => fpWrite 3 sl o.sd (fpConvert o.fn o.p s.rnd.rm (s.sv o.sa)) s) s

end Sys2Proof.Machine
end

