-- ==== Sys2Proof/Machine/Strand.lean ====
section
/-! DEFINITION. Strand instructions: SUSPEND, SPAWN, RCLAIM, YIELD and HALT (spec/06 R142 to R146; spec/02 R21, R33, R34; spec/15 R382, R384,
R386). -/

namespace Sys2Proof.Machine

/-- An instruction that ends its region and is a flush point before its bundle's T entry (R60, R286). -/
def State.endPoint (s : State) : State := s.onFrame fun f => { f with endsRegion := true, flushBefore := true }

/-- A reflection strand takes the permission fault (R384). -/
def State.notReflected (s : State) (k : State → State) : State :=
  match s.src.occ with
  | .refl _ _ => s.raisePermission .c
  | _ => k s

/-- SUSPEND (R142): its checks come with the end of the bundle. -/
def execSuspend (s : State) : Host.Outcome State Fault Refusal :=
  asSlot .suspend (fun s => s.notReflected fun s => s.endPoint.follow .suspend) s

/-- YIELD (R145). -/
def execYield (s : State) : Host.Outcome State Fault Refusal :=
  asSlot .yield (fun s => s.notReflected fun s => s.endPoint.follow .yield) s

/-- HALT (R146). -/
def execHalt (s : State) : Host.Outcome State Fault Refusal := asSlot .halt (fun s => s.endPoint.follow .halt) s

/-- SPAWN (R143): a record that can be read is read after the strand's earlier accesses, checked and queued. -/
def spawnEffect (o : SR) (s : State) : State :=
  let s := s.onFrame fun f => { f with endsRegion := true }
  let a := s.sv o.sa
  if a.extractLsb' 0 6 != 0 then s.raise .c (precise cAlignment [a])
  else s.readable .c [a.toNat, a.toNat + 64] fun s =>
    let read (s : State) : State :=
      (drainStores s).readRec .c false 1 64 (a.setWidth 48) fun s lo => s.readRec .c false 2 64 (a.setWidth 48 + 64) fun s hi =>
        let r : Vector Word 16 := Vector.ofFn fun k : Fin 16 => BitVec.ofNat 64 ((lo + 2 ^ 512 * hi) / 2 ^ (64 * k.val))
        let q := submit s s.src.dom r a none none
        (q.1.setS o.sd (BitVec.ofNat 64 q.2)).onCtx fun c => { c with wdc := 0 }
    if s.answered then read s else (s.onFrame fun f => { f with drains := true }).afterStores (waitReach s s.cur s.src) read

/-- SPAWN (R143). -/
def execSpawn (o : SR) (s : State) : Host.Outcome State Fault Refusal := asSlot (.spawn o) (spawnEffect o) s

/-- RCLAIM (R33, R34, R144, R296): the strand's open chunk is closed, the next one of its die's share returned. A dry share asks its victim first;
each answer lets RCLAIM look again. -/
def rclaimEffect (o : SR) (s : State) : State :=
  let s := s.onFrame fun f => { f with endsRegion := true }
  let c := s.src
  let s := closeChunks s c.grp c.strix
  match groupAt s c.grp with
  | none => s.setS o.sd (BitVec.allOnes 64)
  | some g => match launchAt s g.launch with
    | none => s.setS o.sd (BitVec.allOnes 64)
    | some l =>
      if !lRng l.record then s.setS o.sd (BitVec.allOnes 64)
      else
        let d := s.core.die
        match if shareDry d l.shares then victimOf l.shares else none with
        | some v => s.askFor ⟨3 + c.reply.length, .steal l.id d v.die, .lost d, 0, 0⟩ fun s _ => s
        | none =>
          let q := claim d c.grp c.strix l.shares
          let s := modLaunch s l.id fun l => { l with shares := q.2 }
          match q.1 with
          | none => s.setS o.sd (BitVec.allOnes 64)
          | some k => s.setS o.sd (lRbase l.record + BitVec.ofNat 64 (k * lChunk l.record))

/-- RCLAIM (R144). -/
def execRclaim (o : SR) (s : State) : Host.Outcome State Fault Refusal :=
  asSlot (.rclaim o) (fun s => s.notReflected (rclaimEffect o)) s

end Sys2Proof.Machine
end

