-- ==== Sys2Proof/Machine/Vector.lean ====
section
/-! DEFINITION. Vector element instructions (spec/07 R153 to R169). -/

namespace Sys2Proof.Machine

/-! ### Shape of an instruction (R52, R153) -/

/-- The width in bits. -/
def VE.bits_ (o : VE) : Nat := if o.width = 0 then 256 else if o.width = 1 then 512 else 1024

def VE.type (o : VE) : Ty := Ty.ofCode o.ty

/-- The element width. -/
def VE.eb (o : VE) : Nat := (VE.type o).eb

/-- The number of elements. -/
def VE.count (o : VE) : Nat := VE.bits_ o / VE.eb o

def VE.satOn (o : VE) : Bool := o.sat == 1
def VE.u (o : VE) : Bool := o.ext.getLsbD 3

/-! ### Writing a result (R102, R154) -/

/-- The low `width` bits of a vector replaced. -/
def putLow (old : VReg) (width v : Nat) : VReg := BitVec.ofNat 1024 (old.toNat / 2 ^ width * 2 ^ width + v % 2 ^ width)

/-- Element results with the flags of the active ones and the lowest element that raised one. -/
structure ElemsRes where
  elems : List Nat
  fl : Fl
  low : Option Nat
  deriving DecidableEq, Repr

/-- One result per element: computed where the element is active, else zero or the old element (R154). -/
def mergeElems (p : PReg) (z : Bool) (w n : Nat) (old : Nat) (f : Nat → Res) : ElemsRes :=
  (List.range n).foldr (fun j r =>
    if active p (w / 8) j then
      let x := f j
      ⟨x.bits :: r.elems, x.fl ||| r.fl, if x.fl != 0 then some j else r.low⟩
    else ⟨(if z then 0 else elemAt old w j) :: r.elems, r.fl, r.low⟩) ⟨[], 0, none⟩

/-- The words of vd that an operation on n elements of w bits writes under the predicate p: all of its width with Z (R115, R154). -/
def VE.wrote (o : VE) (w n : Nat) (p : PReg) (k : Nat) : Bool :=
  decide (k * 32 < VE.bits_ o) && (o.z == 1 || wroteWord p (w / 8) n k)

/-- Writes vd and does what the flags ask (R156). -/
def State.veDone (s : State) (sl : SlotId) (lat : Nat) (o : VE) (w n : Nat) (p : PReg) (r : ElemsRes) : State :=
  (s.setV o.vd (VE.wrote o w n p) (putLow (s.oldV o.vd) (VE.bits_ o) (packElems w r.elems))).fpDone sl lat (s.src.phys (.v o.vd)) r.fl r.low

/-- An instruction that computes each active element by itself. -/
def State.veMap (s : State) (sl : SlotId) (lat : Nat) (o : VE) (f : Nat → Res) : State :=
  s.veDone sl lat o (VE.eb o) (VE.count o) (s.pv o.pg) (mergeElems (s.pv o.pg) (o.z == 1) (VE.eb o) (VE.count o) (s.oldV o.vd).toNat f)

/-- Element j of a source as the bundle reads it. -/
def State.ve (s : State) (o : VE) (n : BitVec 5) (j : Nat) : Nat := elemAt (s.vv n).toNat (VE.eb o) j

/-- va as a vector source. -/
def State.useA (s : State) (sl : SlotId) (o : VE) : State := (s.useV sl o.va false).killV o.va o.la

/-- va and vb as vector sources. -/
def State.useAB (s : State) (sl : SlotId) (o : VE) : State := ((s.useA sl o).useV sl o.vb false).killV o.vb o.lb

/-- A function of the elements of va and vb. -/
def veBinary (lat : Nat) (sl : VW) (o : VE) (f : State → Nat → Nat → Res) (s : State) : State :=
  (s.useAB sl.id o).veMap sl.id lat o fun j => f s (s.ve o o.va j) (s.ve o o.vb j)

/-- A function of the elements of va. -/
def veUnary (lat : Nat) (sl : VW) (o : VE) (f : State → Nat → Res) (s : State) : State :=
  (s.useA sl.id o).veMap sl.id lat o fun j => f s (s.ve o o.va j)

/-- A function of the elements of va, vb and vd (R160). -/
def veTernary (lat : Nat) (sl : VW) (o : VE) (f : State → Nat → Nat → Nat → Res) (s : State) : State :=
  ((s.useAB sl.id o).useV sl.id o.vd false).veMap sl.id lat o fun j => f s (s.ve o o.va j) (s.ve o o.vb j) (s.ve o o.vd j)

/-- A result without flags. -/
def plainRes (v : Nat) : Res := ⟨v, 0⟩

/-! ### Arithmetic (R160 to R162) -/

/-- VADD (R160). -/
def execVadd (sl : VW) (o : VE) (s : State) : Host.Outcome State Fault Refusal :=
  asSlot (.vadd sl o) (veBinary 4 sl o fun s a b => (VE.type o).arith .add s.rnd (VE.satOn o) (VE.u o) a b) s

/-- VSUB (R160). -/
def execVsub (sl : VW) (o : VE) (s : State) : Host.Outcome State Fault Refusal :=
  asSlot (.vsub sl o) (veBinary 4 sl o fun s a b => (VE.type o).arith .sub s.rnd (VE.satOn o) (VE.u o) a b) s

/-- VMUL (R160). -/
def execVmul (sl : VW) (o : VE) (s : State) : Host.Outcome State Fault Refusal :=
  asSlot (.vmul sl o) (veBinary 4 sl o fun s a b => (VE.type o).arith .mul s.rnd (VE.satOn o) (VE.u o) a b) s

/-- VFMA (R160). -/
def execVfma (sl : VW) (o : VE) (s : State) : Host.Outcome State Fault Refusal :=
  asSlot (.vfma sl o) (veTernary 5 sl o fun s a b d => (VE.type o).fma false s.rnd (VE.satOn o) (VE.u o) a b d) s

/-- VFMS (R160). -/
def execVfms (sl : VW) (o : VE) (s : State) : Host.Outcome State Fault Refusal :=
  asSlot (.vfms sl o) (veTernary 5 sl o fun s a b d => (VE.type o).fma true s.rnd (VE.satOn o) (VE.u o) a b d) s

/-- VMIN (R161). -/
def execVmin (sl : VW) (o : VE) (s : State) : Host.Outcome State Fault Refusal :=
  asSlot (.vmin sl o) (veBinary 4 sl o fun s a b => (VE.type o).pick false (VE.u o) s.src.ftz a b) s

/-- VMAX (R161). -/
def execVmax (sl : VW) (o : VE) (s : State) : Host.Outcome State Fault Refusal :=
  asSlot (.vmax sl o) (veBinary 4 sl o fun s a b => (VE.type o).pick true (VE.u o) s.src.ftz a b) s

/-- VABS (R161). -/
def execVabs (sl : VW) (o : VE) (s : State) : Host.Outcome State Fault Refusal :=
  asSlot (.vabs sl o) (veUnary 4 sl o fun s a => (VE.type o).signOp false (VE.satOn o) s.src.ftz a) s

/-- VNEG (R161). -/
def execVneg (sl : VW) (o : VE) (s : State) : Host.Outcome State Fault Refusal :=
  asSlot (.vneg sl o) (veUnary 4 sl o fun s a => (VE.type o).signOp true (VE.satOn o) s.src.ftz a) s

/-- VCLMP (R162). -/
def execVclmp (sl : VW) (o : VE) (s : State) : Host.Outcome State Fault Refusal :=
  asSlot (.vclmp sl o) (veBinary 4 sl o fun s a b => (VE.type o).clamp (o.ext.getLsbD 0) (VE.u o) s.src.ftz a b) s

/-! ### Logic, shifts and comparison (R163 to R165) -/

/-- VAND (R163). -/
def execVand (sl : VW) (o : VE) (s : State) : Host.Outcome State Fault Refusal :=
  asSlot (.vand sl o) (veBinary 2 sl o fun _ a b => plainRes (a &&& b)) s

/-- VOR (R163). -/
def execVor (sl : VW) (o : VE) (s : State) : Host.Outcome State Fault Refusal :=
  asSlot (.vor sl o) (veBinary 2 sl o fun _ a b => plainRes (a ||| b)) s

/-- VXOR (R163). -/
def execVxor (sl : VW) (o : VE) (s : State) : Host.Outcome State Fault Refusal :=
  asSlot (.vxor sl o) (veBinary 2 sl o fun _ a b => plainRes (a ^^^ b)) s

/-- VNOT (R163). -/
def execVnot (sl : VW) (o : VE) (s : State) : Host.Outcome State Fault Refusal :=
  asSlot (.vnot sl o) (veUnary 2 sl o fun _ a => plainRes (2 ^ VE.eb o - 1 - a)) s

/-- VSHL on an element (R163). -/
def shlElem (w : Nat) (sat uns : Bool) (a b : Nat) : Res := intRes w sat uns (readInt w uns a * 2 ^ (b % w))

/-- VSHR and VSAR on an element (R163). -/
def shrElem (w : Nat) (arith : Bool) (a b : Nat) : Res :=
  if arith then ⟨intBits w (intOf w a / 2 ^ (b % w)), 0⟩ else ⟨a / 2 ^ (b % w), 0⟩

/-- VSHL (R163). -/
def execVshl (sl : VW) (o : VE) (s : State) : Host.Outcome State Fault Refusal :=
  asSlot (.vshl sl o) (veBinary 2 sl o fun _ a b => shlElem (VE.eb o) (VE.satOn o) (VE.u o) a b) s

/-- VSHR (R163). -/
def execVshr (sl : VW) (o : VE) (s : State) : Host.Outcome State Fault Refusal :=
  asSlot (.vshr sl o) (veBinary 2 sl o fun _ a b => shrElem (VE.eb o) false a b) s

/-- VSAR (R163). -/
def execVsar (sl : VW) (o : VE) (s : State) : Host.Outcome State Fault Refusal :=
  asSlot (.vsar sl o) (veBinary 2 sl o fun _ a b => shrElem (VE.eb o) true a b) s

/-- The relation of each active element, with its flags; the others merged or zeroed in all their bits (R164). -/
def cmpElems (o : VE) (p : PReg) (old : Nat) (f : Nat → CmpRes) : ElemsRes :=
  let b := VE.eb o / 8
  (List.range (VE.count o)).foldr (fun j r =>
    if active p b j then
      let x := f j
      ⟨(if x.val then 2 ^ b - 1 else 0) :: r.elems, x.fl ||| r.fl, if x.fl != 0 then some j else r.low⟩
    else ⟨(if o.z == 1 then 0 else elemAt old b j) :: r.elems, r.fl, r.low⟩) ⟨[], 0, none⟩

/-- VCMP (R164). -/
def vcmpEffect (sl : VW) (o : VE) (s : State) : State :=
  let pd : BitVec 4 := o.vd.setWidth 4
  let r := cmpElems o (s.pv o.pg) (s.pv pd).toNat fun j => (VE.type o).compare o.ext s.src.ftz (s.ve o o.va j) (s.ve o o.vb j)
  ((s.useAB sl.id o).setP pd (BitVec.ofNat 128 (packElems (VE.eb o / 8) r.elems))).fpDone sl.id 2 (s.src.phys (.p pd)) r.fl r.low

/-- VSEL: every element of the width, chosen by P[pg] (R165). -/
def vselEffect (sl : VW) (o : VE) (s : State) : State :=
  let p := s.pv o.pg
  let l := (List.range (VE.count o)).map fun j => if active p (VE.eb o / 8) j then s.ve o o.va j else s.ve o o.vb j
  (s.useAB sl.id o).veDone sl.id 2 o (VE.eb o) (VE.count o) (BitVec.allOnes 128) ⟨l, 0, none⟩

/-- VCMP (R164). -/
def execVcmp (sl : VW) (o : VE) (s : State) : Host.Outcome State Fault Refusal :=
  asSlot (.vcmp sl o) (vcmpEffect sl o) s

/-- VSEL (R165). -/
def execVsel (sl : VW) (o : VE) (s : State) : Host.Outcome State Fault Refusal :=
  asSlot (.vsel sl o) (vselEffect sl o) s

/-! ### Conversion, moves and constants (R166, R167) -/

/-- VCVT: elements of the wider side's count, results at the target's width, zeros above them (R166). -/
def vcvtEffect (sl : VW) (o : VE) (s : State) : State :=
  let src := VE.type o
  let dst := Ty.ofCode (o.ext.setWidth 3)
  let n := VE.bits_ o / Nat.max src.eb dst.eb
  let r := mergeElems (s.pv o.pg) (o.z == 1) dst.eb n (s.oldV o.vd).toNat fun j =>
    src.convert dst s.rnd (VE.satOn o) (VE.u o) (elemAt (s.vv o.va).toNat src.eb j)
  (s.useA sl.id o).veDone sl.id 3 o dst.eb n (s.pv o.pg) r

/-- VCVT (R166). -/
def execVcvt (sl : VW) (o : VE) (s : State) : Host.Outcome State Fault Refusal :=
  asSlot (.vcvt sl o) (vcvtEffect sl o) s

/-- VMOV (R167). -/
def execVmov (sl : VW) (o : VE) (s : State) : Host.Outcome State Fault Refusal :=
  asSlot (.vmov sl o) (veUnary 2 sl o fun _ a => plainRes a) s

/-- VSPLAT (R167). -/
def execVsplat (sl : VW) (o : VE) (s : State) : Host.Outcome State Fault Refusal :=
  asSlot (.vsplat sl o) (fun s => s.veMap sl.id 2 o fun _ => plainRes ((s.sv o.va).toNat % 2 ^ VE.eb o)) s

/-- The immediate of VSPLATI in an element's type, rounded to nearest even without flags (R167). -/
def splatImm (o : VE) : Nat :=
  let x := (o.va ++ o.vb).toInt
  match VE.type o with
  | .int w => intBits w x
  | .t8 => (t8Encode .rne (Val.ofInt x)).bits
  | .fp f => (f.round .rne (Val.ofInt x)).bits

/-- VSPLATI (R167). -/
def execVsplati (sl : VW) (o : VE) (s : State) : Host.Outcome State Fault Refusal :=
  asSlot (.vsplati sl o) (fun s => s.veMap sl.id 2 o fun _ => plainRes (splatImm o)) s

/-- VIOTA (R167). -/
def execViota (sl : VW) (o : VE) (s : State) : Host.Outcome State Fault Refusal :=
  asSlot (.viota sl o) (fun s => s.veMap sl.id 2 o fun j => plainRes (((s.sv o.va).toNat + j * (s.sv o.vb).toNat) % 2 ^ VE.eb o)) s

/-! ### Reductions and scans (R168) -/

/-- The elements of va with the identity in place of inactive ones. -/
def redInput (s : State) (o : VE) (op : RedOp) : List Nat :=
  (List.range (VE.count o)).map fun j =>
    if active (s.pv o.pg) (VE.eb o / 8) j then s.ve o o.va j else (VE.type o).identity op (VE.u o)

/-- A reduction: the tree's value in element 0, zeros in the others. A node of the tree is no element: with an enabled exception OR1 names none,
and reads 0 (DESIGN CHOICE, log entry 62; the same for a scan). -/
def veReduce (sl : VW) (o : VE) (op : RedOp) (s : State) : State :=
  let r := treeReduce ((VE.type o).node op s.rnd (VE.satOn o) (VE.u o)) (Nat.log2 (VE.count o)) (redInput s o op)
  (s.useA sl.id o).veDone sl.id (2 + 4 * Nat.log2 (VE.count o)) o (VE.eb o) (VE.count o) (BitVec.allOnes 128) ⟨[r.bits], r.fl, none⟩

/-- An element as an operation on values passes it on: a NaN is the default NaN, under FTZ a subnormal is a zero of its sign (R79). -/
def Ty.passed (t : Ty) (ftz : Bool) (b : Nat) : Nat :=
  match t with
  | .int _ => b
  | .t8 => b
  | .fp f => match f.read ftz b with
    | .nan _ => f.nanBits
    | .inf _ => b
    | .num neg m _ => if m == 0 then f.signed neg 0 else b

/-- A scan: every prefix by the blocks of R93; the first element passes no node. -/
def veScan (sl : VW) (o : VE) (op : RedOp) (s : State) : State :=
  let x := redInput s o op
  let l := (List.range (VE.count o)).map fun i =>
    if i = 0 then ⟨(VE.type o).passed s.src.ftz (x.getD 0 0), 0⟩ else scanAt ((VE.type o).node op s.rnd (VE.satOn o) (VE.u o)) x i (Nat.log2 (VE.count o)) 0 none
  (s.useA sl.id o).veDone sl.id (4 + 4 * Nat.log2 (VE.count o)) o (VE.eb o) (VE.count o) (BitVec.allOnes 128) ⟨l.map Res.bits, l.foldl (fun a r => a ||| r.fl) 0, none⟩

/-- The operators of VREDM and VSCAN by code. -/
def redmOp (o : VE) : RedOp := if o.ext.setWidth 2 = (0 : BitVec 2) then .min else if o.ext.setWidth 2 = (1 : BitVec 2) then .max else .mul
def scanOp (o : VE) : RedOp :=
  if o.ext.setWidth 2 = (0 : BitVec 2) then .add else if o.ext.setWidth 2 = (1 : BitVec 2) then .min
  else if o.ext.setWidth 2 = (2 : BitVec 2) then .max else .mul

/-- VREDS (R168). -/
def execVreds (sl : VW) (o : VE) (s : State) : Host.Outcome State Fault Refusal :=
  asSlot (.vreds sl o) (veReduce sl o .add) s

/-- VREDM (R168). -/
def execVredm (sl : VW) (o : VE) (s : State) : Host.Outcome State Fault Refusal :=
  asSlot (.vredm sl o) (veReduce sl o (redmOp o)) s

/-- VSCAN (R168). -/
def execVscan (sl : VW) (o : VE) (s : State) : Host.Outcome State Fault Refusal :=
  asSlot (.vscan sl o) (veScan sl o (scanOp o)) s

/-! ### Special functions (R94, R95, R169) -/

/-- The binary format of an element type that the special functions admit. -/
def VE.fmt (o : VE) : Fmt :=
  match VE.type o with
  | .fp f => f
  | .int _ => .fp32
  | .t8 => .fp32

/-- VRCP (R169). -/
def execVrcp (o : VE) (s : State) : Host.Outcome State Fault Refusal :=
  asSlot (.vrcp o) (veUnary 12 .w o fun s a => specialRound (VE.fmt o) rcpOf s.rnd a) s

/-- VRSQ (R169). -/
def execVrsq (o : VE) (s : State) : Host.Outcome State Fault Refusal :=
  asSlot (.vrsq o) (veUnary 12 .w o fun s a => specialRound (VE.fmt o) rsqOf s.rnd a) s

/-- VSQRT (R169). -/
def execVsqrt (o : VE) (s : State) : Host.Outcome State Fault Refusal :=
  asSlot (.vsqrt o) (veUnary 14 .w o fun s a => specialRound (VE.fmt o) sqrtOf s.rnd a) s

/-- VEXP2 (R169). -/
def execVexp2 (o : VE) (s : State) : Host.Outcome State Fault Refusal :=
  asSlot (.vexp2 o) (veUnary 18 .w o fun s a => specialRef (VE.fmt o) exp2Ref s.rnd a) s

/-- VLOG2 (R169). -/
def execVlog2 (o : VE) (s : State) : Host.Outcome State Fault Refusal :=
  asSlot (.vlog2 o) (veUnary 22 .w o fun s a => specialRef (VE.fmt o) log2Ref s.rnd a) s

/-- VTANH (R169). -/
def execVtanh (o : VE) (s : State) : Host.Outcome State Fault Refusal :=
  asSlot (.vtanh o) (veUnary 30 .w o fun s a => specialRef (VE.fmt o) tanhRef s.rnd a) s

end Sys2Proof.Machine
end

