-- ==== Sys2Proof/Machine/Dispatch.lean ====
section
/-! DEFINITION. The dispatch: one arm per instruction and event, each a call of its meaning. -/

namespace Sys2Proof.Machine

/-- The meaning of an instruction or event. -/
def exec (i : Instr) (s : State) : Host.Outcome State Fault Refusal :=
  match i with
  | .br o => Sys2Proof.Machine.execBr o s
  | .brc o => Sys2Proof.Machine.execBrc o s
  | .jmp o => Sys2Proof.Machine.execJmp o s
  | .call o => Sys2Proof.Machine.execCall o s
  | .callr o => Sys2Proof.Machine.execCallr o s
  | .ret => Sys2Proof.Machine.execRet s
  | .loopi o => Sys2Proof.Machine.execLoopi o s
  | .loop => Sys2Proof.Machine.execLoop s
  | .suspend => Sys2Proof.Machine.execSuspend s
  | .spawn o => Sys2Proof.Machine.execSpawn o s
  | .rclaim o => Sys2Proof.Machine.execRclaim o s
  | .yield => Sys2Proof.Machine.execYield s
  | .halt => Sys2Proof.Machine.execHalt s
  | .trap o => Sys2Proof.Machine.execTrap o s
  | .tret => Sys2Proof.Machine.execTret s
  | .csrr o => Sys2Proof.Machine.execCsrr o s
  | .csrw o => Sys2Proof.Machine.execCsrw o s
  | .csrsb o => Sys2Proof.Machine.execCsrsb o s
  | .csrcb o => Sys2Proof.Machine.execCsrcb o s
  | .dnew o => Sys2Proof.Machine.execDnew o s
  | .dgrantRange o => Sys2Proof.Machine.execDgrantRange o s
  | .dgrantCore o => Sys2Proof.Machine.execDgrantCore o s
  | .dgrantVf o => Sys2Proof.Machine.execDgrantVf o s
  | .dgrantBud o => Sys2Proof.Machine.execDgrantBud o s
  | .drevokeRange o => Sys2Proof.Machine.execDrevokeRange o s
  | .drevokeCore o => Sys2Proof.Machine.execDrevokeCore o s
  | .drevokeVf o => Sys2Proof.Machine.execDrevokeVf o s
  | .dkill o => Sys2Proof.Machine.execDkill o s
  | .dpolicyTrap o => Sys2Proof.Machine.execDpolicyTrap o s
  | .dpolicyFlags o => Sys2Proof.Machine.execDpolicyFlags o s
  | .dpolicyEvq o => Sys2Proof.Machine.execDpolicyEvq o s
  | .dpolicyDlog o => Sys2Proof.Machine.execDpolicyDlog o s
  | .dpolicyScope o => Sys2Proof.Machine.execDpolicyScope o s
  | .dpolicyTbofs o => Sys2Proof.Machine.execDpolicyTbofs o s
  | .dpolicySpill o => Sys2Proof.Machine.execDpolicySpill o s
  | .dquery o => Sys2Proof.Machine.execDquery o s
  | .tlbinvAll o => Sys2Proof.Machine.execTlbinvAll o s
  | .tlbinvVa o => Sys2Proof.Machine.execTlbinvVa o s
  | .tlbinvDom o => Sys2Proof.Machine.execTlbinvDom o s
  | .rtload o => Sys2Proof.Machine.execRtload o s
  | .rtloadClr o => Sys2Proof.Machine.execRtloadClr o s
  | .evpostOwn o => Sys2Proof.Machine.execEvpostOwn o s
  | .evpostPar o => Sys2Proof.Machine.execEvpostPar o s
  | .evpostChild o => Sys2Proof.Machine.execEvpostChild o s
  | .pgstateBegin o => Sys2Proof.Machine.execPgstateBegin o s
  | .pgstateEnd o => Sys2Proof.Machine.execPgstateEnd o s
  | .pand o => Sys2Proof.Machine.execPand o s
  | .por o => Sys2Proof.Machine.execPor o s
  | .pxor o => Sys2Proof.Machine.execPxor o s
  | .pnot o => Sys2Proof.Machine.execPnot o s
  | .psetn o => Sys2Proof.Machine.execPsetn o s
  | .pcnt o => Sys2Proof.Machine.execPcnt o s
  | .pfirst o => Sys2Proof.Machine.execPfirst o s
  | .add sl o => Sys2Proof.Machine.execAdd sl o s
  | .addi sl o => Sys2Proof.Machine.execAddi sl o s
  | .sub sl o => Sys2Proof.Machine.execSub sl o s
  | .mul sl o => Sys2Proof.Machine.execMul sl o s
  | .mulh sl o => Sys2Proof.Machine.execMulh sl o s
  | .mulhu sl o => Sys2Proof.Machine.execMulhu sl o s
  | .div sl o => Sys2Proof.Machine.execDiv sl o s
  | .divu sl o => Sys2Proof.Machine.execDivu sl o s
  | .rem sl o => Sys2Proof.Machine.execRem sl o s
  | .remu sl o => Sys2Proof.Machine.execRemu sl o s
  | .and sl o => Sys2Proof.Machine.execAnd sl o s
  | .andi sl o => Sys2Proof.Machine.execAndi sl o s
  | .or sl o => Sys2Proof.Machine.execOr sl o s
  | .ori sl o => Sys2Proof.Machine.execOri sl o s
  | .xor sl o => Sys2Proof.Machine.execXor sl o s
  | .xori sl o => Sys2Proof.Machine.execXori sl o s
  | .shl sl o => Sys2Proof.Machine.execShl sl o s
  | .shli sl o => Sys2Proof.Machine.execShli sl o s
  | .shr sl o => Sys2Proof.Machine.execShr sl o s
  | .shri sl o => Sys2Proof.Machine.execShri sl o s
  | .sar sl o => Sys2Proof.Machine.execSar sl o s
  | .sari sl o => Sys2Proof.Machine.execSari sl o s
  | .ror sl o => Sys2Proof.Machine.execRor sl o s
  | .min sl o => Sys2Proof.Machine.execMin sl o s
  | .minu sl o => Sys2Proof.Machine.execMinu sl o s
  | .max sl o => Sys2Proof.Machine.execMax sl o s
  | .maxu sl o => Sys2Proof.Machine.execMaxu sl o s
  | .clz sl o => Sys2Proof.Machine.execClz sl o s
  | .ctz sl o => Sys2Proof.Machine.execCtz sl o s
  | .popc sl o => Sys2Proof.Machine.execPopc sl o s
  | .slt sl o => Sys2Proof.Machine.execSlt sl o s
  | .sltu sl o => Sys2Proof.Machine.execSltu sl o s
  | .sel sl o => Sys2Proof.Machine.execSel sl o s
  | .movi sl o => Sys2Proof.Machine.execMovi sl o s
  | .movk sl o => Sys2Proof.Machine.execMovk sl o s
  | .sext sl o => Sys2Proof.Machine.execSext sl o s
  | .sfadd sl o => Sys2Proof.Machine.execSfadd sl o s
  | .sfsub sl o => Sys2Proof.Machine.execSfsub sl o s
  | .sfmul sl o => Sys2Proof.Machine.execSfmul sl o s
  | .sffma sl o => Sys2Proof.Machine.execSffma sl o s
  | .sfmin sl o => Sys2Proof.Machine.execSfmin sl o s
  | .sfmax sl o => Sys2Proof.Machine.execSfmax sl o s
  | .sfcmp sl o => Sys2Proof.Machine.execSfcmp sl o s
  | .sfcvt sl o => Sys2Proof.Machine.execSfcvt sl o s
  | .ldB o => Sys2Proof.Machine.execLdB o s
  | .ldBu o => Sys2Proof.Machine.execLdBu o s
  | .ldH o => Sys2Proof.Machine.execLdH o s
  | .ldHu o => Sys2Proof.Machine.execLdHu o s
  | .ldW o => Sys2Proof.Machine.execLdW o s
  | .ldWu o => Sys2Proof.Machine.execLdWu o s
  | .ldD o => Sys2Proof.Machine.execLdD o s
  | .stB o => Sys2Proof.Machine.execStB o s
  | .stH o => Sys2Proof.Machine.execStH o s
  | .stW o => Sys2Proof.Machine.execStW o s
  | .stD o => Sys2Proof.Machine.execStD o s
  | .ataddW o => Sys2Proof.Machine.execAtaddW o s
  | .ataddD o => Sys2Proof.Machine.execAtaddD o s
  | .atminW o => Sys2Proof.Machine.execAtminW o s
  | .atminD o => Sys2Proof.Machine.execAtminD o s
  | .atmaxW o => Sys2Proof.Machine.execAtmaxW o s
  | .atmaxD o => Sys2Proof.Machine.execAtmaxD o s
  | .atandW o => Sys2Proof.Machine.execAtandW o s
  | .atandD o => Sys2Proof.Machine.execAtandD o s
  | .atorW o => Sys2Proof.Machine.execAtorW o s
  | .atorD o => Sys2Proof.Machine.execAtorD o s
  | .atxorW o => Sys2Proof.Machine.execAtxorW o s
  | .atxorD o => Sys2Proof.Machine.execAtxorD o s
  | .atswpW o => Sys2Proof.Machine.execAtswpW o s
  | .atswpD o => Sys2Proof.Machine.execAtswpD o s
  | .atcasW o => Sys2Proof.Machine.execAtcasW o s
  | .atcasD o => Sys2Proof.Machine.execAtcasD o s
  | .vldt o => Sys2Proof.Machine.execVldt o s
  | .vstt o => Sys2Proof.Machine.execVstt o s
  | .vldts o => Sys2Proof.Machine.execVldts o s
  | .vgtht o => Sys2Proof.Machine.execVgtht o s
  | .vins o => Sys2Proof.Machine.execVins o s
  | .vext o => Sys2Proof.Machine.execVext o s
  | .vadd sl o => Sys2Proof.Machine.execVadd sl o s
  | .vsub sl o => Sys2Proof.Machine.execVsub sl o s
  | .vmul sl o => Sys2Proof.Machine.execVmul sl o s
  | .vfma sl o => Sys2Proof.Machine.execVfma sl o s
  | .vfms sl o => Sys2Proof.Machine.execVfms sl o s
  | .vmin sl o => Sys2Proof.Machine.execVmin sl o s
  | .vmax sl o => Sys2Proof.Machine.execVmax sl o s
  | .vabs sl o => Sys2Proof.Machine.execVabs sl o s
  | .vneg sl o => Sys2Proof.Machine.execVneg sl o s
  | .vand sl o => Sys2Proof.Machine.execVand sl o s
  | .vor sl o => Sys2Proof.Machine.execVor sl o s
  | .vxor sl o => Sys2Proof.Machine.execVxor sl o s
  | .vnot sl o => Sys2Proof.Machine.execVnot sl o s
  | .vshl sl o => Sys2Proof.Machine.execVshl sl o s
  | .vshr sl o => Sys2Proof.Machine.execVshr sl o s
  | .vsar sl o => Sys2Proof.Machine.execVsar sl o s
  | .vcmp sl o => Sys2Proof.Machine.execVcmp sl o s
  | .vsel sl o => Sys2Proof.Machine.execVsel sl o s
  | .vcvt sl o => Sys2Proof.Machine.execVcvt sl o s
  | .vmov sl o => Sys2Proof.Machine.execVmov sl o s
  | .vsplat sl o => Sys2Proof.Machine.execVsplat sl o s
  | .vsplati sl o => Sys2Proof.Machine.execVsplati sl o s
  | .viota sl o => Sys2Proof.Machine.execViota sl o s
  | .vreds sl o => Sys2Proof.Machine.execVreds sl o s
  | .vredm sl o => Sys2Proof.Machine.execVredm sl o s
  | .vscan sl o => Sys2Proof.Machine.execVscan sl o s
  | .vclmp sl o => Sys2Proof.Machine.execVclmp sl o s
  | .vrcp o => Sys2Proof.Machine.execVrcp o s
  | .vrsq o => Sys2Proof.Machine.execVrsq o s
  | .vsqrt o => Sys2Proof.Machine.execVsqrt o s
  | .vexp2 o => Sys2Proof.Machine.execVexp2 o s
  | .vlog2 o => Sys2Proof.Machine.execVlog2 o s
  | .vtanh o => Sys2Proof.Machine.execVtanh o s
  | .xperm o => Sys2Proof.Machine.execXperm o s
  | .xpermScat o => Sys2Proof.Machine.execXpermScat o s
  | .xrot o => Sys2Proof.Machine.execXrot o s
  | .xzip o => Sys2Proof.Machine.execXzip o s
  | .xunzip o => Sys2Proof.Machine.execXunzip o s
  | .xbcst o => Sys2Proof.Machine.execXbcst o s
  | .xcmpr o => Sys2Proof.Machine.execXcmpr o s
  | .xexpd o => Sys2Proof.Machine.execXexpd o s
  | .talloc o => Sys2Proof.Machine.execTalloc o s
  | .tfree o => Sys2Proof.Machine.execTfree o s
  | .tpark o => Sys2Proof.Machine.execTpark o s
  | .twake o => Sys2Proof.Machine.execTwake o s
  | .tload o => Sys2Proof.Machine.execTload o s
  | .tstore o => Sys2Proof.Machine.execTstore o s
  | .tfill o => Sys2Proof.Machine.execTfill o s
  | .tcopy o => Sys2Proof.Machine.execTcopy o s
  | .ttrans o => Sys2Proof.Machine.execTtrans o s
  | .tcvt o => Sys2Proof.Machine.execTcvt o s
  | .tplane o => Sys2Proof.Machine.execTplane o s
  | .tscale o => Sys2Proof.Machine.execTscale o s
  | .tscaleBs o => Sys2Proof.Machine.execTscaleBs o s
  | .tscaleNobs o => Sys2Proof.Machine.execTscaleNobs o s
  | .tsqld o => Sys2Proof.Machine.execTsqld o s
  | .mma o => Sys2Proof.Machine.execMma o s
  | .aclr o => Sys2Proof.Machine.execAclr o s
  | .asetq o => Sys2Proof.Machine.execAsetq o s
  | .acvt o => Sys2Proof.Machine.execAcvt o s
  | .aaddt o => Sys2Proof.Machine.execAaddt o s
  | .achk o => Sys2Proof.Machine.execAchk o s
  | .afix o => Sys2Proof.Machine.execAfix o s
  | .tckpt o => Sys2Proof.Machine.execTckpt o s
  | .fwait o => Sys2Proof.Machine.execFwait o s
  | .fpost o => Sys2Proof.Machine.execFpost o s
  | .fpostr o => Sys2Proof.Machine.execFpostr o s
  | .fset o => Sys2Proof.Machine.execFset o s
  | .frd o => Sys2Proof.Machine.execFrd o s
  | .bar o => Sys2Proof.Machine.execBar o s
  | .fence o => Sys2Proof.Machine.execFence o s
  | .tmwait o => Sys2Proof.Machine.execTmwait o s
  | .tmwaitRel o => Sys2Proof.Machine.execTmwaitRel o s
  | .issueChoice c => Sys2Proof.Machine.execIssueChoice c s
  | .trapDelivery x => Sys2Proof.Machine.execTrapDelivery x s
  | .watchdog x => Sys2Proof.Machine.execWatchdog x s
  | .suspendRecordWrite x => Sys2Proof.Machine.execSuspendRecordWrite x s
  | .strandDone x => Sys2Proof.Machine.execStrandDone x s
  | .gangAdmission d => Sys2Proof.Machine.execGangAdmission d s
  | .continuationTakeUp x => Sys2Proof.Machine.execContinuationTakeUp x s
  | .entryStart x n => Sys2Proof.Machine.execEntryStart x n s
  | .tileEntryComplete x n => Sys2Proof.Machine.execTileEntryComplete x n s
  | .mmaComplete x n => Sys2Proof.Machine.execMmaComplete x n s
  | .holdRelease x n => Sys2Proof.Machine.execHoldRelease x n s
  | .copyStep c => Sys2Proof.Machine.execCopyStep c s
  | .energyRefill => Sys2Proof.Machine.execEnergyRefill s
  | .bandwidthRefill d => Sys2Proof.Machine.execBandwidthRefill d s
  | .deadlineMiss x n => Sys2Proof.Machine.execDeadlineMiss x n s
  | .fwaitSatisfied x => Sys2Proof.Machine.execFwaitSatisfied x s
  | .fwaitPoll x => Sys2Proof.Machine.execFwaitPoll x s
  | .tmwaitExpiry x => Sys2Proof.Machine.execTmwaitExpiry x s
  | .fenceComplete x => Sys2Proof.Machine.execFenceComplete x s
  | .pageWalk c dom va acc => Sys2Proof.Machine.execPageWalk c dom va acc s
  | .migrationCopyComplete n => Sys2Proof.Machine.execMigrationCopyComplete n s
  | .mirrorCopyComplete d => Sys2Proof.Machine.execMirrorCopyComplete d s
  | .scrub d line => Sys2Proof.Machine.execScrub d line s
  | .bankIdleOff x b => Sys2Proof.Machine.execBankIdleOff x b s
  | .bankRetention x b => Sys2Proof.Machine.execBankRetention x b s
  | .bankKillOff x b => Sys2Proof.Machine.execBankKillOff x b s
  | .bankWakeDone x b => Sys2Proof.Machine.execBankWakeDone x b s
  | .spadClearDone c b => Sys2Proof.Machine.execSpadClearDone c b s
  | .spadWakeDone c b => Sys2Proof.Machine.execSpadWakeDone c b s
  | .bankFailed c b => Sys2Proof.Machine.execBankFailed c b s
  | .suspensionRequest x => Sys2Proof.Machine.execSuspensionRequest x s
  | .loopDrain x => Sys2Proof.Machine.execLoopDrain x s
  | .immediatePreemption x => Sys2Proof.Machine.execImmediatePreemption x s
  | .preemptEscalation x => Sys2Proof.Machine.execPreemptEscalation x s
  | .contextSaveComplete x => Sys2Proof.Machine.execContextSaveComplete x s
  | .restore x => Sys2Proof.Machine.execRestore x s
  | .opSettleDone c => Sys2Proof.Machine.execOpSettleDone c s
  | .thermalThrottleStep d h => Sys2Proof.Machine.execThermalThrottleStep d h s
  | .slackReport d r => Sys2Proof.Machine.execSlackReport d r s
  | .msgRead f => Sys2Proof.Machine.execMsgRead f s
  | .msgWrite f => Sys2Proof.Machine.execMsgWrite f s
  | .msgAtomic f => Sys2Proof.Machine.execMsgAtomic f s
  | .msgFlagPost f => Sys2Proof.Machine.execMsgFlagPost f s
  | .msgForwardedAccess f => Sys2Proof.Machine.execMsgForwardedAccess f s
  | .msgMovedMarker f => Sys2Proof.Machine.execMsgMovedMarker f s
  | .msgRangeSteal f => Sys2Proof.Machine.execMsgRangeSteal f s
  | .msgReadData f => Sys2Proof.Machine.execMsgReadData f s
  | .msgWriteDone f => Sys2Proof.Machine.execMsgWriteDone f s
  | .msgAtomicResult f => Sys2Proof.Machine.execMsgAtomicResult f s
  | .msgLostOrError f => Sys2Proof.Machine.execMsgLostOrError f s
  | .msgMirrorWrite f => Sys2Proof.Machine.execMsgMirrorWrite f s
  | .msgCheckpointEpoch f => Sys2Proof.Machine.execMsgCheckpointEpoch f s
  | .msgHeartbeat f => Sys2Proof.Machine.execMsgHeartbeat f s
  | .msgConfiguration f => Sys2Proof.Machine.execMsgConfiguration f s
  | .msgServiceLevel f => Sys2Proof.Machine.execMsgServiceLevel f s
  | .msgTimebase f => Sys2Proof.Machine.execMsgTimebase f s
  | .ackTimeout f => Sys2Proof.Machine.execAckTimeout f s
  | .replayTimeout f => Sys2Proof.Machine.execReplayTimeout f s
  | .timebaseExchange d => Sys2Proof.Machine.execTimebaseExchange d s
  | .heartbeatSend d => Sys2Proof.Machine.execHeartbeatSend d s
  | .heartbeatLoss d j => Sys2Proof.Machine.execHeartbeatLoss d j s
  | .railFault d reports => Sys2Proof.Machine.execRailFault d reports s
  | .clockFault d reports => Sys2Proof.Machine.execClockFault d reports s
  | .lockstepMismatch d reports => Sys2Proof.Machine.execLockstepMismatch d reports s
  | .junctionOvertemp d => Sys2Proof.Machine.execJunctionOvertemp d s
  | .restoreAndRelaunch => Sys2Proof.Machine.execRestoreAndRelaunch s
  | .reunion d => Sys2Proof.Machine.execReunion d s
  | .rebuild d => Sys2Proof.Machine.execRebuild d s
  | .selfTestStart => Sys2Proof.Machine.execSelfTestStart s
  | .selfTestEnd d pass => Sys2Proof.Machine.execSelfTestEnd d pass s
  | .selfTestTimeout d => Sys2Proof.Machine.execSelfTestTimeout d s
  | .frameCheckpoint ts => Sys2Proof.Machine.execFrameCheckpoint ts s
  | .earlyCheckpoint ts => Sys2Proof.Machine.execEarlyCheckpoint ts s
  | .coldStart b => Sys2Proof.Machine.execColdStart b s
  | .warmReset d b => Sys2Proof.Machine.execWarmReset d b s
  | .bootTimeout => Sys2Proof.Machine.execBootTimeout s
  | .startComplete parts => Sys2Proof.Machine.execStartComplete parts s
  | .linkTraining d => Sys2Proof.Machine.execLinkTraining d s
  | .sqbaseWrite vf v => Sys2Proof.Machine.execSqbaseWrite vf v s
  | .sqcfgWrite vf v => Sys2Proof.Machine.execSqcfgWrite vf v s
  | .sqtailWrite vf v => Sys2Proof.Machine.execSqtailWrite vf v s
  | .sqstatWrite vf v => Sys2Proof.Machine.execSqstatWrite vf v s
  | .submissionService vf q => Sys2Proof.Machine.execSubmissionService vf q s
  | .releaseWrite v size => Sys2Proof.Machine.execReleaseWrite v size s
  | .errcntWrite d k v size => Sys2Proof.Machine.execErrcntWrite d k v size s
  | .registerWrite fn off v => Sys2Proof.Machine.execRegisterWrite fn off v s
  | .unsupportedRequest tag => Sys2Proof.Machine.execUnsupportedRequest tag s
  | .hostCompletion tag err data => Sys2Proof.Machine.execHostCompletion tag err data s
  | .softError e => Sys2Proof.Machine.execSoftError e s
  | .relaunchRetry => Sys2Proof.Machine.execRelaunchRetry s
  | .selfTestReinitialisationDone d => Sys2Proof.Machine.execSelfTestReinitialisationDone d s
  | .taskSetRegistration ts => Sys2Proof.Machine.execTaskSetRegistration ts s
  | .failedLane d => Sys2Proof.Machine.execFailedLane d s

end Sys2Proof.Machine
end

