-- ==== Sys2Proof/Machine/Issue.lean ====
section
/-! DEFINITION. What happens without an instruction: the issue of a bundle, the passing of time, and the events that the package can take by
itself (spec/03 R45, R53, R54, R60, R65; spec/02 R18; spec/15 R375, R376; spec/01 R3, R16). -/

namespace Sys2Proof.Machine

/-! ### Issuing a bundle (R45, R53 to R55, R65, R375) -/

/-- The next context of a merged pair has the turn, or nobody (R65, R66). -/
def passTurn (s : State) : State :=
  match s.second with
  | some y => { focusOn s y with turn := (ctxAt s y).ready, second := none }
  | none => { s with turn := false }

/-- The second bundle of a cycle adds its EW to the cycle's. -/
def addEw (l : List Nat) (ew : Nat) : List Nat :=
  match l with
  | [] => [ew]
  | a :: t => (a + ew) :: t

/-- A bundle of EW `ew` comes to issue. The primary's enters its cycle in the core's counters; a second one joins that cycle; the place in the issue
order is noted (R65, R359, R361, R368). -/
def enterCycle (ew : Nat) (s : State) : State :=
  let c := s.cur.core
  let s := match s.acct with
    | some a =>
      let counted := a.ready.filter fun y => !(s.second == some y)
      modCore (pushEw (endCycle { s with acct := none } c counted) c (if a.free then 0 else ew)) c fun k =>
        { k with deficits := newDeficits s c a.ready s.cur, issueNo := k.issueNo + 1 }
    | none => (modCore s c fun k => { k with ews := addEw k.ews ew }).onCtx fun x => { x with wdc := satInc x.wdc }
  let s := modDie s c.die fun y => { y with hasRun := true }
  s.onCtx fun x => { x with lastIssue := (coreAt s c).issueNo, blocked := false }

/-- A bundle that did not issue after all: its cycle was none, and a second context waits for the next choice. -/
def dropCycle (s : State) : State :=
  if s.acct.isSome then { s with acct := none, second := none } else s.onCtx fun c => { c with blocked := false }

/-- The counters of a core and its contexts as `u` has them. -/
def withCounters (u s : State) (c : CoreId) : State :=
  let s := modCore (modDie s c.die fun y => { y with hasRun := (dieAt u c.die).hasRun }) c fun k => { k with deficits := (coreAt u c).deficits, ews := (coreAt u c).ews, issueNo := (coreAt u c).issueNo }
  (residents u c).foldl (fun s x => modCtx s x fun k => { k with wdc := (ctxAt u x).wdc, lastIssue := (ctxAt u x).lastIssue }) s

/-- After a bundle that began in `u`, before its cycle was entered: where it did not issue, the cycle is not counted (R359, R368). -/
def leaveCycle (u s : State) : State :=
  if !s.ctx.blocked then s
  else
    let t := withCounters u s u.cur.core
    if u.acct.isSome then { t with second := none } else t.onCtx fun c => { c with blocked := false }

/-- The trap of a bundle that cannot be fetched (R139, R380). -/
def fetchTrap (va : BitVec 48) (f : AccFault) : Trap := ⟨f.code, .p, 0, va, accOpnd f false true false⟩

/-- The trap of an illegal bundle (R55, R380). -/
def illegalTrap (r : Illegal) (mask : BitVec 7) (w : BitVec 320) : Trap :=
  ⟨match r with
    | .illegalOpcode => cIllegalOpcode
    | .reservedField => cReservedField
    | .illegalBundle => cIllegalBundle, .p, mask, 0, bundleOpnd w⟩

/-- Runs the slots of a bundle in program order. -/
def runSlots (run : Instr → State → Host.Outcome State Fault Refusal) : List Instr → State → Host.Outcome State Fault Refusal
  | [], s => .next s
  | i :: l, s => match run i s with
    | .next t => runSlots run l t
    | .fault r => .fault r
    | .refused r => .refused r

/-- A header with RM = 1 ends the open region before its bundle (R60). -/
def markRegion (h : Header) (s : State) : State := if h.rm then endRegion s s.cur else s

/-- Executes a fetched bundle of the focused context. -/
def runBundle (run : Instr → State → Host.Outcome State Fault Refusal) (w : BitVec 320) (s : State) : Host.Outcome State Fault Refusal :=
  let v := enterCycle (bundleEw (some w)) s
  match decodeBundleIn s.ctx.te w with
  | .illegal r mask => .next (passTurn (bundleTrap v (illegalTrap r mask w)))
  | .legal b =>
    let v := markRegion b.hdr v
    match runSlots run b.slots (openBundle w b.slots v) with
    | .next t => .next (passTurn (leaveCycle s (closeBundle v t)))
    | .fault r => .fault r
    | .refused r => .refused r

/-- Deadlines that have passed are noted before a bundle, which may be the delivery point of their fault, and a watchdog whose count is reached
(R227, R368, R375, R381). -/
def beforeBundle (s : State) : State := noteWatchdog (noteMisses s s.cur) s.cur

/-- A read of a part of the bundle that lies outside the package leaves; the context waits for it (R11, R266). -/
def askFetch (p : Place) (va : BitVec 48) (n : Nat) (s : State) : State :=
  (sendAsk s s.cur.core.die p n .read (.fetch s.cur va)).onCtx fun c => { c with wait := .outside }

/-- The focused context fetches its bundle and executes it; a bundle of a migrating page waits (R45, R194). -/
def tryBundle (run : Instr → State → Host.Outcome State Fault Refusal) (s0 : State) : Host.Outcome State Fault Refusal :=
  let s := beforeBundle s0
  if !s.ctx.ready then .next (passTurn (dropCycle s))
  else match s.ctx.again with
  | some w => runBundle run w s
  | none => match s.ctx.bundleVa with
  | none =>
    .next (passTurn (bundleTrap (enterCycle 0 s) (fetchTrap (s.ctx.cbase + BitVec.ofNat 48 (40 * s.ctx.pc.toNat)) ⟨cPageNotPresent, false, none⟩)))
  | some va => match fetchBundle s s.ctx.fetched s.cur.core s.ctx.dom (groupWord s.ctx.grp) va with
    | .wait t => .next (passTurn (dropCycle (t.onCtx fun c => { c with blocked := true })))
    | .bad a f t => .next (passTurn (bundleTrap (enterCycle 0 t) (fetchTrap a f)))
    | .ask p a n t => .next (passTurn (dropCycle (askFetch p a n t)))
    | .ok w t => runBundle run w t

/-- A context's next bundle would issue now: a run of it alone, whose effects are not kept, does not wait (R359). -/
def wouldIssue (run : Instr → State → Host.Outcome State Fault Refusal) (s : State) (y : CtxId) : Bool :=
  match tryBundle run { focusOn s y with acct := some ⟨false, []⟩, second := none } with
  | .next t => !(ctxAt t y).blocked
  | _ => true

/-- The chosen context's bundle comes to issue; of the other contexts those count as ready in the cycle whose bundles would issue (R359, R368). -/
def issueBundle (run : Instr → State → Host.Outcome State Fault Refusal) (s : State) : Host.Outcome State Fault Refusal :=
  match s.acct with
  | some a => tryBundle run { s with acct := some { a with ready := a.ready.filter fun y => decide (y = s.cur) || wouldIssue run s y } }
  | none => tryBundle run s

/-! ### Time (R3, R16, R372) -/

/-- The context waits on a slack flag (R372). -/
def slackWaiting (s : State) (x : CtxId) : Bool :=
  match (ctxAt s x).wait with
  | .fwait fl _ _ _ _ _ _ _ => s.slackFlags.contains fl
  | _ => false

/-- What a rate within 100 ppm makes up of a difference to the master in ns ticks (R424). -/
def rateStep (ns : Nat) (off : Int) : Int :=
  let m : Int := ns / 10000
  if off < -m then -m else if m < off then m else off

/-- Time passes: timebases, core cycles, slack counters; before the start nothing counts (R17). -/
def advance (ns cyc : Nat) (s : State) : State :=
  if s.boot.phase == .off then s
  else
    let adj := rateStep ns s.tbOff
    let s := { s with tbOff := s.tbOff - adj
                      dies := s.dies.map fun y => { y with tb := y.tb + BitVec.ofInt 64 (ns + adj) }
                      cores := s.cores.map fun p => (p.1, { p.2 with cyc := p.2.cyc + cyc }) }
    ((allResidents s).filter (slackWaiting s)).foldl (fun s x =>
      modCore s x.core fun k => { k with slack := k.slack + BitVec.ofNat 32 ns, slackWaits := k.slackWaits + 1 }) s

/-- The step is over. -/
def tick (s : State) : State := advance (Config.elapsedNs s.clk) (Config.elapsedCyc s.clk) { s with clk := s.clk + 1 }

def ticked (o : Host.Outcome State Fault Refusal) : Host.Outcome State Fault Refusal :=
  match o with
  | .next s => .next (tick s)
  | .fault r => .fault r
  | .refused r => .refused r

/-! ### Events that the package takes by itself -/

/-- The events that need nothing from outside. -/
inductive Own where
  | watchdog (x : CtxId)
  | trapDelivery (x : CtxId)
  | suspendRecordWrite (x : CtxId)
  | strandDone (x : CtxId)
  | fwaitSatisfied (x : CtxId)
  | fwaitPoll (x : CtxId)
  | tmwaitExpiry (x : CtxId)
  | fenceComplete (x : CtxId)
  | preemptEscalation (x : CtxId)
  | contextSaveComplete (x : CtxId)
  | continuationTakeUp (x : CtxId)
  | restore (x : CtxId)
  | entryStart (x : CtxId) (n : Nat)
  | tileEntryComplete (x : CtxId) (n : Nat)
  | mmaComplete (x : CtxId) (n : Nat)
  | holdRelease (x : CtxId) (n : Nat)
  | deadlineMiss (x : CtxId) (n : Nat)
  | bankIdleOff (x : CtxId) (b : Fin 8)
  | bankRetention (x : CtxId) (b : Fin 8)
  | bankKillOff (x : CtxId) (b : Fin 8)
  | bankWakeDone (x : CtxId) (b : Fin 8)
  | issueChoice (c : CoreId)
  | copyStep (c : CoreId)
  | opSettleDone (c : CoreId)
  | spadClearDone (c : CoreId) (b : Fin 32)
  | spadWakeDone (c : CoreId) (b : Fin 32)
  | bankFailed (c : CoreId) (b : Fin 34)
  | gangAdmission (d : Fin 4)
  | bandwidthRefill (d : Fin 4)
  | heartbeatSend (d : Fin 4)
  | timebaseExchange (d : Fin 4)
  | mirrorCopyComplete (d : Fin 4)
  | selfTestTimeout (d : Fin 4)
  | selfTestReinitialisationDone (d : Fin 4)
  | heartbeatLoss (d i : Fin 4)
  | scrub (d : Fin 4) (line : BitVec 29)
  | msgRead (f : FlowId)
  | msgWrite (f : FlowId)
  | msgAtomic (f : FlowId)
  | msgFlagPost (f : FlowId)
  | msgForwardedAccess (f : FlowId)
  | msgMovedMarker (f : FlowId)
  | msgRangeSteal (f : FlowId)
  | msgReadData (f : FlowId)
  | msgWriteDone (f : FlowId)
  | msgAtomicResult (f : FlowId)
  | msgLostOrError (f : FlowId)
  | msgMirrorWrite (f : FlowId)
  | msgCheckpointEpoch (f : FlowId)
  | msgHeartbeat (f : FlowId)
  | msgConfiguration (f : FlowId)
  | msgServiceLevel (f : FlowId)
  | msgTimebase (f : FlowId)
  | ackTimeout (f : FlowId)
  | replayTimeout (f : FlowId)
  | energyRefill
  | restoreAndRelaunch
  | relaunchRetry
  | selfTestStart
  | bootTimeout
  | migrationCopyComplete (n : Nat)
  | frameCheckpoint (ts : Nat)
  | earlyCheckpoint (ts : Nat)
  deriving DecidableEq, Repr

/-- The meaning of each. -/
def Own.run (e : Own) (s : State) : Host.Outcome State Fault Refusal :=
  match e with
  | .watchdog x => execWatchdog x s
  | .trapDelivery x => execTrapDelivery x s
  | .suspendRecordWrite x => execSuspendRecordWrite x s
  | .strandDone x => execStrandDone x s
  | .fwaitSatisfied x => execFwaitSatisfied x s
  | .fwaitPoll x => execFwaitPoll x s
  | .tmwaitExpiry x => execTmwaitExpiry x s
  | .fenceComplete x => execFenceComplete x s
  | .preemptEscalation x => execPreemptEscalation x s
  | .contextSaveComplete x => execContextSaveComplete x s
  | .continuationTakeUp x => execContinuationTakeUp x s
  | .restore x => execRestore x s
  | .entryStart x n => execEntryStart x n s
  | .tileEntryComplete x n => execTileEntryComplete x n s
  | .mmaComplete x n => execMmaComplete x n s
  | .holdRelease x n => execHoldRelease x n s
  | .deadlineMiss x n => execDeadlineMiss x n s
  | .bankIdleOff x b => execBankIdleOff x b s
  | .bankRetention x b => execBankRetention x b s
  | .bankKillOff x b => execBankKillOff x b s
  | .bankWakeDone x b => execBankWakeDone x b s
  | .issueChoice c => execIssueChoice c s
  | .copyStep c => execCopyStep c s
  | .opSettleDone c => execOpSettleDone c s
  | .spadClearDone c b => execSpadClearDone c b s
  | .spadWakeDone c b => execSpadWakeDone c b s
  | .bankFailed c b => execBankFailed c b s
  | .gangAdmission d => execGangAdmission d s
  | .bandwidthRefill d => execBandwidthRefill d s
  | .heartbeatSend d => execHeartbeatSend d s
  | .timebaseExchange d => execTimebaseExchange d s
  | .mirrorCopyComplete d => execMirrorCopyComplete d s
  | .selfTestTimeout d => execSelfTestTimeout d s
  | .selfTestReinitialisationDone d => execSelfTestReinitialisationDone d s
  | .heartbeatLoss d i => execHeartbeatLoss d i s
  | .scrub d line => execScrub d line s
  | .msgRead f => execMsgRead f s
  | .msgWrite f => execMsgWrite f s
  | .msgAtomic f => execMsgAtomic f s
  | .msgFlagPost f => execMsgFlagPost f s
  | .msgForwardedAccess f => execMsgForwardedAccess f s
  | .msgMovedMarker f => execMsgMovedMarker f s
  | .msgRangeSteal f => execMsgRangeSteal f s
  | .msgReadData f => execMsgReadData f s
  | .msgWriteDone f => execMsgWriteDone f s
  | .msgAtomicResult f => execMsgAtomicResult f s
  | .msgLostOrError f => execMsgLostOrError f s
  | .msgMirrorWrite f => execMsgMirrorWrite f s
  | .msgCheckpointEpoch f => execMsgCheckpointEpoch f s
  | .msgHeartbeat f => execMsgHeartbeat f s
  | .msgConfiguration f => execMsgConfiguration f s
  | .msgServiceLevel f => execMsgServiceLevel f s
  | .msgTimebase f => execMsgTimebase f s
  | .ackTimeout f => execAckTimeout f s
  | .replayTimeout f => execReplayTimeout f s
  | .energyRefill => execEnergyRefill s
  | .restoreAndRelaunch => execRestoreAndRelaunch s
  | .relaunchRetry => execRelaunchRetry s
  | .selfTestStart => execSelfTestStart s
  | .bootTimeout => execBootTimeout s
  | .migrationCopyComplete n => execMigrationCopyComplete n s
  | .frameCheckpoint ts => execFrameCheckpoint ts s
  | .earlyCheckpoint ts => execEarlyCheckpoint ts s

/-- The events of a list whose condition holds. -/
def enabledOf (l : List (Bool × Own)) : List Own := l.filterMap fun p => if p.1 then some p.2 else none

/-- Events of a window entry. -/
def entryEvents (s : State) (x : CtxId) (e : Entry) : List Own :=
  enabledOf [(canStart s x e || canResume s x e, .entryStart x e.n), (canComplete s x e, .tileEntryComplete x e.n), (mmaDone s x e, .mmaComplete x e.n),
    (holdOver s x e, .holdRelease x e.n), (deadlinePassed s x e, .deadlineMiss x e.n)]

/-- Events of a vector bank. -/
def bankEvents (s : State) (x : CtxId) (b : Fin 8) : List Own :=
  enabledOf [(idleOffDue s x b, .bankIdleOff x b), (retentionDue s x b, .bankRetention x b), (killOffDue s x b, .bankKillOff x b), (vWakeDue s x b, .bankWakeDone x b)]

/-- An FWAIT that polls finds its value. -/
def pollMet (s : State) (x : CtxId) : Bool :=
  polls s x && (ctxAt s x).saving.isNone && match (ctxAt s x).wait with
    | .fwait fl _ v _ _ _ _ _ => flagReached s fl v
    | _ => false

/-- Events of an occupied context slot. -/
def ctxEvents (s : State) (x : CtxId) : List Own :=
  let c := ctxAt s x
  enabledOf [(watchDue s x, .watchdog x), (c.due.isSome && takesDue s x, .trapDelivery x),
    (recordReady s x, .suspendRecordWrite x), (haltReady s x, .strandDone x),
    (fwaitMet s x, .fwaitSatisfied x), (pollMet s x, .fwaitPoll x), (timeReached s x, .tmwaitExpiry x), (fenceMet s x, .fenceComplete x),
    (saveable s x && atBoundary s x && escalationDue s x, .preemptEscalation x), (saveReady s x, .contextSaveComplete x)]
    ++ c.win.flatMap (entryEvents s x)

/-- Cores that hold state of their own. -/
def activeCores (s : State) : List CoreId := dedup ((s.cores.map Prod.fst) ++ (allResidents s).map CtxId.core)

/-- Events of a core. -/
def coreEvents (s : State) (c : CoreId) : List Own :=
  let k := coreAt s c
  enabledOf [(canChoose s c, .issueChoice c), (copyDue s c, .copyStep c), (k.settle.isSome, .opSettleDone c)]
    ++ (List.finRange 32).flatMap fun b =>
      enabledOf [(k.sbank[b.val].st == .clearing, .spadClearDone c b), (k.sbank[b.val].st == .waking, .spadWakeDone c b),
        (bankFailDue s c (b.castLE (by omega)), .bankFailed c (b.castLE (by omega)))]

/-- Take-ups and restores that a die's queues allow. -/
def queueEvents (s : State) (d : Fin 4) : List Own :=
  let y := dieAt s d
  (if y.contq.isEmpty && y.saved.isEmpty then [] else
    (coresOf d).flatMap fun c => (slotsOf c).flatMap fun x =>
      enabledOf [((match takeUpChoice s x with
          | some e => noAdmissionAbove s d (recLevel e.record) && !restoreAt s d (recLevel e.record)
          | none => false), .continuationTakeUp x),
        ((match restoreChoice s x with
          | some v => restoreTurn s d v
          | none => false), .restore x)])
    ++ enabledOf [((match admissionLevel s d with
          | some p => !takeUpAt s d p && !restoreAt s d p
          | none => false), .gangAdmission d)]

/-- Events of a die. -/
def dieEvents (s : State) (d : Fin 4) : List Own :=
  queueEvents s d
    ++ enabledOf [(bandwidthDue s d, .bandwidthRefill d), (heartbeatDue s d, .heartbeatSend d), (exchangeDue s d, .timebaseExchange d),
      ((dieAt s d).recopy.isSome && serves s d && (hingePartner s d).isSome, .mirrorCopyComplete d),
      (underTest s d && decide (40000000 ≤ testTime s d), .selfTestTimeout d),
      (regSt s d == .testing && (dieAt s d).reinit, .selfTestReinitialisationDone d)]
    ++ (allDies.filter fun i => suspects s d i && declares s d i).map (fun i => .heartbeatLoss d i)
    ++ (s.latent.filter fun p => decide (p.1 / 2 ^ 29 = d.val) && serves s d).map fun p => .scrub d (BitVec.ofNat 29 p.1)

/-- The event that takes a message, by its TYPE (R310). -/
def messageOf (f : FlowId) (ty : BitVec 8) : Own :=
  match ty.toNat with
  | 0x02 => .msgWrite f
  | 0x03 => .msgAtomic f
  | 0x04 => .msgFlagPost f
  | 0x05 => .msgForwardedAccess f
  | 0x06 => .msgMovedMarker f
  | 0x07 => .msgRangeSteal f
  | 0x41 => .msgReadData f
  | 0x42 => .msgWriteDone f
  | 0x43 => .msgAtomicResult f
  | 0x44 => .msgLostOrError f
  | 0x81 => .msgMirrorWrite f
  | 0x82 => .msgCheckpointEpoch f
  | 0xC1 => .msgHeartbeat f
  | 0xC2 => .msgConfiguration f
  | 0xC3 => .msgServiceLevel f
  | 0xC4 => .msgTimebase f
  | _ => .msgRead f

/-- Events of a flow. -/
def flowEvents (s : State) (f : FlowId) : List Own :=
  (match nextWire s f with
    | some w => [messageOf f (hdrType w.hdr)]
    | none => [])
    ++ enabledOf [(f.dpkg == s.pkg && (flowAt s f).ackDue, .ackTimeout f), (replayDue s f, .replayTimeout f)]

/-- Events of task sets, moves, budgets and the start. -/
def packageEvents (s : State) : List Own :=
  enabledOf [(energyDue s, .energyRefill), ((s.tasksets.any TaskSet.restore) && !(s.dies.toList.any Die.reinit), .restoreAndRelaunch),
    (s.tasksets.any fun t => !t.refused.isEmpty, .relaunchRetry), ((match nextTested s with
      | some d => testable s d
      | none => false), .selfTestStart), (bootLate s, .bootTimeout)]
    ++ s.migrs.map (fun m => .migrationCopyComplete m.n)
    ++ s.tasksets.flatMap fun t =>
      enabledOf [(t.ckptDue && t.running.isEmpty && t.refused.isEmpty && !t.restore && t.active.isSome, .frameCheckpoint t.reg.tsid.toNat),
        (earlyDue s t && !t.restore && t.active.isSome && noGroups s t.reg.tsid, .earlyCheckpoint t.reg.tsid.toNat)]

/-- Every event that the package can take by itself now; none before its start and after one that failed (R425). -/
def candidates (s : State) : List Own :=
  if s.boot.phase == .off || s.boot.phase == .failed then []
  else
    ((allResidents s).filter fun x => serves s x.core.die).flatMap (ctxEvents s)
      ++ ((allCtx s).filter fun x => serves s x.core.die).flatMap (fun x => (List.finRange 8).flatMap (bankEvents s x))
      ++ ((activeCores s).filter fun c => serves s c.die).flatMap (coreEvents s)
      ++ allDies.flatMap (dieEvents s)
      ++ (s.flows.map Prod.fst).flatMap (flowEvents s)
      ++ packageEvents s

/-- No die is live, testing or held. -/
def noDie (s : State) : Bool := allDies.all fun d => regSt s d == .lost

/-- The free choice of the next event (log entry 4). -/
def chosen (s : State) (l : List Own) : Option Own := l[Config.pick s.clk % l.length]?

/-! ### A program placed where the next step fetches (log entry 17) -/

/-- The code's granule and, below it, the granule of its page tables, on die 0. -/
def codeBase : Nat := 5 * 2 ^ 18
def tableBase : Nat := 4 * 2 ^ 18

/-- A page table that maps virtual granule 0 to the code's granule, and the code. -/
def placeCode (m : List Host.Cell) (w : Nat) : List Host.Cell :=
  let m := memWrite m tableBase 8 (tableBase + 8192 + 1)
  let m := memWrite m (tableBase + 8192) 8 (tableBase + 16384 + 1)
  let m := memWrite m (tableBase + 16384) 8 (codeBase + 15)
  memWrite m codeBase 40 w

/-- Domain 1: sixteen granules of die 0 and one core. -/
def codeDom (c : CoreId) : Dom :=
  { Dom.root with id := 1, depth := 1, ptroot := BitVec.ofNat 52 tableBase, comp := [⟨0, 0, 16, true, true, true⟩],
                  cores := [⟨c, 0, BitVec.ofNat 6 c.core.val⟩] }

/-- The focused context stands before the bundle w. -/
def placeProgram (s : State) (w : Nat) : State :=
  let c := s.cur.core
  let s := modCore s c fun k => { k with tlb := [], istore := [] }
  let s := putDom s (codeDom c)
  { s with
    mem := placeCode s.mem w
    dies := s.dies.map fun y => { y with tlb := [] }
    ctx := { s.ctx with
      occ := .strand, dom := 1, depth := 1, pc := 0, cbase := 0, wait := .none, waits := [], resume := [], saving := none, due := none, fetched := [], reply := [], again := none }
    frame := none
    agenda := []
    acct := none
    turn := true }

end Sys2Proof.Machine
end

