-- ==== Sys2Proof/Machine/Step.lean ====
section
/-! DEFINITION. One step: an event from outside that has arrived, else the bundle of the context that was chosen to issue, else an event that
the package takes by itself, else time alone. -/

namespace Sys2Proof.Machine

/-- An event from outside acts; an instruction is none. -/
def takeOutside (i : Instr) (s : State) : Host.Outcome State Fault Refusal := if i.slot.isSome then .next s else exec i s

/-- The event that the package takes by itself. -/
def takeInside (s : State) : Host.Outcome State Fault Refusal :=
  match chosen s (candidates s) with
  | some e => e.run s
  | none => if noDie s then .fault .noLiveDie else .next s

/-- One step. -/
def step (s : State) : Host.Outcome State Fault Refusal :=
  match s.agenda with
  | i :: l => ticked (takeOutside i { s with agenda := l })
  | [] => if s.turn then ticked (issueBundle exec s) else ticked (takeInside s)

/-- The bundle whose bits are w stands where the next step fetches (log entry 17). -/
def State.withFetchWord (s : State) (_nbits w : Nat) : State := placeProgram s w

end Sys2Proof.Machine
end

