-- ==== Sys2Proof/Safety.lean ====
section
/-! DEFINITION. What counts as a safe state and a safe step: the memory in its canonical form, no bundle half done, and a step that does not stop. -/

namespace Sys2Proof.Machine

/-- Device memory is in its canonical form. -/
def State.memGood (s : State) : Prop := memWf s.mem = true

/-- Between steps no bundle is half done. -/
def State.settledFrame (s : State) : Prop := s.frame = none

/-- The step goes on. -/
def Continues (s : State) : Prop := ∃ t, step s = .next t

/-- n steps that all go on. -/
def SafeRun : Nat → State → Prop
  | 0, _ => True
  | n + 1, s => ∃ t, step s = .next t ∧ SafeRun n t

/-! ### One bundle that commits -/

/-- Nothing stands between the focused context and its next bundle: no bundle is half done, a strand occupies the slot, no deferred fault is
owed to it outside a handler (spec/15 R381), its open region takes one more bundle (spec/03 R60), and no access of the bundle outside the package
has been answered yet (log entry 6). -/
def State.Calm (s : State) : Prop :=
  s.frame = none ∧ s.ctx.occupied = true ∧ (s.ctx.te = true → owedList s.ctx = []) ∧
    (s.ctx.region.shadow.isSome = true → s.ctx.region.count < 256) ∧ s.ctx.reply = []

/-- The context without what the commit of every bundle moves by itself: the pc, the copies of FPC and RWP (R120), flags in flight (R121), the
issue's cycle, the bundle's bytes and replies from outside that it used up, the region's bookkeeping (R60) and the cycles of the banks' last
accesses (R110). -/
def Ctx.plain (c : Ctx) : Ctx :=
  { c with pc := 0, livep := c.livep ||| 1, fpc := 0, flight := [], issued := 0, eff := Eff.reset, effq := Vector.replicate 3 Eff.reset,
           fresh := false, fetched := [], reply := [], again := none, region := Region.none, vbank := c.vbank.map fun k => { k with last := 0 } }

/-- The stores that the open region buffers (R61). -/
def Ctx.buffered (c : Ctx) : List GStore := if c.region.shadow.isSome then c.region.stores else []

/-- `t` is what the commit of a bundle makes of the state `u` that its slots leave: nothing outside the focused context differs, inside it only
what every commit moves; the next bundle is at `pc`; flags in flight stay so or have reached AF; the buffered stores are those of `u`. -/
def Commits (u t : State) (pc : Pc) : Prop :=
  t.frame = none ∧ { t with ctx := u.ctx, frame := u.frame } = u ∧ t.ctx.plain = u.ctx.plain ∧ t.ctx.pc = pc ∧
    t.ctx.fpc.setWidth 9 = u.ctx.fpc.setWidth 9 ∧ t.ctx.landAll.fpc = u.ctx.landAll.fpc ∧ t.ctx.buffered = u.ctx.buffered

/-- The instruction, issued alone, completes: it answers what a commit makes of `u`, with the next bundle at `pc`. -/
def Completes (i : Instr) (s u : State) (pc : Pc) : Prop := ∃ t, exec i s = .next t ∧ Commits u t pc

/-- The state in which the slots of a bundle of one instruction act: the bundle has begun (R53). -/
def begun (i : Instr) (s : State) : State := openBundle (encodeBundle i) [i] s

/-- The instruction, issued alone, raises the cause `t` in slot `sl`: its bundle commits nothing, and the trap is taken (R54, R375, R376). -/
def Traps (i : Instr) (s : State) (sl : SlotId) (t : Trap) : Prop := exec i s = .next (bundleTrap s { t with mask := slotBit sl })

/-- The core's TLB holds entry `e` for an access to `va` in the focused context's domain; the entry allows the access, its page is neither
discarded nor migrating, and the bytes have the place `p` (R182, R186, R193, R194, R317). -/
def Maps (s : State) (va : BitVec 48) (acc : Access) (e : Tlb) (p : Place) : Prop :=
  tlbFind (coreAt s s.cur.core).tlb s.ctx.dom va acc = some e ∧ e.allows acc = true ∧ e.st ≠ 1 ∧ e.st ≠ 2 ∧
    placeOf s e.pl e.ps e.hd (e.ppn ++ va.extractLsb' 0 18) = .ok p ∧ homeAwaited s s.cur.core.die p = false

/-! ### What a bundle leaves in register files -/

/-- A predicate destination: written under the rotation base, live from now on; p0 is not written (R103, R104, R106). -/
def Ctx.giveP (c : Ctx) (n : BitVec 4) (v : PReg) : Ctx :=
  let k := physP c.prb n
  if k = 0 then c else { c with preg := c.preg.set k.toNat v k.isLt, livep := c.livep ||| oneBit 16 k.toNat }

/-- Flags that an operation raised without a trap reach AF when it completes (R121): the context that stands then. -/
def State.flagged (s : State) (fl : Fl) : State := s.onCtx fun c => c.accrue fl

/-- A vector register that a source can be read from: live, of good parity, in a bank at full power (R107, R111, R115). -/
def Ctx.Readable (c : Ctx) (n : BitVec 5) : Prop :=
  c.vLive n = true ∧ (∀ q ∈ c.vpar, q.1.val ≠ (physV c.vrb n).toNat) ∧ (c.bank (physV c.vrb n)).st = .full

/-- A source read with its last-use mark (R106). -/
def Ctx.dropV (c : Ctx) (n : BitVec 5) (mark : BitVec 1) : Ctx :=
  if mark = 1 then { c with livev := c.livev &&& ~~~oneBit 32 (physV c.vrb n).toNat } else c

/-- A bank that is written: one that is not at full power wakes, in 24 cycles when it was off, in 8 when it was in retention (R110, R111). -/
def VBank.written (k : VBank) (cyc : Nat) : VBank :=
  match k.st with
  | .off => { k with st := .waking, ready := cyc + 24 }
  | .retention => { k with st := .waking, ready := cyc + 8 }
  | .full => k
  | .waking => k

/-- A vector destination: written under the rotation base, live from now on, its bank awake (R102, R104, R106, R110). The words that `wrote` tells
get new parity; the others keep their contents and their parity, unless the register was dead (R115). -/
def Ctx.giveV (c : Ctx) (cyc : Nat) (n : BitVec 5) (dead : Bool) (wrote : Nat → Bool) (v : VReg) : Ctx :=
  let k := physV c.vrb n
  { c with vreg := c.vreg.set k.toNat v k.isLt
           vpar := c.vpar.filter fun p => !(p.1.val == k.toNat && (dead || wrote p.2.val))
           livev := c.livev ||| oneBit 32 k.toNat
           vbank := c.vbank.set (bankOf k).val ((c.bank k).written cyc) }

/-- The cycle of the focused context's core. -/
def State.coreCyc (s : State) : Nat := (coreAt s s.cur.core).cyc

/-- What a vector element instruction leaves: the instruction `i` in slot `sl` computes `f j` for each active element j of `n` elements of `w` bits and
writes register `vd` over `width` bits; the inactive elements keep the old ones, or are zero under Z or in a dead register; the bits from the last element up to the width are zero
(R166), those above the width stay (R102, R154); with an enabled flag among those that active elements raise the bundle traps, with the lowest element that raised one (R156, R380). -/
def ElementWise (i : Instr) (s : State) (sl : SlotId) (o : VE) (w n : Nat) (drop : Ctx → Ctx) (f : Nat → Res) : Prop :=
  let width := VE.bits_ o
  let old := (s.oldV o.vd).toNat
  let act (j : Nat) : Bool := (s.ctx.p o.pg).getLsbD (j * (w / 8))
  let fl := (List.range n).foldl (fun a j => if act j then a ||| (f j).fl else a) 0
  (fl &&& s.ctx.en = 0 → ∃ v : VReg,
    Completes i s ((s.onCtx fun c => (drop c).giveV s.coreCyc o.vd (!s.ctx.vLive o.vd) (VE.wrote o w n (s.ctx.p o.pg)) v).flagged fl) (s.ctx.pc + 1) ∧
    (∀ j, j < n → elemAt v.toNat w j = if act j then (f j).bits % 2 ^ w else if o.z = 1 then 0 else elemAt old w j) ∧
    (∀ k, n * w ≤ k → k < width → v.getLsbD k = false) ∧ v.toNat / 2 ^ width = old / 2 ^ width) ∧
  (fl &&& s.ctx.en ≠ 0 → ∃ low, low < n ∧ act low = true ∧ (f low).fl ≠ 0 ∧ (∀ j, j < low → act j = true → (f j).fl = 0) ∧
    Traps i s sl (precise cFpException [fl.setWidth 64, BitVec.ofNat 64 low]))

/-- What a crossbar instruction of slot X leaves: `g j` in every element of vd (R170). -/
def Crossed (i : Instr) (s : State) (o : XB) (g : Nat → Nat) : Prop :=
  ∃ v : VReg, Completes i s (s.onCtx fun c => c.giveV s.coreCyc o.vd (!s.ctx.vLive o.vd) (wroteWord (BitVec.allOnes 128) (esBytes o.es) (XB.count o)) v)
      (s.ctx.pc + 1) ∧
    ∀ j, j < XB.count o → elemAt v.toNat (XB.eb o) j = g j

/-! ### Scalar memory accesses -/

/-- The bytes at `p` hold no changed symbols that no read has met yet, and are not poisoned (R196, R207). -/
def Clean (s : State) (d : Fin 4) (off : Nat) : Prop := tabGet? s.latent (lineKey d off) = none ∧ linePoisoned s (lineKey d off) = false

/-- The byte that a buffered store to device memory leaves at key `k`, when it stores there (R61). -/
def GStore.cover (s : State) (g : GStore) (k : Nat) : Option Byte :=
  match g.place s with
  | .mem d off => if memKey d off ≤ k ∧ k < memKey d off + g.size then some (BitVec.ofNat 8 (g.val.toNat / 256 ^ (k - memKey d off))) else none
  | .host _ => none
  | .pkg _ _ _ => none
  | .lost _ => none

/-- The context with one more store in its gated buffer (R61, R62). -/
def Ctx.buffer (c : Ctx) (g : GStore) : Ctx := { c with region := ⟨0, 0, some c.shadowOf, c.buffered ++ [g], 0⟩ }

/-- One of the load, store and atomic instructions traps in slot S with the operand record and address of a memory cause (R380). -/
def Faults (i : Instr) (s : State) (va : BitVec 48) (code : BitVec 8) (da : BitVec 52) (write rollback : Bool) : Prop :=
  Traps i s .s ⟨code, if rollback then .b else .p, 0, va, [if write then 2 else 0, da.setWidth 64]⟩

/-! ### Entering the tile window -/

/-- The focused context's next T-slot bundle meets an empty window, no buffered store and no rewrite rule (R278, R281). -/
def State.Clear (s : State) : Prop := s.Calm ∧ s.ctx.win = [] ∧ s.ctx.buffered = [] ∧ (coreAt s s.cur.core).rules = []

/-- A layout record of zeros: what an entry without one carries. -/
def Lay.zero : Lay := Vector.replicate 12 0

/-- The T-slot instruction `i` completes at issue: its entry stands in the window with the captured scalar, record, FPC and RWP and the tiles that it names,
the cycle at which it came to stand first, the tiles that it frees leave the handle map, and nothing else of `base` changes; with a deadline its issue is a flush point (R120, R227, R230, R236, R278). -/
def Enters (i : Instr) (s base : State) (sval : Word) (lay : Lay) (td ta tb : Option TRef) (frees : List TRef) (dl : Option (BitVec 64)) : Prop :=
  ∃ e : Entry,
    Completes i s ((frees.foldl unmapTile base).onCtx fun c =>
      { c with win := [e], nextEntry := s.ctx.nextEntry + 1, headAt := s.coreCyc, flushed := c.flushed || dl.isSome }) (s.ctx.pc + 1) ∧
    e.n = s.ctx.nextEntry ∧ e.pc = s.ctx.pc ∧ e.slot = encode i ∧ e.sval = sval ∧ e.lay = lay ∧ e.td = td ∧ e.ta = ta ∧ e.tb = tb ∧ e.frees = frees ∧
    e.st = .pending ∧ e.owed = none ∧ e.rule = none ∧ e.prog = 0 ∧ e.dl = dl ∧ e.shut = dl.isSome ∧ e.fpc.setWidth 9 = s.ctx.eff.fpc ∧ e.rwp = s.ctx.eff.rwp

/-- A T-slot instruction fails a check of its operands: the cause, with the slot value and the check's number (R225, R380). -/
def Refuses (i : Instr) (s : State) (code : BitVec 8) (num : Word) : Prop := Traps i s .t (precise code [(encode i).setWidth 64, num])

/-! ### System instructions -/

/-- A supervisor context that is ready to issue, with nothing of its own outstanding (R151, R327). -/
def State.Supervisor (s : State) : Prop :=
  s.Calm ∧ s.ctx.priv = true ∧ s.ctx.win = [] ∧ s.ctx.region.stores = [] ∧ storesOut s s.cur = false

/-- The state in which a system instruction acts: its bundle has begun, needs every earlier access performed and will end its region (R60, R264,
R327). -/
def sysOpen (i : Instr) (s : State) : State := (begun i s).onFrame fun f => { f with endsRegion := true, drains := true }

/-- The system instruction completes with the act `u` and its result. -/
def Answers (i : Instr) (s : State) (o : SY) (u : State) (v : Word) : Prop := Completes i s (u.setS o.sd v) (s.ctx.pc + 1)

/-- The system instruction completes with nothing changed but its result: bit 63 and the refusal code (R327). -/
def Refused (i : Instr) (s : State) (o : SY) (code : Nat) : Prop := Completes i s (s.setS o.sd (0x8000000000000000 ||| BitVec.ofNat 64 code)) (s.ctx.pc + 1)

/-- Requests for words of a record, each counted (R307, R370). -/
def State.readsOf (s : State) (ps : List Place) : State := ps.foldl (fun s p => s.request p) s

/-- The system instruction completes with nothing changed but its result, the refusal code, and the counted reads of its descriptor (R327). -/
def RefusedAt (i : Instr) (s : State) (ps : List Place) (o : SY) (code : Nat) : Prop :=
  Completes i s ((s.readsOf ps).setS o.sd (0x8000000000000000 ||| BitVec.ofNat 64 code)) (s.ctx.pc + 1)

/-- What a DREVOKE, a DKILL or a TLBINV leaves after its act `u`: its result, and the wait for the accesses of `doms` that have not been performed and
for contexts of theirs on a core that they have lost; where none is left, it is done at once, and a DKILL frees its domains (R331, R332, R335). -/
def drained (u : State) (o : SY) (doms : List (BitVec 12)) (free : Bool) : State :=
  let v := markStores (u.setS o.sd 0) doms
  if accessesOut v doms v.nextTag = true ∨ leavesCore v doms = true then v.onCtx fun c => c.awaits (.drain doms v.nextTag free) else if free = true then freeDomains v doms else v

/-- The system instruction completes with the act `u`, its result 0 and its wait, if any. -/
def Drains (i : Instr) (s : State) (o : SY) (u : State) (doms : List (BitVec 12)) (free : Bool) : Prop :=
  Completes i s (drained u o doms free) (s.ctx.pc + 1)

/-- The descriptor of n words at an aligned address, in clean device memory that the core's TLB maps: where its words stand and what they hold
(R327). -/
def Describes (s : State) (a : Word) (n : Nat) (ps : List Place) (l : List Word) : Prop :=
  a.toNat % 8 = 0 ∧ a.toNat + 8 * n ≤ 2 ^ 48 ∧ ps.length = n ∧ l.length = n ∧
    ∀ k, k < n → ∃ e d off, ps[k]? = some (.mem d off) ∧ Maps s (BitVec.ofNat 48 (a.toNat + 8 * k)) .read e (.mem d off) ∧ Clean s d off ∧
      l[k]? = some (BitVec.ofNat 64 (memRead s.mem (memKey d off) 8))

/-- The act left the issuing strand as it was, but for waits that a post satisfied and the watchdog's count that their end clears (R43, R368). -/
def Untouched (b u : State) : Prop :=
  u.frame = b.frame ∧ u.cur = b.cur ∧ { u.ctx with wait := b.ctx.wait, waits := b.ctx.waits, resume := b.ctx.resume, wdc := b.ctx.wdc } = b.ctx

/-- The operand names a child of the acting domain that is not dying (R322, R330). -/
def OwnChild (s : State) (w : Word) (x : Dom) : Prop := domAt? s (w.setWidth 12) = some x ∧ x.id ≠ 0 ∧ x.parent = s.ctx.dom ∧ x.dying = false

/-! ### Events -/

/-- The event acts where its condition holds, with the given state after it; where it does not hold, nothing changes (log entry 8). -/
def Happens (i : Instr) (ok : Prop) (s t : State) : Prop := (ok → exec i s = .next t) ∧ (¬ ok → exec i s = .next s)

/-- The context holds a strand that is not being saved. -/
def Ctx.Stands (c : Ctx) : Prop := c.occupied = true ∧ c.saving = none

/-- No bundle of the context is chosen or under way: it stands at a boundary. -/
def State.Between (s : State) (x : CtxId) : Prop := s.frame = none ∧ ¬ (s.turn = true ∧ (x = s.cur ∨ s.second = some x))

end Sys2Proof.Machine
end

