-- ==== Sys2Proof/Certificates/Slice0/Obligations.lean ====
section
/-! DEFINITION. The statements for the provers. -/

open Sys2Proof Sys2Proof.Machine

/-- Add, subtract, logic, minimum, maximum, comparison, SEL and their immediate forms complete with the value of R125 (R125). -/
def Obligations.ScalarArithmetic : Prop :=
  ∀ (s : State) (sl : CS) (o : RR) (q : RI), s.Calm →
    let a := s.ctx.s o.sa
    let b := s.ctx.s o.sb
    let x := s.ctx.s q.sa
    let imm : Word := q.imm.signExtend 64
    let rr (i : Instr) (v : Word) : Prop := Completes i s (s.setS o.sd v) (s.ctx.pc + 1)
    let ri (i : Instr) (v : Word) : Prop := Completes i s (s.setS q.sd v) (s.ctx.pc + 1)
    rr (.add sl o) (a + b) ∧ rr (.sub sl o) (a - b) ∧ rr (.and sl o) (a &&& b) ∧ rr (.or sl o) (a ||| b) ∧ rr (.xor sl o) (a ^^^ b) ∧
    rr (.min sl o) (if a.toInt < b.toInt then a else b) ∧ rr (.max sl o) (if a.toInt < b.toInt then b else a) ∧
    rr (.minu sl o) (if a.toNat < b.toNat then a else b) ∧ rr (.maxu sl o) (if a.toNat < b.toNat then b else a) ∧
    rr (.slt sl o) (if a.toInt < b.toInt then 1 else 0) ∧ rr (.sltu sl o) (if a.toNat < b.toNat then 1 else 0) ∧
    rr (.sel sl o) (if s.ctx.s o.sc = 0 then b else a) ∧
    ri (.addi sl q) (x + imm) ∧ ri (.andi sl q) (x &&& imm) ∧ ri (.ori sl q) (x ||| imm) ∧ ri (.xori sl q) (x ^^^ imm)

/-- Shifts and the rotation complete with the value of R126; the amount is six bits (R126). -/
def Obligations.ScalarShifts : Prop :=
  ∀ (s : State) (sl : CS) (o : RR) (q : RI), s.Calm →
    let a := s.ctx.s o.sa
    let k := (s.ctx.s o.sb).toNat % 64
    let x := s.ctx.s q.sa
    let m := q.imm.toNat % 64
    let rr (i : Instr) (v : Word) : Prop := Completes i s (s.setS o.sd v) (s.ctx.pc + 1)
    let ri (i : Instr) (v : Word) : Prop := Completes i s (s.setS q.sd v) (s.ctx.pc + 1)
    rr (.shl sl o) (BitVec.ofNat 64 (a.toNat * 2 ^ k)) ∧ rr (.shr sl o) (BitVec.ofNat 64 (a.toNat / 2 ^ k)) ∧
    rr (.sar sl o) (BitVec.ofInt 64 (a.toInt / 2 ^ k)) ∧
    (∃ v : Word, rr (.ror sl o) v ∧ ∀ j, j < 64 → v.getLsbD j = a.getLsbD ((j + k) % 64)) ∧
    ri (.shli sl q) (BitVec.ofNat 64 (x.toNat * 2 ^ m)) ∧ ri (.shri sl q) (BitVec.ofNat 64 (x.toNat / 2 ^ m)) ∧
    ri (.sari sl q) (BitVec.ofInt 64 (x.toInt / 2 ^ m))

/-- MUL, MULH and MULHU complete with the two halves of the 128-bit product (R127). -/
def Obligations.ScalarMultiply : Prop :=
  ∀ (s : State) (sl : CS) (o : RR), s.Calm →
    let a := s.ctx.s o.sa
    let b := s.ctx.s o.sb
    let rr (i : Instr) (v : Word) : Prop := Completes i s (s.setS o.sd v) (s.ctx.pc + 1)
    rr (.mul sl o) (BitVec.ofInt 64 (a.toInt * b.toInt)) ∧ rr (.mul sl o) (BitVec.ofNat 64 (a.toNat * b.toNat)) ∧
    rr (.mulh sl o) (BitVec.ofInt 64 (a.toInt * b.toInt / 2 ^ 64)) ∧ rr (.mulhu sl o) (BitVec.ofNat 64 (a.toNat * b.toNat / 2 ^ 64))

/-- DIV, DIVU, REM and REMU complete with the quotient and remainder of R128, division by zero and overflow included (R128). -/
def Obligations.ScalarDivide : Prop :=
  ∀ (s : State) (sl : CS) (o : RR), s.Calm →
    let a := s.ctx.s o.sa
    let b := s.ctx.s o.sb
    let rr (i : Instr) (v : Word) : Prop := Completes i s (s.setS o.sd v) (s.ctx.pc + 1)
    (b = 0 → rr (.div sl o) (BitVec.ofNat 64 (2 ^ 64 - 1)) ∧ rr (.divu sl o) (BitVec.ofNat 64 (2 ^ 64 - 1)) ∧ rr (.rem sl o) a ∧ rr (.remu sl o) a) ∧
    (a.toInt = -(2 ^ 63) ∧ b.toInt = -1 → rr (.div sl o) (BitVec.ofInt 64 (-(2 ^ 63))) ∧ rr (.rem sl o) 0) ∧
    (b ≠ 0 ∧ ¬ (a.toInt = -(2 ^ 63) ∧ b.toInt = -1) → ∃ q r : Int, a.toInt = q * b.toInt + r ∧ r.natAbs < b.toInt.natAbs ∧
      (r ≠ 0 → r.sign = a.toInt.sign) ∧ rr (.div sl o) (BitVec.ofInt 64 q) ∧ rr (.rem sl o) (BitVec.ofInt 64 r)) ∧
    (b ≠ 0 → rr (.divu sl o) (BitVec.ofNat 64 (a.toNat / b.toNat)) ∧ rr (.remu sl o) (BitVec.ofNat 64 (a.toNat % b.toNat)))

/-- CLZ, CTZ and POPC complete with the number of leading zeros, trailing zeros and one bits (R129). -/
def Obligations.ScalarCounts : Prop :=
  ∀ (s : State) (sl : CS) (o : RR), s.Calm →
    let a := s.ctx.s o.sa
    let rr (i : Instr) (v : Word) : Prop := Completes i s (s.setS o.sd v) (s.ctx.pc + 1)
    (∃ n, n ≤ 64 ∧ rr (.clz sl o) (BitVec.ofNat 64 n) ∧ (∀ j, 64 - n ≤ j → a.getLsbD j = false) ∧ (n < 64 → a.getLsbD (63 - n) = true)) ∧
    (∃ n, n ≤ 64 ∧ rr (.ctz sl o) (BitVec.ofNat 64 n) ∧ (∀ j, j < n → a.getLsbD j = false) ∧ (n < 64 → a.getLsbD n = true)) ∧
    rr (.popc sl o) (BitVec.ofNat 64 ((List.range 64).filter fun j => a.getLsbD j).length)

/-- MOVI, MOVK and SEXT complete with the constant, the insert and the sign extension of R130 (R130). -/
def Obligations.ScalarConstants : Prop :=
  ∀ (s : State) (sl : CS) (m : MI) (k : MK) (q : RI), s.Calm →
    let b := q.imm.toNat % 64 + 1
    Completes (.movi sl m) s (s.setS m.sd (m.imm.signExtend 64)) (s.ctx.pc + 1) ∧
    (∃ v : Word, Completes (.movk sl k) s (s.setS k.sd v) (s.ctx.pc + 1) ∧
      ∀ j, j < 64 → v.getLsbD j = if 16 * k.pos.toNat ≤ j ∧ j < 16 * k.pos.toNat + 16 then k.imm.getLsbD (j - 16 * k.pos.toNat)
        else (s.ctx.s k.sd).getLsbD j) ∧
    Completes (.sext sl q) s (s.setS q.sd (((s.ctx.s q.sa).setWidth b).signExtend 64)) (s.ctx.pc + 1)

/-- SFADD, SFSUB, SFMUL and SFFMA complete with the exact result rounded once under RM, its flags reaching AF (R131, R132, R121, R101). -/
def Obligations.FloatArithmetic : Prop :=
  ∀ (s : State) (sl : CS) (o : RR), s.Calm →
    let f := if o.p = 1 then Fmt.fp64 else Fmt.fp32
    let val (n : BitVec 5) : Val := f.decode ((s.ctx.s n).toNat % 2 ^ f.width)
    let rm := Rm.ofBits s.ctx.rm
    let out (i : Instr) (v : VRes) : Prop :=
      let r := f.round rm v.val
      let fl := r.fl ||| v.fl
      (fl &&& s.ctx.en = 0 → Completes i s ((s.setS o.sd (BitVec.ofNat 64 r.bits)).flagged fl) (s.ctx.pc + 1)) ∧
      (fl &&& s.ctx.en ≠ 0 → Traps i s sl.id (precise cFpException [fl.setWidth 64]))
    out (.sfadd sl o) (Val.add (rm == .rdn) (val o.sa) (val o.sb)) ∧
    out (.sfsub sl o) (Val.add (rm == .rdn) (val o.sa) (val o.sb).neg) ∧
    out (.sfmul sl o) (Val.mul (val o.sa) (val o.sb)) ∧
    out (.sffma sl o) (Val.fma (rm == .rdn) (val o.sa) (val o.sb) (val o.sc))

/-- SFMIN, SFMAX, SFCMP and SFCVT complete with the result of R133 to R135, or take the FP-exception trap (R131, R133, R134, R135, R121). -/
def Obligations.FloatSelectCompareConvert : Prop :=
  ∀ (s : State) (sl : CS) (o : RR), s.Calm →
    let f := if o.p = 1 then Fmt.fp64 else Fmt.fp32
    let g := if o.p = 1 then Fmt.fp32 else Fmt.fp64
    let val (n : BitVec 5) : Val := f.decode ((s.ctx.s n).toNat % 2 ^ f.width)
    let raw (n : BitVec 5) : Nat := (s.ctx.s n).toNat % 2 ^ f.width
    let a := val o.sa
    let b := val o.sb
    let rm := Rm.ofBits s.ctx.rm
    let w := s.ctx.s o.sa
    let out (i : Instr) (bits : Nat) (fl : Fl) : Prop :=
      (fl &&& s.ctx.en = 0 → Completes i s ((s.setS o.sd (BitVec.ofNat 64 bits)).flagged fl) (s.ctx.pc + 1)) ∧
      (fl &&& s.ctx.en ≠ 0 → Traps i s sl.id (precise cFpException [fl.setWidth 64]))
    let snan := Fl.nv.when (a.isSnan || b.isSnan)
    let some_nan := Fl.nv.when (a.isNan || b.isNan)
    let one (p : Prop) [Decidable p] : Nat := if p then 1 else 0
    let low (x y : Val) : Prop := x.cmp y = some .lt ∨ (x.isZero = true ∧ y.isZero = true ∧ x.sign = true ∧ y.sign = false)
    (a.isNan = true ∧ b.isNan = true → out (.sfmin sl o) f.nanBits snan ∧ out (.sfmax sl o) f.nanBits snan) ∧
    (a.isNan = true ∧ b.isNan = false → out (.sfmin sl o) (raw o.sb) snan ∧ out (.sfmax sl o) (raw o.sb) snan) ∧
    (a.isNan = false ∧ b.isNan = true → out (.sfmin sl o) (raw o.sa) snan ∧ out (.sfmax sl o) (raw o.sa) snan) ∧
    (a.isNan = false ∧ b.isNan = false ∧ ¬ low b a → out (.sfmin sl o) (raw o.sa) 0) ∧
    (a.isNan = false ∧ b.isNan = false ∧ low b a → out (.sfmin sl o) (raw o.sb) 0) ∧
    (a.isNan = false ∧ b.isNan = false ∧ ¬ low a b → out (.sfmax sl o) (raw o.sa) 0) ∧
    (a.isNan = false ∧ b.isNan = false ∧ low a b → out (.sfmax sl o) (raw o.sb) 0) ∧
    (o.fn = 0 → out (.sfcmp sl o) (one (a.cmp b = some .eq)) snan) ∧
    (o.fn = 1 → out (.sfcmp sl o) (one (a.cmp b = some .lt)) some_nan) ∧
    (o.fn = 2 → out (.sfcmp sl o) (one (a.cmp b = some .lt ∨ a.cmp b = some .eq)) some_nan) ∧
    (o.fn = 3 → out (.sfcmp sl o) (one (a.isNan = true ∨ b.isNan = true)) snan) ∧
    (o.fn = 4 → out (.sfcmp sl o) (one (a.isNan = true ∨ b.isNan = true ∨ a.cmp b ≠ some .eq)) snan) ∧
    (o.fn = 0 → out (.sfcvt sl o) (g.round rm a).bits ((g.round rm a).fl ||| Fl.nv.when a.isSnan)) ∧
    (o.fn = 1 → out (.sfcvt sl o) (intBits 64 (a.toInt rm 64 true).val) (a.toInt rm 64 true).fl) ∧
    (o.fn = 2 → out (.sfcvt sl o) (intBits 64 (a.toInt rm 64 false).val) (a.toInt rm 64 false).fl) ∧
    (o.fn = 3 → out (.sfcvt sl o) (f.round rm (Val.ofInt w.toInt)).bits (f.round rm (Val.ofInt w.toInt)).fl) ∧
    (o.fn = 4 → out (.sfcvt sl o) (f.round rm (Val.ofInt w.toNat)).bits (f.round rm (Val.ofInt w.toNat)).fl)

/-- The predicate instructions complete with the effects of R136; a destination becomes live, p0 is not written (R136, R137). -/
def Obligations.PredicateLogic : Prop :=
  ∀ (s : State) (o : PR), s.Calm →
    let a := s.ctx.p o.pa
    let b := s.ctx.p o.pb
    let n := 2 ^ o.es.toNat
    let both (j : Nat) : Bool := a.getLsbD (j * n) && b.getLsbD (j * n)
    let pp (i : Instr) (v : PReg) : Prop := Completes i s (s.onCtx fun c => c.giveP o.pd v) (s.ctx.pc + 1)
    pp (.pand o) (a &&& b) ∧ pp (.por o) (a ||| b) ∧ pp (.pxor o) (a ^^^ b) ∧ pp (.pnot o) (~~~a) ∧
    (∃ v : PReg, pp (.psetn o) v ∧ ∀ j, j < 128 → v.getLsbD j = decide (j / n < (s.ctx.s o.s).toNat)) ∧
    Completes (.pcnt o) s (s.setS o.s (BitVec.ofNat 64 ((List.range (128 / n)).filter both).length)) (s.ctx.pc + 1) ∧
    (∃ k, Completes (.pfirst o) s (s.setS o.s (BitVec.ofNat 64 k)) (s.ctx.pc + 1) ∧ k ≤ 128 / n ∧ (∀ j, j < k → both j = false) ∧
      (k < 128 / n → both k = true))

/-- BR, BRC, JMP, CALL, CALLR and RET go to their exact targets, and trap on a target outside 0 to 2^40 − 1 (R138, R139). The model's own choices or readings: log entries 23 and 63. -/
def Obligations.BranchesAndCalls : Prop :=
  ∀ (s : State) (j : JO) (b : BC) (r : JR), s.Calm →
    let pc : Int := s.ctx.pc.toNat
    let x := s.ctx.s b.sa
    let y := s.ctx.s b.sb
    let taken : Prop := (b.cond = 0 ∧ x = y) ∨ (b.cond = 1 ∧ x ≠ y) ∨ (b.cond = 2 ∧ x.toInt < y.toInt) ∨ (b.cond = 3 ∧ y.toInt ≤ x.toInt) ∨
      (b.cond = 4 ∧ x.toNat < y.toNat) ∨ (b.cond = 5 ∧ y.toNat ≤ x.toNat)
    let link := s.setS 31 (s.ctx.pc.setWidth 64 + 1)
    let go (i : Instr) (u : State) (t : Int) : Prop :=
      (0 ≤ t ∧ t < 2 ^ 40 → Completes i s u (BitVec.ofInt 40 t)) ∧
      (¬ (0 ≤ t ∧ t < 2 ^ 40) → Traps i s .c (precise cAlignment [BitVec.ofInt 64 t]))
    go (.br j) s (pc + j.off.toInt) ∧
    (taken → go (.brc b) s (pc + b.off.toInt)) ∧ (¬ taken ∧ b.cond.toNat < 6 → go (.brc b) s (pc + 1)) ∧
    go (.jmp r) s ((s.ctx.s r.sa).toNat + r.off.toInt) ∧
    go (.call j) link (pc + j.off.toInt) ∧
    go (.callr r) link ((s.ctx.s r.sa).toNat + r.off.toInt) ∧
    go .ret s (s.ctx.s 31).toNat

/-- LOOPI sets LC, ESC and LRP; LOOP counts LC then ESC down, rotates, writes p8 and branches, or falls through; a drained loop then saves (R140, R141, R105, R387). -/
def Obligations.HardwareLoops : Prop :=
  ∀ (s : State) (o : LI), s.Calm →
    let turned (c : Ctx) : Ctx := { c with vrb := c.vrb - 1, prb := c.prb - 1 }
    (s.ctx.lc ≠ 0 →
      Completes .loop s (s.onCtx fun c => ({ turned c with lc := c.lc - 1 } : Ctx).giveP 8 (BitVec.allOnes 128)) s.ctx.lrp) ∧
    (s.ctx.lc = 0 ∧ s.ctx.esc ≠ 0 →
      Completes .loop s (s.onCtx fun c => ({ turned c with esc := c.esc - 1 } : Ctx).giveP 8 0) s.ctx.lrp) ∧
    (s.ctx.draining = true → s.ctx.lc = 0 → s.ctx.esc = 0 → s.ctx.win = [] → s.ctx.buffered = [] →
      Completes .loop s (s.onCtx fun c => { c with saving := some ⟨1, false, none⟩, draining := false, preq := none, flushed := true }) (s.ctx.pc + 1)) ∧
    (s.ctx.draining = false →
     Completes (.loopi o) s (s.onCtx fun c => { c with lc := s.ctx.s o.sa, esc := o.esc, lrp := c.pc + 1 }) (s.ctx.pc + 1) ∧
     (s.ctx.lc = 0 ∧ s.ctx.esc = 0 → Completes .loop s s (s.ctx.pc + 1)))

/-- TRAP commits its bundle and then takes the software trap with its code; TRET goes to TEPC with TE = 1 in a handler, and is illegal while TE = 1 (R147, R377, R148, R120, R55). -/
def Obligations.TrapInstructionAndReturn : Prop :=
  ∀ (s : State) (o : TC), s.Calm →
    (s.ctx.win = [] → s.ctx.buffered = [] →
      ∃ w, Commits (s.onCtx fun c => { c with flushed := true }) w (s.ctx.pc + 1) ∧
        exec (.trap o) s = .next (deliverTrap w s.cur ⟨0x20, .p, 0, 0, [o.code.setWidth 64]⟩ (TrapAt.plain s.ctx.pc s.ctx.pc (s.ctx.pc + 1)))) ∧
    (s.ctx.te = false → s.ctx.occ = .strand → s.ctx.win = [] → s.ctx.buffered = [] →
      ∃ t, exec .tret s = .next t ∧ Commits (s.onCtx fun c => Ctx.passBar s { c with te := true, wdc := 0, flushed := true, delivered := none, wait := c.resume.headD .none, waits := c.resume.tail, resume := [] }) t s.ctx.tepc ∧
        t.ctx.eff = t.ctx.effNow ∧ t.ctx.region.shadow = none) ∧
    (s.ctx.te = true → Traps .tret s .c (precise cIllegalOpcode (bundleOpnd (encodeBundle .tret))))

/-- Taking a trap: where it is handled, the record at TRP and the registers in the strand's own domain, rollback, reflection to an ancestor, kill (R376, R377, R378, R379, R326, R64, R383). -/
def Obligations.TrapEntry : Prop :=
  ∀ (s : State) (t : Trap) (a : TrapAt),
    let c := s.ctx
    let act (d : BitVec 12) : BitVec 2 := if d = 0 then 0 else tabGet (domAt s d).acts t.code 0
    let r := takeTrap s s.cur t a
    let h := handler s c t.code
    let own := (domAt s c.dom).parent
    let kills (u : State) (h : BitVec 12) : State := event (killGroup u c.grp) h 3 4 [a.tepc.setWidth 64, groupWord c.grp]
    let reflected (u : State) (h : BitVec 12) (recf : Bool) : State := match freeSlotOf u h with
      | none => kills u h
      | some k => modCtx (takeSlot u h k) s.cur fun c =>
        { c.flush with pc := a.tepc, wdc := 0, saving := some ⟨3, false, some (h, k, trapWords t a c (tbView u s.cur.core.die c.dom) recf true)⟩ }
    (let b := { s with ctx := { c with reply := [], again := none } }
     ((t.del ≠ .b ∨ c.region.shadow = none) → bundleTrap s t = deliverTrap b s.cur t (TrapAt.plain c.pc c.pc c.pc)) ∧
     (t.del = .b → c.region.shadow ≠ none → bundleTrap s t = deliverTrap b s.cur t (TrapAt.plain c.pc c.region.start c.region.start))) ∧
    ((∀ e ∈ (ctxAt r s.cur).win, mmaWaits r s.cur e = false) → deliverTrap s s.cur t a = r) ∧
    (let start := if t.code = cDirtyLogFull ∨ c.te = false then own else c.dom
     h = climb s t.code 9 start ∧ (∀ d, climb s t.code 0 d = d) ∧ ∀ n d, climb s t.code (n + 1) d = if act d = 1 then climb s t.code n (domAt s d).parent else d) ∧
    (∀ g, t.del = .b → c.region.shadow = some g → r = takeTrap { s with ctx := { c.closeRegion (coreAt s s.cur.core).cyc with
      sreg := g.sreg, preg := g.preg, livev := g.livev, livep := g.livep, vrb := g.vrb, prb := g.prb, lc := g.lc, esc := g.esc, lrp := g.lrp, lcs := g.lcs,
      pc := c.region.start, region := Region.none } } s.cur t a) ∧
    (∀ (e : Tlb) (d : Fin 4) (off : Nat), s.memGood → (t.del = .b → c.region.shadow = none) → h = c.dom → act h ≠ 2 → c.win = [] → c.region.stores = [] →
      Maps s c.trp .write e (.mem d off) → e.pl ≠ 3 → serves s d = true → off % 128 = 0 → off + 128 ≤ 2 ^ 35 →
      (∀ k, k < 16 → pageMoves s c.dom (c.trp + BitVec.ofNat 48 (8 * k)) = false) → storesOut s s.cur = false →
      let words := trapWords t a c (tbView s s.cur.core.die c.dom) false false
      r.ctx.tcause = BitVec.ofBool (t.del == .d) ++ BitVec.ofBool (t.del == .b) ++ (0 : BitVec 6) ++ t.code ∧ r.ctx.tepc = a.tepc ∧ r.ctx.te = false ∧ r.ctx.pc = c.tvb ∧
      r.ctx.wdc = 0 ∧ r.ctx.eff = r.ctx.effNow ∧ r.ctx.region.shadow = none ∧ r.ctx.wait = .none ∧ r.ctx.waits = [] ∧
      r.ctx.sreg = c.sreg ∧ r.ctx.vreg = c.vreg ∧ r.ctx.preg = c.preg ∧ r.ctx.livev = c.livev ∧ r.ctx.livep = c.livep ∧ r.ctx.fpc = c.fpc ∧ r.ctx.tvb = c.tvb ∧
      r.ctx.trp = c.trp ∧ r.ctx.tscr = c.tscr ∧ r.ctx.lc = c.lc ∧ r.ctx.esc = c.esc ∧ r.ctx.lrp = c.lrp ∧ r.ctx.priv = c.priv ∧
      (∀ k, k < 16 → memRead r.mem (memKey d off + 8 * k) 8 = (wordAt words k).toNat) ∧
      (∀ x, (x < memKey d off ∨ memKey d off + 128 ≤ x) → cellRead r.mem x = cellRead s.mem x)) ∧
    (c.region = Region.none → c.occ = .strand → a.num = none →
      (act h = 2 → r = kills s h) ∧ (act h ≠ 2 → h ≠ c.dom → r = reflected s h false) ∧
      (∀ f u, act h ≠ 2 → h = c.dom → translate s s.cur.core c.dom (groupWord c.grp) c.trp .write = .bad f u →
        let g := climb u t.code 9 (domAt u c.dom).parent
        (actionOf u g t.code = 2 → r = kills u g) ∧ (actionOf u g t.code ≠ 2 → r = reflected u g true)))

/-- The header words of a trap record: cause, slot mask, delivery bits, depth and domain, origin and delivery PC, address, strand and time (R379). -/
def Obligations.TrapRecordHeader : Prop :=
  ∀ (t : Trap) (a : TrapAt) (c : Ctx) (time : Word) (re rf : Bool), a.entry = none →
    let w := trapWords t a c time re rf
    w.length ≥ 15 ∧ (wordAt w 0).extractLsb' 0 8 = t.code ∧ (wordAt w 0).getLsbD 16 = (t.del == .b) ∧ (wordAt w 0).getLsbD 17 = (t.del == .d) ∧
    (wordAt w 0).extractLsb' 22 7 = t.mask ∧ (wordAt w 0).getLsbD 38 = rf ∧ (wordAt w 0).getLsbD 39 = re ∧ (wordAt w 0).extractLsb' 40 4 = c.depth ∧ (wordAt w 0).extractLsb' 44 12 = c.dom ∧
    wordAt w 1 = a.opc.setWidth 64 ∧ wordAt w 2 = a.dpc.setWidth 64 ∧ wordAt w 3 = t.va.setWidth 64 ∧ wordAt w 4 = 0 ∧ wordAt w 5 = 0 ∧
    wordAt w 6 = (c.strix ++ c.grp).setWidth 64 ∧ wordAt w 7 = time ∧ (t.del ≠ .d → ∀ k, k < 8 → wordAt w (8 + k) = wordAt t.opnd k)

/-- HALT, SUSPEND and YIELD complete into the waits and the standing aside of R142, R145 and R146; SUSPEND with live state traps (R142, R145, R146, R21, R382). The model's own choices or readings: log entries 26 and 27. -/
def Obligations.SuspendYieldHalt : Prop :=
  ∀ s : State, s.Calm → s.ctx.te = true → s.ctx.occ = .strand → s.ctx.win = [] → s.ctx.buffered = [] →
    let dead : Prop := s.ctx.livev = 0 ∧ s.ctx.livep ||| 1 = 1 ∧ liveHandles s = 0
    let taken : Prop := (∃ q, s.ctx.preq = some q ∧ q.grade = 0) ∨ recordWaits s s.cur s.ctx.dom s.ctx.pri = true
    let susp := s.onCtx fun c => { c.awaits .suspend with wdc := 0, flushed := true }
    Completes .halt s (s.onCtx fun c => { c.awaits .halt with wdc := 0, flushed := true }) (s.ctx.pc + 1) ∧
    (dead → Completes .suspend s susp (s.ctx.pc + 1)) ∧
    (¬ dead → Traps .suspend s .c (precise cLiveAtSuspend [s.ctx.livev.setWidth 64, (s.ctx.livep ||| 1).setWidth 64, (liveHandles s).setWidth 64])) ∧
    (dead ∧ taken → Completes .yield s susp (s.ctx.pc + 1)) ∧
    (¬ (dead ∧ taken) → Completes .yield s (s.onCtx fun c => { c with yieldTo := max (coreAt s s.core).cyc (s.ctx.issued + 1) + 65, wdc := 0, flushed := true }) (s.ctx.pc + 1))

/-- CSRR completes with the value of each register of the CSR map, reserved bits zero (R117, R118, R149, R40). The model's own choice or reading: log entry 38. -/
def Obligations.CsrRead : Prop :=
  ∀ (s : State) (sd : BitVec 5), s.Calm →
    let c := s.ctx
    let bit (b : Bool) (k : Nat) : Word := if b then 1 <<< k else 0
    let rd (n : BitVec 12) (v : Word) : Prop := Completes (.csrr ⟨sd, 0, n⟩) s (s.setS sd v) (c.pc + 1)
    rd 0x000 (bit c.nf 7 ||| bit c.rwp 6 ||| bit c.te 2 ||| bit c.priv 0) ∧
    rd 0x001 ((begun (.csrr ⟨sd, 0, 0x001⟩) s).ctx.fpc.setWidth 64) ∧
    rd 0x002 (c.vrb.setWidth 64) ∧ rd 0x003 (c.prb.setWidth 64) ∧ rd 0x004 c.lc ∧ rd 0x005 (c.esc.setWidth 64) ∧ rd 0x006 (c.lrp.setWidth 64) ∧
    rd 0x007 c.lcs ∧ rd 0x010 (c.tvb.setWidth 64) ∧ rd 0x011 (c.trp.setWidth 64) ∧ rd 0x012 (c.tcause.setWidth 64) ∧ rd 0x013 (c.tepc.setWidth 64) ∧
    rd 0x014 c.tscr ∧ rd 0x020 ((c.depth ++ c.dom).setWidth 64) ∧ rd 0x021 (c.grp.setWidth 64) ∧ rd 0x022 (c.strix.setWidth 64) ∧
    (∀ m, virtOf s c.dom s.cur.core = some m → rd 0x023 (m.vcore.setWidth 64) ∧ rd 0x024 (m.vdie.setWidth 64)) ∧
    rd 0x030 (tbOf s s.cur.core.die + (domAt s c.dom).tbofs) ∧ rd 0x040 (c.ebud.setWidth 64) ∧ rd 0x041 ((coreAt s s.cur.core).opCur.setWidth 64) ∧
    rd 0x050 (c.livev.setWidth 64) ∧ rd 0x051 ((c.livep ||| 1).setWidth 64) ∧ rd 0x052 ((bankst c).setWidth 64)

/-- CSRW, CSRSB and CSRCB write, set and clear VRB, PRB, LC, ESC, LRP, LCS, TVB, TRP, TEPC and TSCR; on LIVEV and LIVEP they kill registers (R116, R149, R150, R105, R109, R106). -/
def Obligations.CsrWriteRegisters : Prop :=
  ∀ (s : State) (sd sa : BitVec 5), s.Calm → s.ctx.buffered = [] →
    let c := s.ctx
    let v := c.s sa
    let reg (n : BitVec 12) (field old : Word) (put : Word → Ctx → Ctx) : Prop :=
      let res (x : Word) : State := (s.onCtx (put x)).setS sd old
      (v &&& ~~~field = 0 → Completes (.csrw ⟨sd, sa, n⟩) s (res v) (c.pc + 1) ∧ Completes (.csrsb ⟨sd, sa, n⟩) s (res (old ||| v)) (c.pc + 1)) ∧
      (v &&& ~~~field ≠ 0 → Traps (.csrw ⟨sd, sa, n⟩) s .c (precise cReservedField (bundleOpnd (encodeBundle (.csrw ⟨sd, sa, n⟩)))) ∧
        Traps (.csrsb ⟨sd, sa, n⟩) s .c (precise cReservedField (bundleOpnd (encodeBundle (.csrsb ⟨sd, sa, n⟩))))) ∧
      Completes (.csrcb ⟨sd, sa, n⟩) s (res (old &&& ~~~v)) (c.pc + 1)
    let all : Word := BitVec.allOnes 64
    let lv (m : BitVec 32) : State := (s.onCtx fun c => { c with livev := c.livev &&& ~~~m }).setS sd (c.livev.setWidth 64)
    let lp (m : BitVec 16) : State := (s.onCtx fun c => { c with livep := c.livep &&& ~~~m }).setS sd ((c.livep ||| 1).setWidth 64)
    (c.draining = false →
      reg 0x002 0xF (c.vrb.setWidth 64) (fun x c => { c with vrb := x.setWidth 4 }) ∧
      reg 0x003 0x7 (c.prb.setWidth 64) (fun x c => { c with prb := x.setWidth 3 }) ∧
      reg 0x004 all c.lc (fun x c => { c with lc := x }) ∧
      reg 0x005 0xF (c.esc.setWidth 64) (fun x c => { c with esc := x.setWidth 4 }) ∧
      reg 0x006 0xFFFFFFFFFF (c.lrp.setWidth 64) (fun x c => { c with lrp := x.setWidth 40 }) ∧
      reg 0x007 all c.lcs (fun x c => { c with lcs := x }) ∧
      reg 0x010 0xFFFFFFFFFF (c.tvb.setWidth 64) (fun x c => { c with tvb := x.setWidth 40 }) ∧
      (c.trp.toNat % 128 = 0 → reg 0x011 0xFFFFFFFFFF80 (c.trp.setWidth 64) (fun x c => { c with trp := x.setWidth 48 })) ∧
      reg 0x013 0xFFFFFFFFFF (c.tepc.setWidth 64) (fun x c => { c with tepc := x.setWidth 40 }) ∧
      reg 0x014 all c.tscr (fun x c => { c with tscr := x })) ∧
    ((∀ b : Fin 8, c.vbank[b.val].st ≠ .retention) →
      (v.toNat < 2 ^ 32 → Completes (.csrw ⟨sd, sa, 0x050⟩) s (lv (v.setWidth 32)) (c.pc + 1) ∧ Completes (.csrsb ⟨sd, sa, 0x050⟩) s (lv (v.setWidth 32)) (c.pc + 1)) ∧
      (v.toNat < 2 ^ 16 → Completes (.csrw ⟨sd, sa, 0x051⟩) s (lp (v.setWidth 16)) (c.pc + 1) ∧ Completes (.csrsb ⟨sd, sa, 0x051⟩) s (lp (v.setWidth 16)) (c.pc + 1)) ∧
      Completes (.csrcb ⟨sd, sa, 0x050⟩) s (lv 0) (c.pc + 1) ∧ Completes (.csrcb ⟨sd, sa, 0x051⟩) s (lp 0) (c.pc + 1))

/-- CSR writes to FPC and CST: the fields, the reserved RM, the policy on RWP, NF's clearing; operations take them three commits later (R116, R118, R119, R83, R120, R150, R149). The model's own choice or reading: log entry 39. -/
def Obligations.CsrWriteControl : Prop :=
  ∀ (s : State) (sd sa : BitVec 5), s.Calm → s.ctx.win = [] → s.ctx.buffered = [] →
    let c := s.ctx
    let v := c.s sa
    let w : CR := ⟨sd, sa, 0x001⟩
    let z : CR := ⟨sd, sa, 0x000⟩
    let moves (t : State) : Prop := t.ctx.eff = c.effq[0] ∧ t.ctx.effq[0] = c.effq[1] ∧ t.ctx.effq[1] = c.effq[2]
    let reserved (i : Instr) : Prop := Traps i s .c (precise cReservedField (bundleOpnd (encodeBundle i)))
    let fpc (i : Instr) (new : BitVec 14 → BitVec 14) : Prop :=
      let b := begun i s
      let x := new b.ctx.fpc
      (x.toNat % 8 < 6 → ∃ t, exec i s = .next t ∧
        Commits ((b.onCtx fun c => { c with fpc := x, flushed := true }).setS sd (b.ctx.fpc.setWidth 64)) t (c.pc + 1) ∧ moves t ∧ t.ctx.effq[2] = ⟨x.setWidth 9, c.rwp⟩) ∧
      (6 ≤ x.toNat % 8 → reserved i)
    let cst (i : Instr) (te rwp nf : Bool) : Prop := ∃ t, exec i s = .next t ∧
      Commits ((s.onCtx fun c => { c with te := te, rwp := rwp, nf := nf, flushed := true }).setS sd c.cst) t (c.pc + 1) ∧ moves t ∧ t.ctx.effq[2].rwp = rwp
    let te := v.getLsbD 2
    let rwp := v.getLsbD 6
    let nf := c.nf && !v.getLsbD 7
    (v.toNat < 2 ^ 14 → fpc (.csrw w) (fun _ => v.setWidth 14) ∧ fpc (.csrsb w) (fun old => old ||| v.setWidth 14)) ∧
    (2 ^ 14 ≤ v.toNat → reserved (.csrw w) ∧ reserved (.csrsb w)) ∧
    fpc (.csrcb w) (fun old => old &&& ~~~(v.setWidth 14)) ∧
    (v &&& ~~~0xC5 = 0 →
      (rwp = false ∨ (domAt s c.dom).rallow = true → cst (.csrw z) te rwp nf ∧ cst (.csrsb z) (c.te || te) (c.rwp || rwp) nf) ∧
      (rwp = true ∧ (domAt s c.dom).rallow = false → Traps (.csrw z) s .c (precise cPermission [0]) ∧ Traps (.csrsb z) s .c (precise cPermission [0]))) ∧
    (v &&& ~~~0xC5 ≠ 0 → reserved (.csrw z) ∧ reserved (.csrsb z)) ∧
    cst (.csrcb z) (c.te && !te) (c.rwp && !rwp) c.nf

/-- VADD to VNEG and VCLMP complete element by element, with merging, liveness, bank wake and flags, or take the FP-exception trap (R154, R156, R160, R161, R162, R102, R106, R110). -/
def Obligations.VectorArithmetic : Prop :=
  ∀ (s : State) (sl : VW) (o : VE), s.Calm → s.ctx.Readable o.va →
    let c := s.ctx
    let t := Ty.ofCode o.ty
    let r : Rnd := ⟨Rm.ofBits c.rm, c.ftz⟩
    let sat := o.sat == 1
    let u := o.ext.getLsbD 3
    let a (j : Nat) := elemAt (c.v o.va).toNat t.eb j
    let b (j : Nat) := elemAt (c.v o.vb).toNat t.eb j
    let d (j : Nat) := elemAt (c.v o.vd).toNat t.eb j
    let one (i : Instr) (f : Nat → Res) : Prop := ElementWise i s sl.id o t.eb (VE.bits_ o / t.eb) (fun c => c.dropV o.va o.la) f
    let two (i : Instr) (f : Nat → Res) : Prop := ElementWise i s sl.id o t.eb (VE.bits_ o / t.eb) (fun c => (c.dropV o.va o.la).dropV o.vb o.lb) f
    one (.vabs sl o) (fun j => t.signOp false sat c.ftz (a j)) ∧ one (.vneg sl o) (fun j => t.signOp true sat c.ftz (a j)) ∧
    (c.Readable o.vb →
      two (.vadd sl o) (fun j => t.arith .add r sat u (a j) (b j)) ∧ two (.vsub sl o) (fun j => t.arith .sub r sat u (a j) (b j)) ∧
      two (.vmul sl o) (fun j => t.arith .mul r sat u (a j) (b j)) ∧
      two (.vmin sl o) (fun j => t.pick false u c.ftz (a j) (b j)) ∧ two (.vmax sl o) (fun j => t.pick true u c.ftz (a j) (b j)) ∧
      two (.vclmp sl o) (fun j => t.clamp (o.ext.getLsbD 0) u c.ftz (a j) (b j)) ∧
      (c.Readable o.vd →
        two (.vfma sl o) (fun j => t.fma false r sat u (a j) (b j) (d j)) ∧ two (.vfms sl o) (fun j => t.fma true r sat u (a j) (b j) (d j))))

/-- Integer elements wrap modulo 2^eb, or saturate to the signed or the unsigned range, and raise nothing (R157). -/
def Obligations.IntegerElements : Prop :=
  ∀ (w : Nat) (r : Rnd) (uns : Bool) (a b d : Nat), 0 < w →
    let x : Int := if uns then (a % 2 ^ w : Nat) else intOf w a
    let y : Int := if uns then (b % 2 ^ w : Nat) else intOf w b
    let z : Int := if uns then (d % 2 ^ w : Nat) else intOf w d
    let lo : Int := if uns then 0 else -(2 ^ (w - 1))
    let hi : Int := if uns then 2 ^ w - 1 else 2 ^ (w - 1) - 1
    let wrapped (q : Res) (e : Int) : Prop := (q.bits : Int) = e % 2 ^ w ∧ q.fl = 0
    let bounded (q : Res) (e : Int) : Prop := (q.bits : Int) = (max lo (min hi e)) % 2 ^ w ∧ q.fl = 0
    wrapped ((Ty.int w).arith .add r false uns a b) ((a : Int) + b) ∧ wrapped ((Ty.int w).arith .sub r false uns a b) ((a : Int) - b) ∧
    wrapped ((Ty.int w).arith .mul r false uns a b) ((a : Int) * b) ∧
    wrapped ((Ty.int w).fma false r false uns a b d) ((a : Int) * b + d) ∧ wrapped ((Ty.int w).fma true r false uns a b d) ((d : Int) - a * b) ∧
    bounded ((Ty.int w).arith .add r true uns a b) (x + y) ∧ bounded ((Ty.int w).arith .sub r true uns a b) (x - y) ∧
    bounded ((Ty.int w).arith .mul r true uns a b) (x * y) ∧
    bounded ((Ty.int w).fma false r true uns a b d) (x * y + z) ∧ bounded ((Ty.int w).fma true r true uns a b d) (z - x * y)

/-- Vector logic, shifts, moves, splats and VIOTA complete element by element without flags (R163, R167, R154, R102, R106). -/
def Obligations.VectorLogicAndMoves : Prop :=
  ∀ (s : State) (sl : VW) (o : VE), s.Calm →
    let c := s.ctx
    let t := Ty.ofCode o.ty
    let w := t.eb
    let a (j : Nat) := elemAt (c.v o.va).toNat w j
    let b (j : Nat) := elemAt (c.v o.vb).toNat w j
    let el (i : Instr) (drop : Ctx → Ctx) (f : Nat → Nat) : Prop := ElementWise i s sl.id o w (VE.bits_ o / w) drop fun j => ⟨f j, 0⟩
    let one (c : Ctx) := c.dropV o.va o.la
    let two (c : Ctx) := (c.dropV o.va o.la).dropV o.vb o.lb
    (c.Readable o.va →
      el (.vnot sl o) one (fun j => 2 ^ w - 1 - a j) ∧ el (.vmov sl o) one a ∧
      (c.Readable o.vb →
        el (.vand sl o) two (fun j => a j &&& b j) ∧ el (.vor sl o) two (fun j => a j ||| b j) ∧ el (.vxor sl o) two (fun j => a j ^^^ b j) ∧
        el (.vshr sl o) two (fun j => a j / 2 ^ (b j % w)) ∧ el (.vsar sl o) two (fun j => (intOf w (a j) / 2 ^ (b j % w) % 2 ^ w).toNat) ∧
        (o.sat = 0 → el (.vshl sl o) two (fun j => a j * 2 ^ (b j % w))) ∧
        (o.sat = 1 → el (.vshl sl o) two (fun j =>
          intBits w (satInt ((if o.ext.getLsbD 3 then (a j : Int) else intOf w (a j)) * 2 ^ (b j % w)) w (!o.ext.getLsbD 3)))))) ∧
    el (.vsplat sl o) id (fun _ => (c.s o.va).toNat) ∧
    el (.vsplati sl o) id (fun _ => let x := (o.va ++ o.vb).toInt
      match t with
      | .int w => intBits w x
      | .t8 => (t8Encode .rne (Val.ofInt x)).bits
      | .fp f => (f.round .rne (Val.ofInt x)).bits) ∧
    el (.viota sl o) id (fun j => (c.s o.va).toNat + j * (c.s o.vb).toNat)

/-- VCMP, VSEL and VCVT complete with the predicate, the choice and the conversion of R164 to R166 (R164, R165, R166, R136, R154). The model's own choice or reading: log entry 80. -/
def Obligations.VectorCompareSelectConvert : Prop :=
  ∀ (s : State) (sl : VW) (o : VE), s.Calm → s.ctx.Readable o.va →
    let c := s.ctx
    let t := Ty.ofCode o.ty
    let w := t.eb
    let n := VE.bits_ o / w
    let a (j : Nat) := elemAt (c.v o.va).toNat w j
    let b (j : Nat) := elemAt (c.v o.vb).toNat w j
    let act (j : Nat) : Bool := (c.p o.pg).getLsbD (j * (w / 8))
    let rel (j : Nat) := t.compare o.ext c.ftz (a j) (b j)
    let pd : BitVec 4 := o.vd.setWidth 4
    let fl := (List.range n).foldl (fun x j => if act j then x ||| (rel j).fl else x) 0
    let g := Ty.ofCode (o.ext.setWidth 3)
    (c.Readable o.vb →
      (fl &&& c.en = 0 → ∃ p : PReg,
        Completes (.vcmp sl o) s ((s.onCtx fun c => ((c.dropV o.va o.la).dropV o.vb o.lb).giveP pd p).flagged fl) (c.pc + 1) ∧
        ∀ k, k < 128 → p.getLsbD k = (decide (k / (w / 8) < n) &&
          if act (k / (w / 8)) then (rel (k / (w / 8))).val else if o.z = 1 then false else (c.p pd).getLsbD k)) ∧
      (fl &&& c.en ≠ 0 → ∃ low, low < n ∧ act low = true ∧ (rel low).fl ≠ 0 ∧ (∀ j, j < low → act j = true → (rel j).fl = 0) ∧
        Traps (.vcmp sl o) s sl.id (precise cFpException [fl.setWidth 64, BitVec.ofNat 64 low])) ∧
      ∃ v : VReg, Completes (.vsel sl o) s (s.onCtx fun c => ((c.dropV o.va o.la).dropV o.vb o.lb).giveV s.coreCyc o.vd (!s.ctx.vLive o.vd) (VE.wrote o w n (BitVec.allOnes 128)) v) (c.pc + 1) ∧
        (∀ j, j < n → elemAt v.toNat w j = if act j then a j else b j) ∧ v.toNat / 2 ^ VE.bits_ o = (s.oldV o.vd).toNat / 2 ^ VE.bits_ o) ∧
    ElementWise (.vcvt sl o) s sl.id o g.eb (VE.bits_ o / max w g.eb) (fun c => c.dropV o.va o.la)
      (fun j => t.convert g ⟨Rm.ofBits c.rm, c.ftz⟩ (o.sat == 1) (o.ext.getLsbD 3) (a j))

/-- VREDS, VREDM and VSCAN complete with the pairwise tree of R93 over the elements, the identity for inactive ones (R168, R93). The model's own choice or reading: log entry 62. -/
def Obligations.VectorReductions : Prop :=
  ∀ (s : State) (sl : VW) (o : VE), s.Calm → s.ctx.Readable o.va →
    let c := s.ctx
    let t := Ty.ofCode o.ty
    let w := t.eb
    let n := VE.bits_ o / w
    let u := o.ext.getLsbD 3
    let input (op : RedOp) : List Nat := (List.range n).map fun j =>
      if (c.p o.pg).getLsbD (j * (w / 8)) then elemAt (c.v o.va).toNat w j else t.identity op u
    let node (op : RedOp) := t.node op ⟨Rm.ofBits c.rm, c.ftz⟩ (o.sat == 1) u
    let code : BitVec 2 := o.ext.setWidth 2
    let out (i : Instr) (elems : List Nat) (fl : Fl) : Prop :=
      (fl &&& c.en = 0 → ∃ v : VReg, Completes i s ((s.onCtx fun c => (c.dropV o.va o.la).giveV s.coreCyc o.vd (!s.ctx.vLive o.vd) (VE.wrote o w n (BitVec.allOnes 128)) v).flagged fl) (c.pc + 1) ∧
        (∀ j, j < n → elemAt v.toNat w j = elems.getD j 0 % 2 ^ w) ∧ v.toNat / 2 ^ VE.bits_ o = (s.oldV o.vd).toNat / 2 ^ VE.bits_ o) ∧
      (fl &&& c.en ≠ 0 → Traps i s sl.id (precise cFpException [fl.setWidth 64]))
    let tree (op : RedOp) : Res := treeReduce (node op) (Nat.log2 n) (input op)
    let prefixes (op : RedOp) : List Res := (List.range n).map fun k =>
      if k = 0 then ⟨t.passed c.ftz ((input op).getD 0 0), 0⟩ else scanAt (node op) (input op) k (Nat.log2 n) 0 none
    let scan (op : RedOp) : Prop := out (.vscan sl o) ((prefixes op).map Res.bits) ((prefixes op).foldl (fun a r => a ||| r.fl) 0)
    let red (i : Instr) (op : RedOp) : Prop := out i [(tree op).bits] (tree op).fl
    red (.vreds sl o) .add ∧
    (code = 0 → red (.vredm sl o) .min ∧ scan .add) ∧ (code = 1 → red (.vredm sl o) .max ∧ scan .min) ∧
    (code = 2 → red (.vredm sl o) .mul ∧ scan .max) ∧ (code = 3 → red (.vredm sl o) .mul ∧ scan .mul)

/-- VRCP, VRSQ, VSQRT, VEXP2, VLOG2 and VTANH complete element by element with the functions of R94 and R95 (R169, R94, R95, R154, R156). -/
def Obligations.VectorSpecialFunctions : Prop :=
  ∀ (s : State) (o : VE) (f : Fmt), s.Calm → s.ctx.Readable o.va → Ty.ofCode o.ty = .fp f →
    let c := s.ctx
    let r : Rnd := ⟨Rm.ofBits c.rm, c.ftz⟩
    let a (j : Nat) := elemAt (c.v o.va).toNat f.width j
    let el (i : Instr) (g : Nat → Res) : Prop := ElementWise i s .w o f.width (VE.bits_ o / f.width) (fun c => c.dropV o.va o.la) fun j => g (a j)
    el (.vrcp o) (specialRound f rcpOf r) ∧ el (.vrsq o) (specialRound f rsqOf r) ∧ el (.vsqrt o) (specialRound f sqrtOf r) ∧
    el (.vexp2 o) (specialRef f exp2Ref r) ∧ el (.vlog2 o) (specialRef f log2Ref r) ∧ el (.vtanh o) (specialRef f tanhRef r)

/-- A dead vector source takes the dead-register fault; a source in a bank that is not full makes the bundle wait (R107, R111, R115, R380). -/
def Obligations.DeadVectorSource : Prop :=
  ∀ (s : State) (sl : VW) (o : VE) (x : XB) (v : VT) (m : TM), s.Calm →
    let c := s.ctx
    let sources : List (Instr × SlotId × List (BitVec 5) × Nat) :=
      ([Instr.vabs sl o, .vneg sl o, .vnot sl o, .vmov sl o, .vcvt sl o, .vreds sl o, .vredm sl o, .vscan sl o].map fun i => (i, sl.id, [o.va], 0)) ++
      ([Instr.vadd sl o, .vsub sl o, .vmul sl o, .vmin sl o, .vmax sl o, .vclmp sl o, .vand sl o, .vor sl o, .vxor sl o, .vshl sl o, .vshr sl o, .vsar sl o,
        .vcmp sl o, .vsel sl o].map fun i => (i, sl.id, [o.va, o.vb], 0)) ++
      ([Instr.vfma sl o, .vfms sl o].map fun i => (i, sl.id, [o.va, o.vb, o.vd], 0)) ++
      ([Instr.vrcp o, .vrsq o, .vsqrt o, .vexp2 o, .vlog2 o, .vtanh o].map fun i => (i, .w, [o.va], 0)) ++
      ([Instr.xrot x, .xbcst x, .xcmpr x, .xexpd x].map fun i => (i, .x, [x.va], 0)) ++
      ([Instr.xperm x, .xpermScat x, .xzip x, .xunzip x].map fun i => (i, .x, [x.va, x.xi], 0)) ++
      ([Instr.vins v, .vext v, .vstt v].map fun i => (i, .s, [v.v], 0)) ++
      ([Instr.tload m, .tstore m, .tckpt m].map fun i => (i, .t, [m.rcd], 65536))
    let phys (n : BitVec 5) := physV c.vrb n
    let good (n : BitVec 5) : Prop := c.vLive n = true ∧ ∀ q ∈ c.vpar, q.1.val ≠ (phys n).toNat
    ∀ q ∈ sources,
      (∀ n ∈ q.2.2.1, (∀ k ∈ q.2.2.1, k = n ∨ c.Readable k) → c.vLive n = false → (q.2.1 = .t → c.win.length < 16) →
        Traps q.1 s q.2.1 (precise cDeadRegister [BitVec.ofNat 64 (n.toNat + 256 * (phys n).toNat + q.2.2.2)])) ∧
      ((∀ n ∈ q.2.2.1, good n) → (∃ n ∈ q.2.2.1, (c.bank (phys n)).st ≠ .full) → c.win = [] →
        ∃ t, exec q.1 s = .next t ∧ t.frame = none ∧ t.ctx.pc = c.pc ∧ t.ctx.vreg = c.vreg ∧ t.ctx.livev = c.livev ∧ t.ctx.sreg = c.sreg ∧ t.ctx.win = [] ∧
          (q.1 ≠ .vstt v → t.mem = s.mem) ∧
          ∀ n ∈ q.2.2.1, (c.bank (phys n)).st = .retention → (t.ctx.bank (phys n)).st = .waking ∧ (t.ctx.bank (phys n)).ready = s.coreCyc + 8)

/-- The crossbar instructions complete with the permutations of R171; a colliding scatter takes the lane-collision fault (R170, R171, R172). The model's own choice or reading: log entry 79. -/
def Obligations.CrossbarMoves : Prop :=
  ∀ (s : State) (o : XB), s.Calm → s.ctx.Readable o.va →
    let c := s.ctx
    let w := 8 * 2 ^ o.es.toNat
    let e := 1024 / w
    let a (j : Nat) := elemAt (c.v o.va).toNat w j
    let b (j : Nat) := elemAt (c.v o.xi).toNat w j
    let act (j : Nat) : Bool := (c.p o.pg).getLsbD (j * 2 ^ o.es.toNat)
    let old (j : Nat) := elemAt (s.oldV o.vd).toNat w j
    let amount := ((c.s o.xi).toNat + o.imm.toNat) % e
    let merged (i : Instr) (g : Nat → Nat) : Prop := Crossed i s o fun j => if act j then g j else old j
    let hi := if o.imm.getLsbD 0 then 1 else 0
    let picked := (List.range e).filter act
    let srcs (d : Nat) := (List.range e).filter fun j => act j && b j % e == d
    merged (.xrot o) (fun j => a ((j + e - amount) % e)) ∧ merged (.xbcst o) (fun _ => a amount) ∧
    Crossed (.xcmpr o) s o (fun j => (picked.map a).getD j 0) ∧
    Crossed (.xexpd o) s o (fun j => if act j then a (picked.filter fun k => k < j).length else 0) ∧
    (c.Readable o.xi →
      merged (.xperm o) (fun j => a (b j % e)) ∧
      merged (.xzip o) (fun j => if j % 2 = 0 then a (j / 2 + hi * (e / 2)) else b (j / 2 + hi * (e / 2))) ∧
      merged (.xunzip o) (fun j => if 2 * j + hi < e then a (2 * j + hi) else b (2 * j + hi - e)) ∧
      ((∀ d, d < e → (srcs d).length ≤ 1) → Crossed (.xpermScat o) s o (fun d => match srcs d with
        | j :: _ => a j
        | [] => old d)) ∧
      (∀ d x y, d < e → (∃ l, srcs d = x :: y :: l) → (∀ k, k < d → (srcs k).length ≤ 1) →
        Traps (.xpermScat o) s .x (precise cLaneCollision [BitVec.ofNat 64 (d + 256 * x + 65536 * y)])))

/-- VLDT, VSTT, VLDTS, VGTHT, VINS and VEXT complete with rows, columns and elements of R176 to R178 (R174, R175, R176, R177, R178, R208, R271, R286). The model's own choice or reading: log entry 66. -/
def Obligations.VectorTileAccess : Prop :=
  ∀ (s : State) (o : VT), s.Calm →
    let c := s.ctx
    let b := 2 ^ o.es.toNat
    let i := (c.s o.a).toNat + o.idx.toNat
    let off := (c.s o.b).toNat
    let vec (i : Instr) (v : Nat) : Prop :=
      Completes i s (s.onCtx fun c => { c.giveV s.coreCyc o.v (!s.ctx.vLive o.v) (fun _ => true) (BitVec.ofNat 1024 v) with flushed := true }) (c.pc + 1)
    let pick := (List.range 64).filter fun k => (c.s o.b).getLsbD k
    (c.Readable o.v →
      let n := (off + o.idx.toNat) % (128 / b)
      Completes (.vext o) s ((s.setS o.a (BitVec.ofNat 64 (elemAt (c.v o.v).toNat (8 * b) n))).onCtx fun c => c.dropV o.v o.lv) (c.pc + 1) ∧
      ∃ v : VReg, Completes (.vins o) s (s.onCtx fun c => c.giveV s.coreCyc o.v false (fun _ => true) v) (c.pc + 1) ∧
        ∀ j, j < 128 / b → elemAt v.toNat (8 * b) j = if j = n then (c.s o.a).toNat % 2 ^ (8 * b) else elemAt (c.v o.v).toNat (8 * b) j) ∧
    ∀ (r : TRef) (t : Tile), s.tileOf o.h = some (r, t) → t.st ≠ .discarded → t.plane = false → tileBusy c r = false →
      tileReady (coreAt s s.cur.core) t = true → (t.lvl = .d → storeBefore s s.cur c = []) → (∀ e ∈ c.win, e.op ≠ 0x10) →
      let at_ (row col : Nat) : Nat := if row < t.rows ∧ col * b + b ≤ t.rb then t.rowNat row / 256 ^ (col * b) % 256 ^ b else 0
      (t.pois = 0 → off % 4 = 0 ∧ i < t.rows ∧ off < t.rb → vec (.vldt o) (t.rowNat i / 256 ^ off)) ∧
      (t.pois = 0 → vec (.vldts o) (packElems (8 * b) ((List.range (128 / b)).map fun j => at_ ((c.s o.a).toNat + j * o.idx.toNat) off))) ∧
      (t.pois = 0 → (c.s o.a).toNat < t.rows → vec (.vgtht o) (packElems (8 * b) ((pick.take (128 / b)).map fun p => at_ (c.s o.a).toNat (64 * o.idx.toNat + p)))) ∧
      (c.Readable o.v → t.lvl ≠ .a → off % 4 = 0 → i < t.rows → off < t.rb → c.buffered = [] →
        Completes (.vstt o) s ((modRef s s.cur.core c.grp r fun t => { t with data := t.data.set i (storeRow (t.row i) t.rb off (c.v o.v)), pois := if off == 0 && t.rb ≤ 128 && rowPoisoned t.pois i then t.pois - 2 ^ i else t.pois }).onCtx fun c => { c.dropV o.v o.lv with flushed := true }) (c.pc + 1))

/-- The seven loads: n bytes at S[base] + sext(imm20), the youngest buffered store's byte before memory's, sign- or zero-extended into the register (R211, R212, R61, R214, R370). -/
def Obligations.Loads : Prop :=
  ∀ (s : State) (o : LS) (va : BitVec 48) (e : Tlb) (d : Fin 4) (off : Nat), s.Calm → s.ctx.win = [] → Maps s va .read e (.mem d off) → Clean s d off → storesOut s s.cur = false →
    (o.order = 0 ∨ (o.order = 1 ∧ s.ctx.region.stores = [] ∧ 3 ≤ ceilScope (domAt s s.ctx.dom).ceil)) →
    ((s.ctx.s o.base).toNat : Int) + o.imm.toInt = va.toNat →
    let loads (i : Instr) (n : Nat) (ext : Nat → Word) : Prop := va.toNat % n = 0 →
      ∃ r, r < 256 ^ n ∧
        (∀ k, k < n → r / 256 ^ k % 256 = forwardByte s s.ctx.region.stores (.mem d off) k (cellRead s.mem (memKey d off + k)).toNat) ∧
        Completes i s ((countRequest s s.cur.core.die (.mem d off)).setS o.reg (ext r)) (s.ctx.pc + 1)
    loads (.ldB o) 1 (fun r => (BitVec.ofNat 8 r).signExtend 64) ∧ loads (.ldBu o) 1 (BitVec.ofNat 64) ∧
    loads (.ldH o) 2 (fun r => (BitVec.ofNat 16 r).signExtend 64) ∧ loads (.ldHu o) 2 (BitVec.ofNat 64) ∧
    loads (.ldW o) 4 (fun r => (BitVec.ofNat 32 r).signExtend 64) ∧ loads (.ldWu o) 4 (BitVec.ofNat 64) ∧ loads (.ldD o) 8 (BitVec.ofNat 64)

/-- The four stores enter the gated buffer at S[base] + sext(imm20); no byte of memory changes before the region ends (R211, R213, R61, R62). -/
def Obligations.Stores : Prop :=
  ∀ (s : State) (o : LS) (va : BitVec 48) (e : Tlb) (p : Place), s.Calm → s.ctx.win = [] → Maps s va .write e p → s.ctx.buffered.length < 16 →
    (o.order = 0 ∨ (o.order = 2 ∧ 3 ≤ ceilScope (domAt s s.ctx.dom).ceil)) →
    ((s.ctx.s o.base).toNat : Int) + o.imm.toInt = va.toNat →
    let stores (i : Instr) (n : Nat) : Prop := va.toNat % n = 0 →
      Completes i s (s.onCtx fun c => c.buffer ⟨va, n, s.ctx.s o.reg, e.locOf va, false, o.order == 2⟩) (s.ctx.pc + 1)
    stores (.stB o) 1 ∧ stores (.stH o) 2 ∧ stores (.stW o) 4 ∧ stores (.stD o) 8

/-- When a region ends its buffered stores are performed in program order: each byte of memory is the youngest covering store's, every other byte is unchanged (R61, R214, R370). -/
def Obligations.BufferedStores : Prop :=
  ∀ s : State, s.memGood →
    (∀ g, g ∈ s.ctx.region.stores → g.loc.leaf.extractLsb' 4 2 ≠ 3 ∧ storeHeld s s.cur.core.die s.ctx.dom g = false ∧
      ∃ d off, g.place s = .mem d off ∧ serves s d = true ∧ tabGet? s.latent (lineKey d off) = none) → storesOut s s.cur = false →
    let t := drainStores s
    (∀ k, cellRead t.mem k = s.ctx.region.stores.foldl (fun b g => (g.cover s k).getD b) (cellRead s.mem k)) ∧ t.memGood ∧
    t.ctx = { s.ctx with region := { s.ctx.region with stores := [] } } ∧
    { t with mem := s.mem, dies := s.dies, ctx := s.ctx } = s ∧ ∀ d, { dieAt t d with req := (dieAt s d).req } = dieAt s d

/-- The sixteen atomics: the old value into sd, the operation's value in memory in one step, every other byte unchanged (R215, R216, R217, R370). -/
def Obligations.Atomics : Prop :=
  ∀ (s : State) (o : AT) (va : BitVec 48) (e : Tlb) (d : Fin 4) (off : Nat), s.Calm → s.memGood → s.ctx.win = [] → s.ctx.region.stores = [] →
    Maps s va .atomic e (.mem d off) → Clean s d off → e.pl ≠ 3 → serves s d = true → storesOut s s.cur = false → o.scope.toNat ≤ ceilScope (domAt s s.ctx.dom).ceil →
    (s.ctx.s o.sa).toNat = va.toNat →
    let acts (i : Instr) (w : Nat) (f : BitVec w → BitVec w → BitVec w → BitVec w) : Prop := va.toNat % (w / 8) = 0 →
      let old := BitVec.ofNat w (memRead s.mem (memKey d off) (w / 8))
      ∃ m, memRead m (memKey d off) (w / 8) = (f old ((s.ctx.s o.sb).setWidth w) ((s.ctx.s o.sc).setWidth w)).toNat ∧
        (∀ k, (k < memKey d off ∨ memKey d off + w / 8 ≤ k) → cellRead m k = cellRead s.mem k) ∧ memWf m = true ∧
        Completes i s { ((countRequest s s.cur.core.die (.mem d off)).setS o.sd (old.signExtend 64)) with mem := m } (s.ctx.pc + 1)
    acts (.ataddW o) 32 (fun x b _ => x + b) ∧ acts (.ataddD o) 64 (fun x b _ => x + b) ∧
    acts (.atminW o) 32 (fun x b _ => if b.slt x then b else x) ∧ acts (.atminD o) 64 (fun x b _ => if b.slt x then b else x) ∧
    acts (.atmaxW o) 32 (fun x b _ => if x.slt b then b else x) ∧ acts (.atmaxD o) 64 (fun x b _ => if x.slt b then b else x) ∧
    acts (.atandW o) 32 (fun x b _ => x &&& b) ∧ acts (.atandD o) 64 (fun x b _ => x &&& b) ∧
    acts (.atorW o) 32 (fun x b _ => x ||| b) ∧ acts (.atorD o) 64 (fun x b _ => x ||| b) ∧
    acts (.atxorW o) 32 (fun x b _ => x ^^^ b) ∧ acts (.atxorD o) 64 (fun x b _ => x ^^^ b) ∧
    acts (.atswpW o) 32 (fun _ b _ => b) ∧ acts (.atswpD o) 64 (fun _ b _ => b) ∧
    acts (.atcasW o) 32 (fun x b c => if x = b then c else x) ∧ acts (.atcasD o) 64 (fun x b c => if x = b then c else x)

/-- Scalar accesses trap on a misaligned address, on an address outside 48 bits, on a page without the permission, and on a write to a discarded page (R211, R185, R186, R193, R218, R374, R380). The model's own choice or reading: log entry 64. -/
def Obligations.AccessFaults : Prop :=
  ∀ (s : State) (o : LS) (a : AT), s.Calm →
    let ea : Int := (s.ctx.s o.base).toNat + o.imm.toInt
    let x := s.ctx.s a.sa
    let hit (va : BitVec 48) (acc : Access) (e : Tlb) : Prop := tlbFind (coreAt s s.cur.core).tlb s.ctx.dom va acc = some e
    let da (e : Tlb) (va : BitVec 48) : BitVec 52 := e.dpn ++ va.extractLsb' 0 18
    (∀ q ∈ [(Instr.ldB o, 1, false), (.ldBu o, 1, false), (.ldH o, 2, false), (.ldHu o, 2, false), (.ldW o, 4, false), (.ldWu o, 4, false), (.ldD o, 8, false),
        (.stB o, 1, true), (.stH o, 2, true), (.stW o, 4, true), (.stD o, 8, true)],
      let (i, n, w) := (q : Instr × Int × Bool)
      let acc := if w then Access.write else .read
      (w = true → s.ctx.buffered.length < 16) → (w = false → o.order = 1 → s.ctx.buffered = []) →
      (ea % n ≠ 0 → Traps i s .s (precise cAlignment [BitVec.ofInt 64 ea])) ∧
      (ea % n = 0 → ea < 0 ∨ 2 ^ 48 ≤ ea → Faults i s (BitVec.ofInt 48 ea) cPageNotPresent 0 w true) ∧
      ∀ (va : BitVec 48) (e : Tlb), ea % n = 0 → ea = va.toNat → hit va acc e →
        (e.allows acc = false → Faults i s va cPermission (da e va) w false) ∧
        (e.allows acc = true → e.st = 1 → w = true → Faults i s va cDiscarded (da e va) w false)) ∧
    (∀ q ∈ [(Instr.ataddW a, 4), (.atminW a, 4), (.atmaxW a, 4), (.atandW a, 4), (.atorW a, 4), (.atxorW a, 4), (.atswpW a, 4), (.atcasW a, 4),
        (.ataddD a, 8), (.atminD a, 8), (.atmaxD a, 8), (.atandD a, 8), (.atorD a, 8), (.atxorD a, 8), (.atswpD a, 8), (.atcasD a, 8)],
      let (i, n) := (q : Instr × Nat)
      (x.toNat % n ≠ 0 → Traps i s .s (precise cAlignment [x])) ∧
      (x.toNat % n = 0 → 2 ^ 48 ≤ x.toNat → Faults i s (x.setWidth 48) cPageNotPresent 0 true false) ∧
      ∀ (va : BitVec 48) (e : Tlb), x.toNat % n = 0 → x.toNat = va.toNat → hit va .atomic e →
        (e.allows .atomic = false → Faults i s va cPermission (da e va) true false) ∧
        (e.allows .atomic = true → e.st = 1 → Faults i s va cDiscarded (da e va) true false)) ∧
    ∀ (va : BitVec 48) (e : Tlb) (h : BitVec 48), x.toNat = va.toNat → Maps s va .atomic e (.host h) →
      (∀ i ∈ [Instr.atminW a, .atmaxW a, .atandW a, .atorW a, .atxorW a], x.toNat % 4 = 0 → Faults i s va cPermission (da e va) true false) ∧
      (∀ i ∈ [Instr.atminD a, .atmaxD a, .atandD a, .atorD a, .atxorD a], x.toNat % 8 = 0 → Faults i s va cPermission (da e va) true false)

/-- The walk of a 256 KiB page: three indices of 10 bits, two pointers and a leaf; A is set, and D on a write; the TLB entry carries both stages' permissions (R183, R184, R185, R186, R317). The model's own choice or reading: log entry 3. -/
def Obligations.PageWalk : Prop :=
  ∀ (s : State) (c : CoreId) (dom : BitVec 12) (va : BitVec 48) (acc : Access) (e1 e2 e3 : Word) (d : Fin 4) (off : Nat) (g : Stage2) (p : Place), s.memGood →
    let at_ (table : BitVec 52) (ix : BitVec 10) : BitVec 52 := table + ix.setWidth 52 * 8
    let reads (a : BitVec 52) (q : Place) (e : Word) : Prop :=
      (∃ t, stage2 s dom a = some t ∧ t.r = true ∧ placeOf s 0 0 (t.pa.extractLsb' 35 2) t.pa = .ok q) ∧ BitVec.ofNat 64 (devRead8 s q) = e
    let pointer (e : Word) : Prop := e.getLsbD 0 = true ∧ e.extractLsb' 1 12 = 0 ∧ e.extractLsb' 52 12 = 0
    let next (e : Word) : BitVec 52 := e.extractLsb' 13 39 ++ (0 : BitVec 13)
    let writes : Bool := acc == .write || acc == .atomic
    let da : BitVec 52 := e3.extractLsb' 18 34 ++ va.extractLsb' 0 18
    (∃ q, reads (at_ (domAt s dom).ptroot (va.extractLsb' 38 10)) q e1) → pointer e1 →
    (∃ q, reads (at_ (next e1) (va.extractLsb' 28 10)) q e2) → pointer e2 →
    reads (at_ (next e2) (va.extractLsb' 18 10)) (.mem d off) e3 →
    e3.getLsbD 0 = true → e3.extractLsb' 1 3 ≠ 0 → e3.extractLsb' 52 12 = 0 → e3.extractLsb' 15 3 = 0 → (e3.getLsbD 2 = true → e3.getLsbD 1 = true) →
    e3.extractLsb' 4 2 = 0 → stage2 s dom da = some g → placeOf s (e3.extractLsb' 8 2) (e3.extractLsb' 12 2) (e3.extractLsb' 10 2) g.pa = .ok p →
    (domAt s dom).dlog = false →
    (match acc with
      | .fetch => (e3.getLsbD 3 && g.x) = true
      | .read => (e3.getLsbD 1 && g.r) = true
      | .write => (e3.getLsbD 2 && g.w) = true
      | .atomic => (e3.getLsbD 1 && g.r && e3.getLsbD 2 && g.w) = true) →
    ∃ u t, pageWalk s c dom noStrand va acc = (.ok u, t) ∧
      ((domAt? s dom).isSome = true → (virtOf s dom c).isSome = true → exec (.pageWalk c dom va acc) s = .next t) ∧
      u.dom = dom ∧ u.vpn = va.extractLsb' 18 30 ∧ u.dpn = e3.extractLsb' 18 34 ∧ u.ppn = g.pa.extractLsb' 18 34 ∧
      u.r = (e3.getLsbD 1 && g.r) ∧ u.w = (e3.getLsbD 2 && g.w) ∧ u.x = (e3.getLsbD 3 && g.x) ∧ u.dirty = (e3.getLsbD 7 || writes) ∧
      (coreAt t c).tlb.head? = some u ∧
      memRead t.mem (memKey d off) 8 = (e3 ||| 0x40 ||| (if writes then 0x80 else 0)).toNat ∧
      ∀ k, (k < memKey d off ∨ memKey d off + 8 ≤ k) → cellRead t.mem k = cellRead s.mem k

/-- T-slot instructions on own and group tiles enter the window when their operand checks pass, and trap on a dead tile or a bad operand (R224, R225, R230, R234, R248, R249, R250, R251, R252, R254, R278). The model's own choices or readings: log entries 47 and 48. -/
def Obligations.TileTransforms : Prop :=
  ∀ (s : State) (o : TX) (q : TQ), s.Clear →
    let D := s.opnd o.hd
    let A := s.opnd o.ha
    let Q := s.opnd q.tc
    let live (o : Opnd) : Prop := o.dead = false
    let is (o : Opnd) (p : Tile → Bool) : Prop := o.ok p = true
    let both (p : Tile → Tile → Bool) : Prop := D.ok2 A p = true
    let shape (t u : Tile) : Bool := t.rows == u.rows && t.cols == u.cols
    let notAcc (t : Tile) : Bool := t.lvl != .a
    let acc (t : Tile) : Bool := t.lvl == .a
    let stats (t : Tile) : Bool := t.fmt == 4 && !t.plane && t.rows == 3 && t.cols == 32
    let tgt : BitVec 4 := o.fn.extractLsb' 5 4
    let gate (i : Instr) (sval : Word) (td ta : Option TRef) (frees : List TRef) (lives ok : Prop) : Prop := i.wf = true →
      (lives ∧ ok → Enters i s s sval Lay.zero td ta none frees none) ∧ (¬ lives → Refuses i s cDeadTile 0) ∧
      (lives ∧ ¬ ok → Refuses i s cTileOperand 0)
    let hd := s.refOf o.hd
    let ha := s.refOf o.ha
    let one (i : Instr) (sval : Word) (ok : Prop) := gate i sval hd none [] (live D) ok
    let two (i : Instr) (sval : Word) (ok : Prop) := gate i sval hd ha (if o.la = 1 then ha.toList else []) (live D ∧ live A) ok
    gate (.tfree o) 0 hd none hd.toList (D.isFree = false) True ∧ one (.tpark o) 0 True ∧ one (.twake o) 0 True ∧
    one (.tfill o) (s.ctx.s o.x) (is D notAcc) ∧
    two (.tcopy o) 0 (o.hd ≠ o.ha ∧ is D notAcc ∧ is A notAcc ∧ both fun t u => t.fmt == u.fmt && shape t u) ∧
    two (.ttrans o) 0 (o.hd ≠ o.ha ∧ is D notAcc ∧ is A notAcc ∧ both fun t u => t.fmt == u.fmt && t.rows == u.cols && t.cols == u.rows) ∧
    two (.tcvt o) 0 (o.hd ≠ o.ha ∧ is D notAcc ∧ is A notAcc ∧ is D (fun t => t.fmt == tgt) ∧ is A (fun t => t.fmt != tgt) ∧ both fun t u => t.fmt != u.fmt && shape t u) ∧
    two (.tplane o) 0 (o.hd ≠ o.ha ∧ is D (fun t => t.fmt != 4) ∧ is A (fun t => t.fmt != 4) ∧ is D notAcc ∧ is A notAcc ∧ both fun t u => t.fmt == u.fmt && shape t u && t.plane != u.plane) ∧
    two (.tscale o) (s.ctx.s o.x) (o.hd ≠ o.ha ∧ is D notAcc ∧ is A notAcc ∧ both fun t u => t.fmt == u.fmt && shape t u && t.plane == u.plane) ∧
    one (.tscaleBs o) 0 (is D notAcc ∧ is D fun t => t.fmt == 5) ∧ one (.tscaleNobs o) 0 (is D notAcc ∧ is D fun t => t.fmt == 5) ∧
    gate (.aclr q) 0 (s.refOf q.tc) none [] (live Q) (is Q acc) ∧ gate (.asetq q) 0 (s.refOf q.tc) none [] (live Q) (is Q acc) ∧
    two (.acvt o) 0 (is D notAcc ∧ is A acc ∧ tgt ≠ 9 ∧ is D fun t => t.rows == 32 && t.cols == 32 && t.fmt == tgt) ∧
    two (.aaddt o) 0 (o.hd ≠ o.ha ∧ is D acc ∧ is A acc) ∧
    two (.achk o) 0 (is D notAcc ∧ is A acc ∧ is D stats) ∧ two (.afix o) 0 (is D notAcc ∧ is A acc ∧ is D stats)

/-- MMA enters the window and debits EBUD by (EC + 1) times its occupancy, or waits while EBUD is 0; TSQLD enters, or traps when it would overfill the queue (R238, R245, R366, R290, R291). The model's own choice or reading: log entry 32. -/
def Obligations.MatrixIssue : Prop :=
  ∀ (s : State) (m : MM) (o : TX), s.Clear →
    let C := s.opnd m.tc
    let A := s.opnd m.ta
    let B := s.opnd m.tb
    let X := s.opnd o.ha
    let is (o : Opnd) (p : Tile → Bool) : Prop := o.ok p = true
    let c1 : Prop := C.dead = false ∧ A.dead = false ∧ B.dead = false
    let c2 : Prop := is C (fun t => t.lvl == .a) ∧ is A (fun t => t.lvl != .a) ∧ is B fun t => t.lvl != .a
    let c3 : Prop := is A (fun t => t.plane && t.rows == 32) ∧ is B fun t => !t.plane
    let c4 : Prop := is A (fun t => t.cols % 32 == 0) ∧ is B (fun t => if m.trb = 1 then t.rows == 32 else t.cols == 32) ∧
      A.ok2 B (fun t u => if m.trb = 1 then t.cols == u.cols else t.cols == u.rows) = true
    let c5 : Prop := is A (fun t => t.fmt != 4 && t.fmt != 9) ∧ is B fun t => t.fmt != 4 && t.fmt != 9
    let debit : Nat := match A with
      | .tile a => (m.ec.toNat + 1) * (fmtPlanes a.fmt * (a.cols / 32))
      | _ => 0
    let ra := s.refOf m.ta
    let rb := s.refOf m.tb
    let n := o.fn.toNat + 1
    let ux := s.refOf o.ha
    ((Instr.mma m).wf = true → s.ctx.ebud ≠ 0 →
      (c1 ∧ c2 ∧ c3 ∧ c4 ∧ c5 →
        Enters (.mma m) s (s.onCtx fun c => { c with ebud := BitVec.ofNat 32 (s.ctx.ebud.toNat - debit) }) 0 Lay.zero (s.refOf m.tc) ra rb
          ((if m.la = 1 then ra.toList else []) ++ if m.lb = 1 then rb.toList else []) none) ∧
      (¬ c1 → Refuses (.mma m) s cDeadTile 1) ∧ (c1 ∧ ¬ c2 → Refuses (.mma m) s cTileOperand 2) ∧ (c1 ∧ c2 ∧ ¬ c3 → Refuses (.mma m) s cTileOperand 3) ∧
      (c1 ∧ c2 ∧ c3 ∧ ¬ c4 → Refuses (.mma m) s cTileOperand 4) ∧ (c1 ∧ c2 ∧ c3 ∧ c4 ∧ ¬ c5 → Refuses (.mma m) s cTileOperand 5)) ∧
    (s.ctx.ebud = 0 → exec (.mma m) s = .next ((throttleEvent s s.cur.core s.ctx.dom .energy).onCtx fun c => { c with wait := .none, blocked := true })) ∧
    ((Instr.tsqld o).wf = true → X.dead = false →
      is X (fun u => u.fmt == 2 && !u.plane && u.lvl != .a && decide ((s.ctx.s o.x).toNat + n ≤ u.rows * u.cols)) →
      (s.ctx.scq.length + n ≤ 512 →
        Enters (.tsqld o) s (s.onCtx fun c => { c with flushed := false, fullHeld := false }) (s.ctx.s o.x) Lay.zero none ux none (if o.la = 1 then ux.toList else []) none) ∧
      (512 < s.ctx.scq.length + n → Traps (.tsqld o) s .t (precise cScaleQueue [BitVec.ofNat 64 (n + 65536 * (512 - s.ctx.scq.length))])))

/-- TALLOC of a free own handle makes it live with a zeroed tile of its format, shape, level and layout; refused fields, a live handle or no room trap (R229, R230, R314). The model's own choices or readings: log entries 11 and 46. -/
def Obligations.TileAllocation : Prop :=
  ∀ (s : State) (o : TA), s.Clear → (Instr.talloc o).wf = true → o.h.toNat < 24 →
    let k := coreAt s s.cur.core
    let units := tileBanks o.fmt (o.rows.toNat + 1) (o.cols.toNat + 1) (o.lay == 1)
    let accepted : Prop := (o.lvl = 0 ∧ o.fmt ≠ 9 ∧ ¬ (o.fmt = 4 ∧ o.lay = 1) ∧ units ≤ 32) ∨ (o.lvl = 1 ∧ o.fmt = 9 ∧ o.rows = 31 ∧ o.cols = 31 ∧ o.lay = 0)
    let room : Prop := (o.lvl = 0 → usedBanks s + units ≤ s.ctx.sAllot) ∧ (o.lvl = 1 → usedATiles s + 1 ≤ s.ctx.aAllot)
    (accepted → room → s.refOf o.h = none → tableUsed k < 128 →
      ∃ t : Tile, t.tid = k.nextTid ∧ t.st = .alloc ∧ t.slot = some s.cur.slot ∧ t.dom = s.ctx.dom ∧ t.grp = s.ctx.grp ∧ t.ix = s.ctx.strix ∧ t.handle.val = o.h.toNat ∧
        t.lvl = (if o.lvl = 0 then .s else .a) ∧ t.fmt = o.fmt ∧ t.rows = o.rows.toNat + 1 ∧ t.cols = o.cols.toNat + 1 ∧ t.plane = (o.lay == 1) ∧ t.bs = false ∧
        (∀ x ∈ t.data, x = 0) ∧ t.pois = 0 ∧ (o.lvl = 0 → t.data.length = t.rows ∧ t.units = units ∧ t.acc = none) ∧ (o.lvl = 1 → t.acc = some (Acc.clear 0)) ∧
        Enters (.talloc o) s ((modCore s s.cur.core fun k => { k with tiles := k.tiles ++ [t], nextTid := k.nextTid + 1 }).onCtx fun c =>
          { c with hmap := if h : o.h.toNat < 24 then c.hmap.set o.h.toNat (some k.nextTid) h else c.hmap }) 0 Lay.zero (some (.own k.nextTid)) none none [] none) ∧
    (¬ accepted → Refuses (.talloc o) s cTileOperand 0) ∧
    (∀ u, s.opnd o.h = .tile u → u.st ≠ .discarded → Refuses (.talloc o) s cTileOperand 0) ∧
    (accepted → s.refOf o.h = none → (¬ room ∨ (128 ≤ tableUsed k ∧ spillable k = [])) → Refuses (.talloc o) s cTileTableFull 0)

/-- TLOAD, TSTORE and TCKPT capture base, layout record, handle and deadline, and enter the window when the checks of the record pass (R220, R225, R231, R232, R233, R227, R278, R106). The model's own choice or reading: log entry 47. -/
def Obligations.TileTransfers : Prop :=
  ∀ (s : State) (o : TM), s.Clear →
    let v := s.ctx.v o.rcd
    let base := s.ctx.s o.base
    let ref := s.refOf o.h
    let dl : Option (BitVec 64) := if o.dl = 0 then none else some ((dieAt s s.cur.core.die).tb + BitVec.ofNat 64 (1000 * o.dl.toNat))
    let dropped := s.onCtx fun c => c.dropV o.rcd o.lr
    ∀ q ∈ [(Instr.tload o, 5, dropped, []), (.tstore o, 6, s, if o.lr = 1 then ref.toList else []), (.tckpt o, 0x18, dropped, [])],
      let (i, op, kept, frees) := (q : Instr × Nat × State × List TRef)
      let checks := firstBad (transferChecks op (recordOf v) base (s.opnd o.h))
      i.wf = true →
      (s.ctx.Readable o.rcd → recordReserved v = false → checks = none → Enters i s kept base (recordOf v) ref none none frees dl) ∧
      (∀ b, s.ctx.Readable o.rcd → recordReserved v = false → checks = some b →
        Traps i s .t (precise b.code (if b.code = cAlignment then [base] else [(encode i).setWidth 64, BitVec.ofNat 64 b.num]))) ∧
      (s.ctx.Readable o.rcd → recordReserved v = true → checks = none → Traps i s .t (precise cReservedField (bundleOpnd (encodeBundle i)))) ∧
      (s.ctx.vLive o.rcd = false → recordReserved v = false → checks = none →
        Traps i s .t (precise cDeadRegister [BitVec.ofNat 64 (o.rcd.toNat + 256 * (physV s.ctx.vrb o.rcd).toNat + 65536)]))

/-- SPAWN reads a 128-byte launch record, submits it and returns its code; RCLAIM closes the strand's chunk and returns the next one of its die's share (R143, R144, R32, R33, R34, R384). The model's own choices or readings: log entries 6, 11 and 58. -/
def Obligations.LaunchInstructions : Prop :=
  ∀ (s : State) (o : SR), s.Calm → s.ctx.win = [] → s.ctx.region.stores = [] →
    let a := s.ctx.s o.sa
    let va : BitVec 48 := a.setWidth 48
    let c := s.ctx
    let open_ (i : Instr) : State := (begun i s).onFrame fun f => { f with endsRegion := true }
    (∀ (e1 e2 : Tlb) (d1 d2 : Fin 4) (o1 o2 : Nat), a.toNat % 64 = 0 → a.toNat < 2 ^ 48 →
      a.toNat + 64 < 2 ^ 48 → storesOut s s.cur = false → Maps s va .read e1 (.mem d1 o1) → Maps s (va + 64) .read e2 (.mem d2 o2) →
      tabGet? s.latent (lineKey d1 o1) = none → tabGet? s.latent (lineKey d2 o2) = none →
      let b := (((open_ (.spawn o)).onFrame fun f => { f with drains := true }).request (.mem d1 o1)).request (.mem d2 o2)
      ∃ r : Vector Word 16,
        (∀ k, k < 8 → r.toList[k]? = some (BitVec.ofNat 64 (memRead s.mem (memKey d1 (o1 + 8 * k)) 8)) ∧
          r.toList[8 + k]? = some (BitVec.ofNat 64 (memRead s.mem (memKey d2 (o2 + 8 * k)) 8))) ∧
        Completes (.spawn o) s (((submit b c.dom r a none none).1.setS o.sd (BitVec.ofNat 64 (submit b c.dom r a none none).2)).onCtx fun c => { c with wdc := 0 })
          (c.pc + 1)) ∧
    (a.toNat % 64 ≠ 0 → Traps (.spawn o) s .c (precise cAlignment [a])) ∧
    (a.toNat % 64 = 0 → 2 ^ 48 ≤ a.toNat → Traps (.spawn o) s .c ⟨cPageNotPresent, .b, 0, va, [0, 0]⟩) ∧
    (∀ (b : State) (dom : BitVec 12) (r : Vector Word 16) (ad : Word),
      let l := mkLaunch b dom r ad none none
      (submit b dom r ad none none).2 = recordCode b l ∧
      (recordCode b l = 0 → (submit b dom r ad none none).1 = offerLaunch { b with launches := b.launches ++ [l], nextLaunch := b.nextLaunch + 1 } b.nextLaunch) ∧
      (recordCode b l = 10 → (submit b dom r ad none none).1 = b)) ∧
    (c.occ = .strand →
      let b := closeChunks (open_ (.rclaim o)) c.grp c.strix
      let ends (u : State) (v : Word) : Prop := Completes (.rclaim o) s (u.setS o.sd v) (c.pc + 1)
      let d := s.cur.core.die
      (∀ g l, groupAt s c.grp = some g → launchAt b g.launch = some l → lRng l.record = true → shareDry d l.shares = false ∨ victimOf l.shares = none →
        (∀ k sh, claim s.cur.core.die c.grp c.strix l.shares = (some k, sh) →
          ends (modLaunch b l.id fun l => { l with shares := sh }) (lRbase l.record + BitVec.ofNat 64 (k * lChunk l.record))) ∧
        (∀ sh, claim s.cur.core.die c.grp c.strix l.shares = (none, sh) → ends (modLaunch b l.id fun l => { l with shares := sh }) (BitVec.allOnes 64))) ∧
      (∀ g l v, groupAt s c.grp = some g → launchAt b g.launch = some l → lRng l.record = true → shareDry d l.shares = true → victimOf l.shares = some v →
        exec (.rclaim o) s = .next (askBundle ⟨3, .steal l.id d v.die, .lost d, 0, 0⟩ (encodeBundle (.rclaim o)) s)) ∧
      (groupAt s c.grp = none → ends b (BitVec.allOnes 64)) ∧
      (∀ g l, groupAt s c.grp = some g → launchAt b g.launch = some l → lRng l.record = false → ends b (BitVec.allOnes 64))) ∧
    (∀ (d : Fin 4) (g : BitVec 20) (ix : BitVec 6) (h : Share) (l : List Share), h.die = d →
      (∀ k t, h.again = k :: t → (claim d g ix (h :: l)).1 = some k) ∧ (h.again = [] → h.lo < h.hi → (claim d g ix (h :: l)).1 = some h.lo)) ∧
    (∀ h k, c.occ = .refl h k → Traps (.rclaim o) s .c (precise cPermission [0]))

/-- FPOST and FPOSTR add S[sa] + imm8 to a counting flag, saturating; FSET sets it; FRD reads it; a core that the domain does not hold is a permission fault (R349, R350, R351, R352, R368). -/
def Obligations.FlagOperations : Prop :=
  ∀ (s : State) (o : YF), s.Calm → s.ctx.win = [] → s.ctx.region.stores = [] → storesOut s s.cur = false →
    let v : BitVec 32 := (s.ctx.s o.sa + o.imm.setWidth 64).setWidth 32
    let target : Option CoreId := if o.rt = 1 then physOf s s.ctx.dom o.die o.core else some s.cur.core
    (∀ c, target = some c → serves s c.die = true →
      let fl : FlagRef := ⟨c, fin32 o.f.toNat⟩
      let old := flagVal s fl
      let sum : BitVec 32 := BitVec.ofNat 32 (min (old.toNat + v.toNat) (2 ^ 32 - 1))
      let after (i : Instr) (x : BitVec 32) : State := (putFlag ((begun i s).onCtx fun c => { c with wdc := 0 }) fl x).onCtx fun c => { c with flushed := true }
      let first : Prop := ∀ p ∈ s.ctx.posts, p.fl.core ≠ c
      (first → Completes (.fpost o) s (after (.fpost o) sum) (s.ctx.pc + 1)) ∧
      (2 ≤ ceilScope (domAt s s.ctx.dom).ceil → Completes (.fpostr o) s (after (.fpostr o) sum) (s.ctx.pc + 1)) ∧
      (first → Completes (.fset o) s (after (.fset o) v) (s.ctx.pc + 1)) ∧
      (first → Completes (.frd o) s (s.setS o.sd (old.setWidth 64)) (s.ctx.pc + 1)) ∧
      (¬ first → ∀ i ∈ [Instr.fpost o, .fset o, .frd o], ∃ t, exec i s = .next t ∧ t.ctx.pc = s.ctx.pc ∧ t.ctx.blocked = true ∧ flagVal t fl = old)) ∧
    (∀ (u : State) (fl : FlagRef) (x : BitVec 32), let t := putFlag u fl x
      flagVal t fl = x ∧ (∀ g, g ≠ fl → flagVal t g = flagVal u g) ∧ t.mem = u.mem ∧ t.ctx = latchWait fl x u.ctx ∧ t.doms = u.doms ∧ t.frame = u.frame ∧
      t.ctxs = u.ctxs.map (fun p => (p.1, latchWait fl x p.2)) ∧ t.launches.map Launch.id = u.launches.map Launch.id) ∧
    (target = none → ∀ i ∈ [Instr.fpost o, .fset o, .frd o, .fwait o], Traps i s .y (precise cPermission [0]))

/-- FENCE, BAR, FWAIT and TMWAIT complete at once when their condition holds, else into their wait; a scope beyond the ceiling is narrowed with NF, or traps (R43, R353, R354, R355, R358, R367, R270, R269, R384). The model's own choices or readings: log entries 22 and 49. -/
def Obligations.WaitOperations : Prop :=
  ∀ (s : State) (o : YF), s.Calm → s.ctx.win = [] → s.ctx.region.stores = [] → storesOut s s.cur = false →
    let c := s.ctx
    let ceil := ceilScope (domAt s c.dom).ceil
    let next := c.pc + 1
    let point (u : State) : State := u.onCtx fun c => { c with flushed := true }
    let v : BitVec 32 := (c.s o.sa + o.imm.setWidth 64).setWidth 32
    let k := fin4 o.f.toNat
    let at_ : Word := c.s o.sa + BitVec.ofNat 64 (1000 * o.imm.toNat)
    let now := (dieAt s s.cur.core.die).tb
    let timed (i : Instr) (tgt : Word) : Prop :=
      (tgt.toNat ≤ now.toNat → Completes i s (point (s.onCtx fun c => { c with wdc := 0 })) next) ∧
      (now.toNat < tgt.toNat → Completes i s (point (s.onCtx fun c => c.awaits (.tmwait tgt))) next)
    (o.f.toNat ≤ ceil → Completes (.fence o) s (point s) next) ∧
    (ceil < o.f.toNat → (domAt s c.dom).cmode = false → Completes (.fence o) s (point (s.onCtx fun c => { c with nf := true })) next) ∧
    (ceil < o.f.toNat → (domAt s c.dom).cmode = true →
      Traps (.fence o) s .y (precise cScope [BitVec.ofNat 64 (o.f.toNat + 16 * (domAt s c.dom).ceil.toNat)])) ∧
    (c.occ = .strand → ∀ g, groupAt s c.grp = some g →
      Completes (.bar o) s (point (barWake ((modGroup (begun (.bar o) s) g.id fun g => barArrive g k).onCtx fun c => c.awaits (.bar k g.bars[k.val].phase)))) next) ∧
    (∀ (g : Group), let b := g.bars[k.val]
      let moved : Barrier := if b.arrivals + 1 + g.doneCount = g.members.length then ⟨0, !b.phase⟩ else ⟨b.arrivals + 1, b.phase⟩
      barArrive g k = { g with bars := g.bars.set k.val moved }) ∧
    (∀ h n, c.occ = .refl h n → Traps (.bar o) s .y (precise cPermission [0])) ∧
    (∀ core, (o.rt = 0 ∧ core = s.cur.core) ∨ (o.rt = 1 ∧ physOf s c.dom o.die o.core = some core) → serves s core.die = true →
      (∀ p ∈ c.posts, p.fl.core ≠ core) →
      let fl : FlagRef := ⟨core, fin32 o.f.toNat⟩
      let b := modDom s c.dom fun d => if notifyFlag s d = some fl then { d with evt := some ⟨c.occ, c.grp, c.strix⟩ } else d
      let full : Bool := decide (64 ≤ (coreAt s core).watches.length)
      let waits (u : State) (poll : Bool) := Completes (.fwait o) s (point (u.onCtx fun c => c.awaits (.fwait fl false v (o.rt == 1) o.die o.core poll false))) next
      (v.toNat ≤ (flagVal s fl).toNat → Completes (.fwait o) s (point (b.onCtx fun c => { c with wdc := 0 })) next) ∧
      ((flagVal s fl).toNat < v.toNat → o.rt = 0 → waits b false) ∧
      ((flagVal s fl).toNat < v.toNat → o.rt = 1 → full = false → waits (modCore b core fun k => { k with watches := k.watches ++ [(s.cur.slot, s.cur)] }) false) ∧
      ((flagVal s fl).toNat < v.toNat → o.rt = 1 → full = true → waits b true)) ∧
    timed (.tmwait o) (at_ - (domAt s c.dom).tbofs) ∧ timed (.tmwaitRel o) (now + at_)

/-- In a context with CST.PRIV = 0 every system instruction takes the permission fault, precisely, and commits nothing (R151, R118, R374, R380). -/
def Obligations.SystemPrivilege : Prop :=
  ∀ (s : State) (o : SY), s.Calm → s.ctx.priv = false →
    ∀ i ∈ [Instr.dnew o, .dgrantRange o, .dgrantCore o, .dgrantVf o, .dgrantBud o, .drevokeRange o, .drevokeCore o, .drevokeVf o, .dkill o,
        .dpolicyTrap o, .dpolicyFlags o, .dpolicyEvq o, .dpolicyDlog o, .dpolicyScope o, .dpolicyTbofs o, .dpolicySpill o, .dquery o,
        .tlbinvAll o, .tlbinvVa o, .tlbinvDom o, .rtload o, .rtloadClr o, .evpostOwn o, .evpostPar o, .evpostChild o, .pgstateBegin o, .pgstateEnd o],
      Traps i s .c (precise cPermission [0])

/-- DNEW and DGRANT.range, .core, .vf and .bud complete under their conditions: a new child domain, a child with a range, cores, a VF or a budget; else a refusal (R38, R319, R323, R324, R325, R327, R329, R330). The model's own choices or readings: log entries 40 and 68. -/
def Obligations.DomainCreation : Prop :=
  ∀ (s : State) (o : SY) (d : List Word) (ps : List Place), s.Supervisor →
    let own := domAt s s.ctx.dom
    let w := s.ctx.s o.sa
    let x1 := s.ctx.s o.sb
    let x2 := s.ctx.s o.sc
    let turns (i : Instr) (ps : List Place) : Prop := (domAt? s (w.setWidth 12) = none → RefusedAt i s ps o 2) ∧
      (∀ x, domAt? s (w.setWidth 12) = some x → (x.id = 0 ∨ x.parent ≠ s.ctx.dom) → RefusedAt i s ps o 2) ∧
      (∀ x, domAt? s (w.setWidth 12) = some x → x.id ≠ 0 → x.parent = s.ctx.dom → x.dying = true → RefusedAt i s ps o 7)
    let read (i : Instr) : State := (sysOpen i s).readsOf ps
    (Describes s w 8 ps d → ∀ id, freeDomain s = some id →
      let iw : BitVec 8 := (wordAt d 2).setWidth 8
      let bw : BitVec 8 := (wordAt d 2).extractLsb' 8 8
      let es : BitVec 32 := (wordAt d 3).setWidth 32
      let bad : Bool := (wordAt d 0).extractLsb' 0 13 != 0 || (wordAt d 0).extractLsb' 52 12 != 0 || (wordAt d 1).extractLsb' 0 6 != 0 ||
        (wordAt d 1).extractLsb' 48 16 != 0 || (wordAt d 2).extractLsb' 16 48 != 0 || (wordAt d 3).extractLsb' 32 32 != 0 ||
        wordAt d 5 != 0 || wordAt d 6 != 0 || wordAt d 7 != 0 || iw == 0 || bw == 0
      let full : Prop := own.depth = 8 ∨ (s.ctx.dom = 0 ∧ 32 ≤ (children s 0).length)
      let beyond : Prop := own.iw.toNat < iw.toNat ∨ own.bw.toNat < bw.toNat ∨ own.eshare.toNat < childShares s s.ctx.dom 0 + es.toNat
      let child : Dom := { Dom.root with id := id, depth := own.depth + 1, parent := s.ctx.dom, iw := iw, bw := bw, ceil := own.ceil, cmode := own.cmode, eshare := es, ptroot := (wordAt d 0).setWidth 52, supcb := (wordAt d 1).setWidth 48, tbofs := wordAt d 4 }
      (bad = false → ¬ full → ¬ beyond → Answers (.dnew o) s o (putDom (read (.dnew o)) child) (id.setWidth 64)) ∧
      (bad = true → RefusedAt (.dnew o) s ps o 1) ∧ (bad = false → full → RefusedAt (.dnew o) s ps o 4) ∧ (bad = false → ¬ full → beyond → RefusedAt (.dnew o) s ps o 5)) ∧
    (∀ i ∈ [Instr.dgrantCore o, .dgrantVf o, .dgrantBud o], turns i []) ∧ (Describes s x1 4 ps d → turns (.dgrantRange o) ps) ∧
    (∀ x, OwnChild s w x →
      (Describes s x1 4 ps d →
        let lo := ((wordAt d 0).extractLsb' 18 34).toNat
        let base := ((wordAt d 1).extractLsb' 18 34).toNat
        let n := (wordAt d 2).toNat / 2 ^ 18
        let g : Range := ⟨BitVec.ofNat 34 lo, BitVec.ofNat 34 base, BitVec.ofNat 34 n, (wordAt d 0).getLsbD 2, (wordAt d 0).getLsbD 1, (wordAt d 0).getLsbD 0⟩
        let good : Prop := rangeOk d false = true ∧ ∀ e ∈ x.grants, lo + n ≤ e.dbase.toNat ∨ e.dbase.toNat + e.count.toNat ≤ lo
        let covered : Prop := compCovers s s.ctx.dom base n g.x g.w g.r = true
        let room : Prop := x.grants.length < 48 ∧ (composeAll own.comp (x.grants ++ [g])).length ≤ 48
        (good → covered → room → Answers (.dgrantRange o) s o (recompose (putDom (read (.dgrantRange o)) { x with grants := x.grants ++ [g] }) 9 x.id) 0) ∧
        (¬ good → RefusedAt (.dgrantRange o) s ps o 1) ∧ (good → ¬ covered → RefusedAt (.dgrantRange o) s ps o 3) ∧
        (good → covered → ¬ room → RefusedAt (.dgrantRange o) s ps o 4)) ∧
      (let l := ((List.range 48).filter fun k => x1.getLsbD k).map fun k => own.cores.find? fun m => m.vdie == x2.setWidth 2 && m.vcore.toNat == k
       let cores := l.filterMap id
       let taken : Prop := s.ctx.dom = 0 ∧ ∃ p ∈ children s 0, p ≠ x.id ∧ ∃ m ∈ cores, (virtOf s p m.core).isSome = true
       let u := levelsAfter (addCores (sysOpen (.dgrantCore o) s) x.id cores) [x.id]
       (none ∉ l → ¬ taken → (∀ t ∈ s.tasksets, t.reg.dom ≠ x.id) → Answers (.dgrantCore o) s o (addCores (sysOpen (.dgrantCore o) s) x.id cores) 0) ∧
       (none ∉ l → ¬ taken → ∃ t, exec (.dgrantCore o) s = .next t ∧ (Untouched (sysOpen (.dgrantCore o) s) u → Commits (u.setS o.sd 0) t (s.ctx.pc + 1))) ∧
       (none ∈ l → Refused (.dgrantCore o) s o 3) ∧ (none ∉ l → taken → Refused (.dgrantCore o) s o 6)) ∧
      (let v := vfNum x1
       let b := sysOpen (.dgrantVf o) s
       ((vfBind s v).dom = s.ctx.dom → Answers (.dgrantVf o) s o (recomputeCeil { b with vfb := tabPut b.vfb v { vfBind s v with dom := x.id } }) 0) ∧
       ((vfBind s v).dom ≠ s.ctx.dom → Refused (.dgrantVf o) s o 3)) ∧
      (let iw : BitVec 8 := x1.setWidth 8
       let bw : BitVec 8 := x1.extractLsb' 8 8
       let es : BitVec 32 := x2.setWidth 32
       let beyond : Prop := own.iw.toNat < iw.toNat ∨ own.bw.toNat < bw.toNat ∨ own.eshare.toNat < childShares s s.ctx.dom x.id + es.toNat
       (iw ≠ 0 → bw ≠ 0 → ¬ beyond → Answers (.dgrantBud o) s o (clampBudgets (putDom (sysOpen (.dgrantBud o) s) { x with iw := iw, bw := bw, eshare := es }) 9 x.id) 0) ∧
       (iw = 0 ∨ bw = 0 → Refused (.dgrantBud o) s o 1) ∧ (iw ≠ 0 → bw ≠ 0 → beyond → Refused (.dgrantBud o) s o 5)))

/-- DREVOKE takes a range, cores or a VF from a child, DKILL ends a descendant with its subtree; then they wait for the subtree's accesses under way (R322, R327, R331, R332, R392). The model's own choices or readings: log entries 28 and 42. -/
def Obligations.DomainRevocation : Prop :=
  ∀ (s : State) (o : SY) (d : List Word) (ps : List Place), s.Supervisor →
    let w := s.ctx.s o.sa
    let x1 := s.ctx.s o.sb
    let x2 := s.ctx.s o.sc
    let id : BitVec 12 := w.setWidth 12
    let doms := id :: descendants s id
    let turns (i : Instr) (ps : List Place) : Prop := (domAt? s (w.setWidth 12) = none → RefusedAt i s ps o 2) ∧
      (∀ x, domAt? s (w.setWidth 12) = some x → (x.id = 0 ∨ x.parent ≠ s.ctx.dom) → RefusedAt i s ps o 2) ∧
      (∀ x, domAt? s (w.setWidth 12) = some x → x.id ≠ 0 → x.parent = s.ctx.dom → x.dying = true → RefusedAt i s ps o 7)
    let moves (i : Instr) (u : State) (free : Bool) : Prop :=
      ∃ t, exec i s = .next t ∧ (Untouched (sysOpen i s) u → Commits (drained u o doms free) t (s.ctx.pc + 1))
    turns (.drevokeCore o) [] ∧ turns (.drevokeVf o) [] ∧ (Describes s x1 4 ps d → turns (.drevokeRange o) ps) ∧
    (∀ x, OwnChild s w x → x.id = id →
      (Describes s x1 4 ps d →
        let cut := x.grants.flatMap (cutGrant ((wordAt d 0).extractLsb' 18 34).toNat ((wordAt d 2).toNat / 2 ^ 18))
        let b := (sysOpen (.drevokeRange o) s).readsOf ps
        (rangeOk d true = true → cut.length ≤ 48 → Drains (.drevokeRange o) s o (afterRevoke (putDom b { x with grants := cut }) id) doms false) ∧
        (rangeOk d true = false → RefusedAt (.drevokeRange o) s ps o 1) ∧ (rangeOk d true = true → 48 < cut.length → RefusedAt (.drevokeRange o) s ps o 4)) ∧
      (let l := ((List.range 48).filter fun k => x1.getLsbD k).map fun k =>
          (domAt s s.ctx.dom).cores.find? fun m => m.vdie == x2.setWidth 2 && m.vcore.toNat == k
       let held := ((l.filterMap fun m => m).map MapEntry.core).filter fun c => doms.any fun d => (virtOf s d c).isSome
       (none ∈ l → Refused (.drevokeCore o) s o 3) ∧
       (none ∉ l → moves (.drevokeCore o) (levelsAfter (held.foldl (fun s c => removeCore s c doms) (invalidateAll (sysOpen (.drevokeCore o) s) doms)) doms) false)) ∧
      (let v := vfNum x1
       let b := sysOpen (.drevokeVf o) s
       (isSelfOrBelow s id (vfBind s v).dom = true → Drains (.drevokeVf o) s o
          (afterRevoke (recomputeCeil { b with vfb := tabPut b.vfb v { vfBind s v with dom := s.ctx.dom } }) id) doms false) ∧
       (isSelfOrBelow s id (vfBind s v).dom = false → Refused (.drevokeVf o) s o 3))) ∧
    (domAt? s id = none → Refused (.dkill o) s o 2) ∧
    (∀ x, domAt? s id = some x → x.id = id → isDescendant s s.ctx.dom id = false → Refused (.dkill o) s o 2) ∧
    (∀ x, domAt? s id = some x → x.id = id → isDescendant s s.ctx.dom id = true →
      (x.dying = true → Refused (.dkill o) s o 7) ∧
      (x.dying = false → moves (.dkill o) (killDomain (sysOpen (.dkill o) s) s.ctx.dom id) true)) ∧
    (∀ (u : State) (k : BitVec 12), k ∈ doms → domAt? (freeDomains u doms) k = none)

/-- DPOLICY sets a child's trap action, flags, event queue, dirty log, scope ceiling, TBOFS or spill area, or refuses; DQUERY reads a word of an entry (R321, R322, R325, R326, R327, R333, R334). The model's own choices or readings: log entries 39 and 40. -/
def Obligations.DomainPolicy : Prop :=
  ∀ (s : State) (o : SY), s.Supervisor →
    let own := domAt s s.ctx.dom
    let w := s.ctx.s o.sa
    let x1 := s.ctx.s o.sb
    let x2 := s.ctx.s o.sc
    let sets (i : Instr) (code : Nat) (u : State) : Prop := (code ≠ 0 → Refused i s o code) ∧ (code = 0 → Answers i s o u 0)
    let put (i : Instr) (x : Dom) : State := putDom (sysOpen i s) x
    let frame (v : Word) (n : Nat) : Bool := v.extractLsb' 0 n != (0 : BitVec n)
    (∀ i ∈ [Instr.dpolicyTrap o, .dpolicyFlags o, .dpolicyEvq o, .dpolicyDlog o, .dpolicyScope o, .dpolicyTbofs o, .dpolicySpill o],
      (domAt? s (w.setWidth 12) = none → Refused i s o 2) ∧
      (∀ x, domAt? s (w.setWidth 12) = some x → (x.id = 0 ∨ x.parent ≠ s.ctx.dom) → Refused i s o 2) ∧
      (∀ x, domAt? s (w.setWidth 12) = some x → x.id ≠ 0 → x.parent = s.ctx.dom → x.dying = true → Refused i s o 7)) ∧
    (∀ x, OwnChild s w x →
      (let act : BitVec 2 := x2.setWidth 2
       sets (.dpolicyTrap o) (if act = 3 then 1 else 0) (put (.dpolicyTrap o) { x with acts := tabPut x.acts (x1.setWidth 8) act })) ∧
      (let y := put (.dpolicyFlags o) { x with rallow := x1.getLsbD 0, ptrap := x1.getLsbD 1, dlog := x1.getLsbD 2 }
       sets (.dpolicyFlags o) (if x1.getLsbD 2 && x.dlk == 0 then 1 else if x1.getLsbD 0 && !own.rallow then 5 else 0)
          (if x1.getLsbD 0 then y else clearRallow y x.id)) ∧
      (let k : BitVec 5 := x2.extractLsb' 16 5
       sets (.dpolicyEvq o) (if frame x1 12 || (k != 0 && (decide (k.toNat < 6) || decide (16 < k.toNat))) then 1 else 0)
          (put (.dpolicyEvq o) { x with eqbase := x1.setWidth 52, eqk := k, eqflag := x2.setWidth 15 })) ∧
      (let k : BitVec 5 := x2.setWidth 5
       sets (.dpolicyDlog o) (if frame x1 12 || (k != 0 && (decide (k.toNat < 9) || decide (20 < k.toNat))) then 1 else 0)
          (put (.dpolicyDlog o) { x with dlbase := x1.setWidth 52, dlk := k, dlog := x.dlog && k != 0 })) ∧
      (let v := vfNum x1
       let c : BitVec 2 := x2.setWidth 2
       let b := sysOpen (.dpolicyScope o) s
       sets (.dpolicyScope o) (if c = 3 then 1 else if isSelfOrBelow s x.id (vfBind s v).dom = false then 3 else if ceilRank own.ceil < ceilRank c then 5 else 0)
          (recomputeCeil { b with vfb := tabPut b.vfb v { vfBind s v with ceil := c, mode := x2.getLsbD 2 } })) ∧
      sets (.dpolicyTbofs o) (if x1.slt x.tbofs then 6 else 0) (put (.dpolicyTbofs o) { x with tbofs := x1 }) ∧
      sets (.dpolicySpill o) (if frame x1 18 then 1 else if tileSpilled s x.id = true then 3 else 0)
        (put (.dpolicySpill o) { x with spill := x1.setWidth 52, slots := x2.setWidth 12 })) ∧
    Answers (.dquery o) s o s (match domAt? s (w.setWidth 12) with
      | some x => if isSelfOrBelow s s.ctx.dom (w.setWidth 12) then domWord s x (x1.extractLsb' 0 4).toNat else 0
      | none => 0)

/-- TLBINV.all, .va and .dom complete without the named translations and code copies; EVPOST queues a kind 1 record to itself, its parent or a descendant (R275, R304, R307, R317, R327, R335). The model's own choices or readings: log entries 21 and 28. -/
def Obligations.TlbAndEvents : Prop :=
  ∀ (s : State) (o : SY) (ps : List Place) (l : List Word), s.Supervisor →
    let w := s.ctx.s o.sa
    let x1 := s.ctx.s o.sb
    let own := s.ctx.dom
    let id : BitVec 12 := w.setWidth 12
    Drains (.tlbinvAll o) s o (invalidate (sysOpen (.tlbinvAll o) s) [own] 0 (2 ^ 30)) [own] false ∧
    Drains (.tlbinvVa o) s o
      (invalidate (sysOpen (.tlbinvVa o) s) [own] (w.toNat / 2 ^ 18) (if x1 = 0 then 0 else (w.toNat + x1.toNat - 1) / 2 ^ 18 + 1)) [own] false ∧
    (∀ x, domAt? s id = some x → isDescendant s own x.id = true → x.dying = false →
      Drains (.tlbinvDom o) s o (invalidate (sysOpen (.tlbinvDom o) s) (x.id :: descendants s x.id) 0 (2 ^ 30)) (x.id :: descendants s x.id) false) ∧
    (∀ x, domAt? s id = some x → isDescendant s own x.id = true → x.dying = true → Refused (.tlbinvDom o) s o 7) ∧
    (∀ x, domAt? s id = some x → isDescendant s own x.id = false → Refused (.tlbinvDom o) s o 2) ∧ (domAt? s id = none → Refused (.tlbinvDom o) s o 2) ∧
    (∀ (b : State) (doms : List (BitVec 12)) (lo hi : Nat), let t := invalidate b doms lo hi
      (∀ (c : CoreId) (e : Tlb), e ∈ (coreAt t c).tlb ↔ e ∈ (coreAt b c).tlb ∧ ¬ (e.dom ∈ doms ∧ lo ≤ e.vpn.toNat ∧ e.vpn.toNat < hi)) ∧
      (∀ (d : Fin 4) (e : Tlb), e ∈ (dieAt t d).tlb ↔ e ∈ (dieAt b d).tlb ∧ ¬ (e.dom ∈ doms ∧ lo ≤ e.vpn.toNat ∧ e.vpn.toNat < hi)) ∧
      (∀ (c : CoreId) (dom : BitVec 12) (va : BitVec 48) (w : BitVec 320), ((dom, va), w) ∈ (coreAt t c).istore ↔ ((dom, va), w) ∈ (coreAt b c).istore ∧
        ¬ (dom ∈ doms ∧ ((lo ≤ va.toNat / 2 ^ 18 ∧ va.toNat / 2 ^ 18 < hi) ∨ (lo ≤ (va.toNat + 39) / 2 ^ 18 ∧ (va.toNat + 39) / 2 ^ 18 < hi)))) ∧
      t.mem = b.mem ∧ t.ctx = b.ctx ∧ t.doms = b.doms) ∧
    (Describes s x1 6 ps l →
      let read (i : Instr) : State := (sysOpen i s).readsOf ps
      let posts (i : Instr) (d : BitVec 12) : Prop :=
        let q := queueEvent (read i) d own 1 ((s.ctx.s o.sc).setWidth 8) l
        Answers i s o q.1 (match q.2 with
          | .written => 0
          | .full => 1
          | .none => 3)
      posts (.evpostOwn o) own ∧ (own ≠ 0 → posts (.evpostPar o) (domAt s own).parent) ∧ (own = 0 → Answers (.evpostPar o) s o (read (.evpostPar o)) 2) ∧
      (isDescendant s own id = true → posts (.evpostChild o) id) ∧ (isDescendant s own id = false → Answers (.evpostChild o) s o (read (.evpostChild o)) 2))

/-- RTLOAD checks a rule image and loads its entries into the tables of the domain's cores, RTLOAD.clr removes them; PGSTATE begins and ends a page's migration (R194, R327, R336, R338, R340, R341). The model's own choices or readings: log entries 10 and 19. -/
def Obligations.RulesAndPages : Prop :=
  ∀ (s : State) (o : SY) (ps qs : List Place) (h : Word) (l : List Word), s.Supervisor →
    let w := s.ctx.s o.sa
    let x1 := s.ctx.s o.sb
    let own := s.ctx.dom
    let cores := (domAt s own).cores.map MapEntry.core
    let at_ := (x1.extractLsb' 0 6).toNat
    let n := ((s.ctx.s o.sc).extractLsb' 0 7).toNat
    let refuse (code : Nat) : Word := 0x8000000000000000 ||| BitVec.ofNat 64 code
    (w.toNat % 64 = 0 → Describes s w 1 ps [h] → Describes s w (imageWords (if imageCount h ≤ 64 then imageCount h else 0)) qs l →
      let rs := imageRules l
      let classR := h.getLsbD 48
      let taken : Bool := cores.any fun c => (List.range rs.length).any fun k => match ruleAt (coreAt s c) (at_ + k) with
        | some r => Rule.valid r && Rule.dom r != own
        | none => false
      let code := if !imageSigned s l then 8 else if !headerGood l || !rs.all (ruleGood classR) then 9
        else if !classR && !rs.all classEForm then 9 else if classR && !(domAt s own).rallow then 10 else if decide (64 < at_ + rs.length) || taken then 4 else 0
      let loaded := measure l (cores.foldl (fun s c => modCore (flushDomain s c own) c (putRules own at_ rs)) ((sysOpen (.rtload o) s).readsOf (ps ++ qs)))
      Completes (.rtload o) s (if code = 0 then loaded.setS o.sd 0 else (s.readsOf (ps ++ qs)).setS o.sd (refuse code)) (s.ctx.pc + 1)) ∧
    (w.toNat % 64 ≠ 0 → Traps (.rtload o) s .c (precise cAlignment [w])) ∧
    (let code := if n = 0 ∨ 64 < n then 1 else if 64 < at_ + n then 4 else 0
      let kept (k : Core) : Core := { k with rules := k.rules.filter fun p => !(decide (at_ ≤ p.1.val) && decide (p.1.val < at_ + n) && Rule.dom p.2 == own) }
      (code ≠ 0 → Refused (.rtloadClr o) s o code) ∧
      (code = 0 → Answers (.rtloadClr o) s o (cores.foldl (fun s c => modCore (flushDomain s c own) c kept) (sysOpen (.rtloadClr o) s)) 0)) ∧
    (∀ (lvl : Nat) (e : Word) (p : Place) (g : Stage2), leafOf s w = some (lvl, e, p, g) →
      let b := sysOpen (.pgstateBegin o) s
      (e.extractLsb' 4 2 ≠ 0 → Refused (.pgstateBegin o) s o 3) ∧
      (e.extractLsb' 4 2 = 0 → Drains (.pgstateBegin o) s o (invalidatePage (devWrite b p 8 (e ||| 0x20).toNat) own lvl w) [] false)) ∧
    (leafOf s w = none → Refused (.pgstateBegin o) s o 3) ∧
    (leafOf s w = none → Refused (.pgstateEnd o) s o 3) ∧
    (∀ (lvl : Nat) (e : Word) (p : Place) (g : Stage2), leafOf s w = some (lvl, e, p, g) →
      let code := if e.extractLsb' 4 2 ≠ 2 then 3 else if newLeafBad lvl x1 then 1
        else if !compCovers s own (x1.extractLsb' 18 34).toNat (pageGranules lvl) false true false then 3 else 0
      let b := sysOpen (.pgstateEnd o) s
      let m : Migr := ⟨s.nextMigr, own, w.setWidth 48, x1 ||| 1 ||| (e &&& 0xC0)⟩
      (code ≠ 0 → Refused (.pgstateEnd o) s o code) ∧
      (code = 0 → Completes (.pgstateEnd o) s
        ({ b with nextMigr := s.nextMigr + 1, migrs := s.migrs ++ [m] }.onCtx fun c => c.awaits (.migrate s.nextMigr o.sd)) (s.ctx.pc + 1)))

/-- The issue choice takes the ready context whose domain has the largest deficit; watchdog, ends of strands, admission, take-up, restore and refills (R359, R361, R65, R368, R376, R21, R142, R146, R25, R26, R23, R360). The model's own choices or readings: log entries 4, 8, 14, 27, 43 and 77. -/
def Obligations.SchedulerEvents : Prop :=
  ∀ (s : State) (x : CtxId) (c : CoreId) (d : Fin 4),
    let k := ctxAt s x
    let b := opUpdate { s with second := none, acct := none } c []
    let r := readyNow b c
    let l := choosable b r
    let w (y : CtxId) : Int := ((domAt b (ctxAt b y).dom).iw.toNat : Int)
    let old (y : CtxId) : Int := tabGet (coreAt b c).deficits (ctxAt b y).dom 0
    let sat (n : Int) : Int := max (-8388608) (min 8388608 n)
    let sum := (((dedup (r.map fun y => (ctxAt b y).dom)).map fun d => ((domAt b d).iw.toNat : Int))).sum
    let chooses : Prop := s.frame = none ∧ s.turn = false ∧ serves s c.die = true ∧ tbReady s = true ∧ ((residents s c).any fun y => (ctxAt s y).ready) = true
    (chooses → ∃ y, (eventStrand b c r).or (primaryOf b (raised b (coreAt b c)) l) = some y ∧ y ∈ r ∧
      (let v := secondOf b y l
       let ew := bundleEw (peekBundle b y) + (v.map fun z => bundleEw (peekBundle b z)).getD 0
       let fits : Prop := ((coreAt b c).ews.take 255).sum + ew ≤ (limitsOf b (ctxAt b y).dom).slew
       let gives (v : Option CtxId) (free : Bool) : Prop := exec (.issueChoice c) s = .next { focusOn b y with turn := true, second := v, acct := some ⟨free, r⟩ }
       (fits → gives v false) ∧ (¬ fits → (eventStrand b c r).isSome = true → gives none true) ∧
       (¬ fits → eventStrand b c r = none → exec (.issueChoice c) s =
        .next (throttleEvent (pushEw (endCycle b c []) c 0) c (ctxAt b y).dom .slew)) ∧
       (∀ z, v = some z → z ∈ l ∧ z ≠ y ∧ mergeable b y z = true)) ∧
      (eventStrand b c r = none → y ∈ l ∧ ∀ z ∈ l, sat (old z + w z) ≤ sat (old y + w y) ∧
        ((ctxAt b z).dom = (ctxAt b y).dom → (ctxAt b y).lastIssue ≤ (ctxAt b z).lastIssue))) ∧
    (∀ y ∈ r, ∀ z ∈ residents b c, tabGet (newDeficits b c r y) (ctxAt b z).dom 0 =
      if (ctxAt b z).dom ∈ r.map fun v => (ctxAt b v).dom then
        (if (ctxAt b y).dom = (ctxAt b z).dom then sat (sat (old z + w z) - sum) else sat (old z + w z)) else min (old z) 0) ∧
    (¬ chooses → exec (.issueChoice c) s = .next s) ∧
    (let l := (limitsOf s k.dom).wdlim.toNat * 65536
     Happens (.watchdog x) (k.Stands ∧ k.due = none ∧ l ≠ 0 ∧ l ≤ k.wdc.toNat) s
      (modCtx s x fun c => { c with due := some ⟨cWatchdog, .x, 0, 0, [c.wdc.setWidth 64]⟩ })) ∧
    (∀ t, k.due = some t → Happens (.trapDelivery x) (s.Between x ∧ k.saving = none ∧ k.wait = .none ∧ k.reply = []) s
      (deliverTrap (modCtx s x fun c => { c with due := none }) x t (TrapAt.plain k.pc k.pc k.pc))) ∧
    (k.due = none → exec (.trapDelivery x) s = .next s) ∧
    Happens (.suspendRecordWrite x) (k.wait = .suspend ∧ k.saving = none ∧ k.win = [] ∧ k.posts = [] ∧ storesOut s x = false) s (holdDomain (writeRecord s x) k.dom x.core.die) ∧
    (let q := duePosts s x
     Happens (.strandDone x) (k.wait = .halt ∧ k.saving = none ∧ (ctxAt q x).win = [] ∧ (ctxAt q x).posts = [] ∧ storesOut q x = false) s (match (ctxAt q x).occ with
      | .refl h slot => reflHalt q x h slot
      | _ => memberDone (endStrand q x) (ctxAt q x).grp (ctxAt q x).strix)) ∧
    (∀ (l : Launch) (g : Nat) (rejected : Bool), admission s d = some (l, g, rejected) →
      Happens (.gangAdmission d) (takeUpAt s d (lPri l.record) = false ∧ restoreAt s d (lPri l.record) = false) s (offerAll (
        if rejected then rejectGroup s l d g else admitGroup (takeGroup s d l.id g) l d g (planGroup s l d)))) ∧
    (admission s d = none → exec (.gangAdmission d) s = .next s) ∧
    (∀ e, takeUpChoice s x = some e → Happens (.continuationTakeUp x)
      (noAdmissionAbove s x.core.die (recLevel e.record) = true ∧ restoreAt s x.core.die (recLevel e.record) = false) s
      (let u := meetLatent (modDie s x.core.die fun y => { y with contq := y.contq.filter fun v => !(v.arrival == e.arrival) }) x.core.die (e.addr.toNat / 64)
       let r := BitVec.ofNat 512 (memRead u.mem e.addr.toNat 64)
       if contReserved r then discardRecord u e
       else match groupAt u (recGrp e.record) with
        | none => u
        | some g => grantEnergy (setMember (putCtx u x (takeUpCtx u x g r)) g.id (recStrix e.record) (.resident x)) x)) ∧
    (takeUpChoice s x = none → exec (.continuationTakeUp x) s = .next s) ∧
    (∀ v, restoreChoice s x = some v → Happens (.restore x) (noAdmissionAbove s x.core.die v.base.pri = true ∧ (v.base.pri = 7 ∨ takeUpAt s x.core.die (v.base.pri + 1) = false)) s (restoreStrand s x v)) ∧
    (restoreChoice s x = none → exec (.restore x) s = .next s) ∧
    (let now := (tbOf s (keyDie s)).toNat / 1024
     Happens .energyRefill (s.energyAt < now) s ((allResidents s).foldl (fun u y =>
      let q := ctxAt u y
      let e := (domAt u q.dom).eshare.toNat
      putCtx u y { q with ebud := BitVec.ofNat 32 (min (q.ebud.toNat + (now - s.energyAt) * (energyGrant u y.core q.dom 0).toNat) (min (4 * e) 0xFFFFFFFF)) }) { s with energyAt := now })) ∧
    (let now := (tbOf s d).toNat / 1024
     Happens (.bandwidthRefill d) ((dieAt s d).refillAt < now) s (((allResidents s).filter fun y => y.core.die == d).foldl unparkBudget (
      modDie s d fun y => { y with bbud := [], refillAt := now })))

/-- Events that end waits, end a hold, note a missed deadline, walk, finish a page's move, and grade and complete a pre-emption act exactly when due (R352, R353, R358, R264, R269, R194, R218, R285, R357, R385, R388, R389). The model's own choices or readings: log entries 8, 14, 20, 22 and 26. -/
def Obligations.WaitAndSaveEvents : Prop :=
  ∀ (s : State) (x : CtxId) (n : Nat),
    let k := ctxAt s x
    let now := tbOf s x.core.die
    (let t := endWait s x
     ((∀ b ph, k.waits.headD .none ≠ .bar b ph) → ctxAt t x = { k with wait := k.waits.headD .none, waits := k.waits.tail, wdc := 0 }) ∧
     t.mem = s.mem ∧ t.doms = s.doms ∧ ∀ y, y ≠ x → (∀ b ph, (ctxAt s y).wait ≠ .bar b ph) → ctxAt t y = ctxAt s y) ∧
    (∀ fl dead v own vd vc poll sat, k.wait = .fwait fl dead v own vd vc poll sat →
      Happens (.fwaitSatisfied x) (k.saving = none ∧ (sat = true ∨ (dead = false ∧ poll = false ∧ serves s fl.core.die = true ∧ v.toNat ≤ (flagVal s fl).toNat))) s (endWait s x) ∧
      Happens (.fwaitPoll x) (k.saving = none ∧ poll = true ∧ dead = false ∧ serves s fl.core.die = true ∧ v.toNat ≤ (flagVal s fl).toNat) s (endWait s x)) ∧
    (∀ t, k.wait = .tmwait t → Happens (.tmwaitExpiry x) (k.saving = none ∧ t.toNat ≤ now.toNat) s (endWait s x)) ∧
    (let owed : Prop := k.te = true ∧ owedList k ≠ []
     let met : Prop := k.saving = none ∧ (owed ∨ (syncWaits s x k = [] ∧ storesOut s x = false))
     (k.wait = .fence → (met → exec (.fenceComplete x) s = .next (if k.te = true ∧ owedList k ≠ [] then deliverOwed s x else endWait s x)) ∧
      (¬ met → exec (.fenceComplete x) s = .next s)) ∧
     (∀ b, k.wait = .arrive b →
      (met → exec (.fenceComplete x) s = .next (if k.te = true ∧ owedList k ≠ [] then deliverOwed s x else arrive (focusOn (endWait s x) x) b)) ∧
      (¬ met → exec (.fenceComplete x) s = .next s)) ∧
     (k.wait = .suspend ∨ k.wait = .halt → Happens (.fenceComplete x) (k.saving = none ∧ owed) s (deliverOwed s x)) ∧
     (∀ doms tag free, k.wait = .drain doms tag free → Happens (.fenceComplete x) (accessesOut s doms tag = false ∧ leavesCore s doms = false) s
      (if free = true then freeDomains (endWait s x) doms else endWait s x)) ∧
     (∀ t e l, owedList k = (t, e) :: l → deliverOwed s x =
      deliverTrap (modCtx s x fun c => { c with wait := .none, waits := [], resume := c.wait :: c.waits, fresh := true }) x t (deferAt e k.pc))) ∧
    (∀ c dom va acc, Happens (.pageWalk c dom va acc) ((domAt? s dom).isSome = true ∧ (virtOf s dom c).isSome = true) s (pageWalk s c dom noStrand va acc).2) ∧
    (∀ m, (s.migrs.find? fun m => m.n == n) = some m → exec (.migrationCopyComplete n) s = .next (dueAll (finishMove s m))) ∧
    ((s.migrs.find? fun m => m.n == n) = none → exec (.migrationCopyComplete n) s = .next s) ∧
    (∀ (p : Pend) (data : BitVec 512), pendAt s n = some p → p.at_.isHost = true →
      let v := data.toNat % 256 ^ p.size
      exec (.hostCompletion n false data) s = .next (takeAnswer s p (.value v false)) ∧ exec (.hostCompletion n true data) s = .next (takeAnswer s p .lost) ∧
      ∀ key va, p.who = .bundle x key va → p.op = .read →
        ctxAt (takeAnswer s p (.value v false)) x = { (if k.wait = .outside then k.nextWait else k) with reply := k.reply ++ [⟨key, p.at_, v, false⟩] } ∧
        (ctxAt (takeAnswer s p .lost) x).reply = k.reply ++ [⟨key, p.at_, 0, true⟩]) ∧
    (∀ (o : LS) (va h : BitVec 48) (e : Tlb) (v : Nat), s.Calm → s.ctx.win = [] → Maps s va .read e (.host h) → storeStalls s s.cur (some (placeHome (.host h))) = false →
      o.order = 0 → ((s.ctx.s o.base).toNat : Int) + o.imm.toInt = va.toNat → va.toNat % 8 = 0 →
      exec (.ldD o) s = .next (askBundle ⟨0, .read, .host h, 8, va⟩ (encodeBundle (.ldD o)) s) ∧
      (let u := s.onCtx fun c => { c with reply := [⟨0, .host h, v, false⟩], again := some (encodeBundle (.ldD o)) }
       Completes (.ldD o) u (u.setS o.reg (extendTo 8 false (forward s s.ctx.region.stores (.host h) 8 v))) (s.ctx.pc + 1))) ∧
    (∀ e, entryAt k n = some e →
      Happens (.holdRelease x n) (e.st = .held ∧ e.at_ + 256 ≤ (coreAt s x.core).cyc) s (modEntry s x n fun e => { e with st := .pending }) ∧
      (∀ t, e.dl = some t → Happens (.deadlineMiss x n) (k.occupied = true ∧ e.late = false ∧ t.toNat ≤ now.toNat) s
        (modCtx (modEntry s x n fun e => { e with late := true }) x fun c => { c with missed := c.missed ++ [{ e with late := true }] })) ∧
      (e.dl = none → exec (.deadlineMiss x n) s = .next s)) ∧
    Happens (.suspensionRequest x) (k.Stands ∧ k.preq = none) s (modCtx s x fun c => { c with preq := some ⟨0, now⟩ }) ∧
    (let drained := modCtx (endRegion s x) x fun c => { c with lcs := c.lc, lc := 0, draining := true, preq := some ⟨1, now⟩ }
     Happens (.loopDrain x) (k.Stands ∧ s.Between x ∧ k.draining = false) s drained ∧
     (∀ q, k.preq = some q →
      let lim := if q.grade = 0 then (dieAt s x.core.die).suspLim else (dieAt s x.core.die).drainLim
      Happens (.preemptEscalation x) (k.Stands ∧ s.Between x ∧ q.since.toNat + lim.toNat ≤ now.toNat) s
        (if q.grade = 0 ∧ k.lc ≠ 0 ∧ k.draining = false then drained else preemptNow s x))) ∧
    (k.preq = none → exec (.preemptEscalation x) s = .next s) ∧
    Happens (.immediatePreemption x) (k.Stands ∧ s.Between x) s (preemptNow s x) ∧
    (let l := (limitsOf s k.dom).wdlim.toNat * 65536
     k.due = none → (l = 0 ∨ k.wdc.toNat < l) → preemptNow s x = modCtx (startSave s x 2 false) x fun c => { c with draining := false }) ∧
    Happens (.contextSaveComplete x) (saveReady s x = true) s
      (let t := completeSave s x
       if virtOf t k.dom x.core = none then holdDomain (spillStrands t x.core [k.dom]) k.dom x.core.die else t) ∧
    (∀ v, k.saving = some v → v.refl = none → k.occ = .strand →
      let t := completeSave s x
      ctxAt t x = k.leave ∧ (dieAt t x.core.die).saved = (dieAt s x.core.die).saved ++
        [⟨saveWords s x v.grade, savedBase k, x.core, (dieAt s x.core.die).nextArrival, v.held⟩])

/-- A window entry starts, computes and completes: the copy and accumulator results element by element, the blocks of an MMA, the steps of the copy engine (R224, R226, R234, R239, R243, R247, R248, R249, R250, R251, R255, R299). The model's own choices or readings: log entries 8, 9, 24, 44, 45, 59, 60 and 69. -/
def Obligations.TileResults : Prop :=
  ∀ (s : State) (x : CtxId) (n : Nat) (c : CoreId) (e : Entry) (r : TRef), entryAt (ctxAt s x) n = some e →
    let k := ctxAt s x
    let rm := Rm.ofBits (e.fpc.setWidth 3)
    let en : Fl := e.fpc.extractLsb' 4 5
    let fpPark (fl : Fl) : State := parkEntry s x n (deferred cFpException 0 [fl.setWidth 64])
    let begins (t : State) : Prop := exec (.entryStart x n) s = .next t
    let started : Prop := canStart s x e = true ∧ carrierOf e.op ≠ .window ∧ startBad s x e = none ∧ ∀ p ∈ entryNeeds s x e, p.2 = .ready
    let ends (fl : Fl) (f : Tile → Tile) : Prop := exec (.tileEntryComplete x n) s =
      .next (if fl &&& en ≠ 0 then fpPark fl else finishEntry (modRef s x.core k.grp r f) x e fl)
    let works : Prop := canComplete s x e = true ∧ e.td = some r
    let sameShape (t u : Tile) : Prop := t.rows = u.rows ∧ t.cols = u.cols ∧ t.fmt = u.fmt
    (canStart s x e = false → canResume s x e = false → begins s) ∧ (canStart s x e = false → canResume s x e = true → begins (mmaResume s x)) ∧
    (canStart s x e = true → carrierOf e.op = .window → begins (startWindow s x e)) ∧
    (∀ b, canStart s x e = true → carrierOf e.op ≠ .window → startBad s x e = some b → begins (parkEntry s x n (deferred b.code 0 (badOpnd b e.slot e.sval)))) ∧
    (started → carrierOf e.op = .copy → begins (modCore (modCtx (modEntry s x n fun e => { e with queued := true }) x fun c => { c with pass := arrivalPass s x.core })
      x.core fun q => { q with copyq := q.copyq ++ [(x.slot, n)] })) ∧
    (started → carrierOf e.op = .accu → begins (modEntry s x n fun e => { e with st := .started })) ∧
    (∀ a b, started → carrierOf e.op = .array → entryTile s x e.ta = some a → entryTile s x e.tb = some b →
      let fl := foldFlags e a b
      let debit := ((e.slot.extractLsb' 10 3).toNat + 1) * (fmtPlanes a.fmt * (a.cols / 32) + if e.folda || e.foldb then 2 * (a.cols / 32) else 0)
      (fl &&& en ≠ 0 → begins (fpPark fl)) ∧
      (fl &&& en = 0 → begins (imbalance (mmaAdvance x n 16 (modEntry
        (if e.charged then s else modCtx s x fun c => { c with ebud := BitVec.ofNat 32 (c.ebud.toNat - (debit - e.paid)) }) x n fun f =>
        { f with st := .started, drawn := [], paid := if e.charged then e.paid else Nat.max debit e.paid, charged := true, fl := fl })) x))) ∧
    (canComplete s x e = false → exec (.tileEntryComplete x n) s = .next s) ∧
    (works → e.op = 7 → ∃ f, ends 0 f ∧ ∀ t, sameShape (f t) t ∧ (f t).pois = 0 ∧
      ∀ i j, i < t.rows → j < t.cols → (f t).elem i j = e.sval.toNat % 2 ^ fmtBits t.fmt) ∧
    (∀ u, works → entryTile s x e.ta = some u →
      (e.op = 8 ∨ e.op = 0xB → ends 0 fun t => { t with data := u.data, pois := srcPois e u }) ∧
      (e.op = 9 → ∃ f, ends 0 f ∧ ∀ t, sameShape (f t) t ∧ ∀ i j, i < u.cols → j < u.rows → t.fmt = u.fmt → (f t).elem i j = u.elem j i % 2 ^ fmtBits u.fmt) ∧
      (e.op = 0xA → ∃ f, ends (mapTile u (fmtBits (e.slot.extractLsb' 5 4)) (tcvtElem (fmtTy u.fmt) (fmtTy (e.slot.extractLsb' 5 4)) rm)).fl f ∧ ∀ t, sameShape (f t) t ∧ (f t).pois = srcPois e u ∧ ∀ i j, t.fmt = e.slot.extractLsb' 5 4 → i < u.data.length → j < u.cols →
        (f t).elem i j = (tcvtElem (fmtTy u.fmt) (fmtTy t.fmt) rm (u.elem i j)).bits % 2 ^ fmtBits t.fmt) ∧
      (e.op = 0xC → ∃ f, ends (mapTile u (fmtBits u.fmt) (tscaleElem (fmtTy u.fmt) rm (scaleOf e.sval (e.slot.extractLsb' 0 7)))).fl f ∧ ∀ t, sameShape (f t) t ∧ (f t).pois = srcPois e u ∧ ∀ i j, t.fmt = u.fmt → i < u.data.length → j < u.cols →
        (f t).elem i j = (tscaleElem (fmtTy u.fmt) rm (scaleOf e.sval (e.slot.extractLsb' 0 7)) (u.elem i j)).bits % 2 ^ fmtBits u.fmt) ∧
      (∀ a, u.acc = some a →
        (e.op = 0x13 → ∃ f, ends (acvtRows (e.slot.extractLsb' 5 4) rm a).fl f ∧ ∀ t, sameShape (f t) t ∧ (f t).pois = u.pois ∧ ∀ i j, t.fmt = e.slot.extractLsb' 5 4 → i < 32 → j < 32 →
          (f t).elem i j = (acvtCell (fmtTy t.fmt) rm a.q (a.cell i j)).bits % 2 ^ fmtBits t.fmt) ∧
        (e.op = 0x14 → ends 0 fun t => { t with acc := t.acc.map fun d => d.addTile a, pois := t.pois ||| u.pois }) ∧
        (e.op = 0x15 ∨ e.op = 0x16 → exec (.tileEntryComplete x n) s = .next (finishCheck s x e u (e.op == 0x16))))) ∧
    (works → e.op = 0xC → e.ta = none → ends 0 fun t => { t with bs := e.fn.extractLsb' 7 2 == 1 }) ∧
    (works → e.op = 0x11 → ends 0 fun t => { t with acc := some (Acc.clear (e.slot.extractLsb' 0 10).toInt), pois := 0 }) ∧
    (works → e.op = 0x12 → ends 0 fun t => { t with acc := t.acc.map fun a => a.setQ (e.slot.extractLsb' 0 10).toInt }) ∧
    (∀ u, canComplete s x e = true → e.op = 0xD → entryTile s x e.ta = some u →
      ∃ l : List Scale, l.length = e.fn.toNat + 1 ∧ (∀ i v, l[i]? = some v → v.v = BitVec.ofNat 8 (u.elem ((e.sval.toNat + i) / u.cols) ((e.sval.toNat + i) % u.cols))) ∧
        exec (.tileEntryComplete x n) s = .next (mmaResume (finishEntry (modCtx s x fun c => { c with scq := c.scq ++ l }) x e 0) x)) ∧
    (canComplete s x e = true → e.op ≤ 6 ∨ e.op = 0x18 → exec (.tileEntryComplete x n) s = .next (finishEntry s x e 0)) ∧
    (∀ fl, ∀ f ∈ (ctxAt (finishEntry s x e fl) x).win, f.n ≠ n) ∧
    (∀ (q : Acc) (ck : Bool) (kb : Nat) (a b : Nat → Nat → Val) (i j : Nat), i < 32 → j < 32 →
      (q.mmaBlock ck kb a b).cell i j = (List.range 32).foldl (fun m d => (m.addProd (a i (32 * kb + d)) (b (32 * kb + d) j) q.q).cell) (q.cell i j)) ∧
    (mmaDone s x e = true → exec (.mmaComplete x n) s = .next (mmaResume (finishEntry (if e.slot.getLsbD 16 then s else match e.td with
      | some r => modRef s x.core k.grp r fun t => { t with acc := t.acc.map fun a => { a with cv := false } }
      | none => s) x e e.fl) x)) ∧
    (mmaDone s x e = false → exec (.mmaComplete x n) s = .next s) ∧
    (∀ p l, (coreAt s c).spillq = p :: l → exec (.copyStep c) s = .next (spillStep s c p)) ∧
    ((coreAt s c).spillq = [] → (nextCommand s c = none → exec (.copyStep c) s = .next s) ∧
    (∀ y f, nextCommand s c = some (y, f) →
      let dom := (ctxAt s y).dom
      let spent : Prop := (limitsOf s dom).bcap ≠ 0 ∧ bbudOf s c.die dom = 0
      (spent → exec (.copyStep c) s = .next (budgetPark s y f)) ∧
      (¬ spent → isTransfer f.op = false → exec (.copyStep c) s = .next (stepDone s y f (destBytes s y f))) ∧
      (∀ r t, ¬ spent → isTransfer f.op = true → f.td = some r → entryTile s y f.td = some t →
        let load := f.op == 5
        let q := xferStep (xferCtxOf s y f) s (if load && f.prog == 0 then placeTile f.lay t else t) f.xpois f.prog
        let u := modEntry (if load then modRef q.s c (ctxAt s y).grp r fun _ => q.tile else q.s) y f.n fun e => { e with xpois := q.xpois }
        (q.wait = true → exec (.copyStep c) s = .next s) ∧
        (q.wait = false → q.need ≠ [] → exec (.copyStep c) s = .next (askPieces s y f q.need)) ∧
        (q.wait = false → q.need = [] → q.bad = none → exec (.copyStep c) s = .next (stepDone u y f (destBytes s y f))) ∧
        (∀ b, q.wait = false → q.need = [] → q.bad = some b → exec (.copyStep c) s =
          .next (parkEntry (chargeStep u y (min 1024 (destBytes s y f - f.prog))) y f.n b)))))

/-- Vector and scratchpad banks change state when R110 and R200 say; operating points settle; ceilings step; slack control; scrubbing and stored errors (R110, R113, R199, R200, R362, R366, R372, R196, R198, R202, R115, R203). The model's own choices or readings: log entries 8, 12 and 34. -/
def Obligations.BankAndPowerEvents : Prop :=
  ∀ (s : State) (x : CtxId) (b : Fin 8) (c : CoreId) (m : Fin 32) (d : Fin 4),
    let k := ctxAt s x
    let v := k.vbank[b.val]
    let now := (coreAt s x.core).cyc
    let live : Prop := ∃ r : Nat, r < 32 ∧ r / 4 = b.val ∧ k.livev.getLsbD r = true
    let turns (st : BankSt) : State := modCtx s x fun c => { c with vbank := c.vbank.set b.val { c.vbank[b.val] with st := st } }
    let off : State := modCtx (turns .off) x fun c => { c with vpar := c.vpar.filter fun p => !(decide (p.1.val / 4 = b.val)) }
    Happens (.bankIdleOff x b) (v.st = .full ∧ ¬ live ∧ k.keptBank b = false ∧ v.last + 16 ≤ now) s off ∧
    Happens (.bankRetention x b) (v.st = .full ∧ live ∧ v.last + 512 ≤ now) s (turns .retention) ∧
    Happens (.bankKillOff x b) (v.st = .retention ∧ ¬ live ∧ k.keptBank b = false ∧ v.killed + 16 ≤ now) s off ∧
    Happens (.bankWakeDone x b) (v.st = .waking ∧ v.ready ≤ now) s (turns .full) ∧
    (let q := (coreAt s c).sbank[m.val]
     let turns (st : SBankSt) : State := modCore s c fun k => { k with sbank := k.sbank.set m.val { k.sbank[m.val] with st := st } }
     Happens (.spadClearDone c m) (q.st = .clearing) s (turns .off) ∧ Happens (.spadWakeDone c m) (q.st = .waking) s (turns .full) ∧
     (let t := modCore s c fun k => { k with sbank := k.sbank.set m.val { k.sbank[m.val] with failed := true } }
      Happens (.bankFailed c (m.castLE (by decide))) (q.failed = false ∧ (dieAt s c.die).bankThr.toNat ≤ q.corr.toNat) s
        (if 2 ≤ failedBanks (coreAt t c) then modCore (removeCore t c (holders t c)) c fun k => { k with removed := true } else t)) ∧
     (∀ j : Fin 2, let t := modCore s c fun k => { k with codeFailed := k.codeFailed.set j.val true }
      Happens (.bankFailed c (j.natAdd 32)) ((coreAt s c).codeFailed[j.val] = false) s
        (if 2 ≤ failedBanks (coreAt t c) then modCore (removeCore t c (holders t c)) c fun k => { k with removed := true } else t))) ∧
    (∀ e, (coreAt s c).settle = some e → let t := modCore s c fun k => { k with opCur := e.target, settle := none }
      exec (.opSettleDone c) s = .next (opUpdate t c e.next)) ∧
    ((coreAt s c).settle = none → exec (.opSettleDone c) s = .next s) ∧
    (let y := dieAt s d
     let steps (k : BitVec 3) : State := modDie s d fun y => { y with ceil := k, thermAt := y.tb }
     (∀ q ∈ [(Heat.thermal, Throttle.thermal), (.rail, .rail)], Happens (.thermalThrottleStep d q.1) (y.ceil ≠ 0 ∧ (y.ceil = 7 ∨ y.thermAt.toNat + 100000 ≤ y.tb.toNat)) s
      (opUpdateDie (((allResidents s).filter fun x => x.core.die == d).foldl (fun s x => throttleEvent s x.core (ctxAt s x).dom q.2) (steps (y.ceil - 1))) d)) ∧
     Happens (.thermalThrottleStep d .cool) (y.ceil ≠ 7 ∧ y.thermAt.toNat + 1000000 ≤ y.tb.toNat) s (opUpdateDie (steps (y.ceil + 1)) d)) ∧
    (∀ flags members, exec (.slackReport d (.mark flags members)) s = .next { s with slackFlags := flags.map fun p => ⟨p.1, p.2⟩, slackMembers := members }) ∧
    (let y := dieAt s d
     let reports : Prop := isLive s d = true ∧ d ∈ s.slackMembers ∧ ∀ p, y.slackRep = some p → p.2.toNat + 1000000 ≤ y.tb.toNat
     (∀ others, reports → ∃ t, exec (.slackReport d (.report others)) s = .next t ∧ (∀ j : Fin 48, (coreAt t ⟨d, j⟩).slack = 0 ∧ (coreAt t ⟨d, j⟩).slackWaits = 0) ∧
      t.mem = s.mem ∧ (dieAt t d).slackRep = some (slackOf s d, y.tb) ∧
      let r := slackOf s d
      let peers := others ++ (s.slackMembers.filter fun i => !(decide (i = d)) && isLive s i && !heldDown s i).filterMap fun i => (dieAt s i).slackRep.map Prod.fst
      let may : Prop := y.slackAt.toNat + 2000000 ≤ y.tb.toNat ∧ heldDown s d = false
      let leads : Prop := ∃ q ∈ peers, slackLeads r q = true
      let least : Prop := (∀ q ∈ peers, slackLeads q r = true) ∧ y.slackCeil ≠ 7 ∧ ∃ j : Fin 48, y.slackCeil.toNat < opWanted s ⟨d, j⟩
      (may ∧ leads → (dieAt t d).slackCeil.toNat = y.slackCeil.toNat - 1) ∧
      (may ∧ ¬ leads ∧ least → (dieAt t d).slackCeil.toNat = y.slackCeil.toNat + 1) ∧
      (¬ (may ∧ (leads ∨ least)) → (dieAt t d).slackCeil = y.slackCeil)) ∧
     (∀ others, ¬ reports → exec (.slackReport d (.report others)) s = .next s)) ∧
    (∀ (line : BitVec 29) (n : Nat),
      let l := d.val * 2 ^ 29 + line.toNat
      (tabGet? s.latent l = none → exec (.scrub d line) s = .next s) ∧
      (tabGet? s.latent l = some n → Happens (.scrub d line) (serves s d = true) s
        (let t := { s with latent := tabDel s.latent l }
         if n ≤ 1 then countErr t d 2 else poisonLine (countErr t d 3) d l)) ∧
      (0 < n → exec (.softError (.line d line n)) s = .next { s with latent := tabPut s.latent l (tabGet s.latent l 0 + n) })) ∧
    (∀ (tid : Nat) (i j : Fin 32) (bit : Fin 128),
      exec (.softError (.cell c tid i j bit)) s = .next (modTile s c tid fun t => { t with acc := t.acc.map fun a =>
        { a with cells := Vector.ofFn fun p : Fin 1024 => if p.val = 32 * i.val + j.val then { a.cells[p.val] with n := flipBit a.cells[p.val].n bit.val } else a.cells[p.val] } }) ∧
      exec (.softError (.rowck c tid i bit)) s = .next (modTile s c tid fun t => { t with acc := t.acc.map fun a =>
        { a with rowck := a.rowck.set i.val { a.rowck[i.val] with n := flipBit a.rowck[i.val].n bit.val } } }) ∧
      exec (.softError (.colck c tid j bit)) s = .next (modTile s c tid fun t => { t with acc := t.acc.map fun a =>
        { a with colck := a.colck.set j.val { a.colck[j.val] with n := flipBit a.colck[j.val].n bit.val } } }) ∧
      (tileAt s c tid = none → exec (.softError (.accState c tid)) s = .next (countErr s c.die 5)) ∧
      (∀ t, tileAt s c tid = some t → let u := t.poisonRows fun _ => true
        exec (.softError (.accState c tid)) s = .next (modTile (countErrs (countErr s c.die 5) c.die 8 (newPoison t u)) c tid fun _ => u) ∧
        ∀ i, i < t.rows → rowPoisoned u.pois i = true)) ∧
    (∀ (r : Fin 32) (bit : Fin 1024), ∃ t, exec (.softError (.vreg x r bit)) s = .next t ∧ t.mem = s.mem ∧ (∀ y, y ≠ x → ctxAt t y = ctxAt s y) ∧
      (∀ j, j < 1024 → ((ctxAt t x).vreg[r.val]).getLsbD j = (k.vreg[r.val].getLsbD j ^^ decide (j = bit.val))) ∧
      (∀ q : Fin 32, q ≠ r → (ctxAt t x).vreg[q.val] = k.vreg[q.val]) ∧
      ∃ w : Fin 32, w.val = bit.val / 32 ∧ (ctxAt t x).vpar = if (r, w) ∈ k.vpar then k.vpar.filter fun q => !(q == (r, w)) else (r, w) :: k.vpar) ∧
    (∀ e : SoftErr, ∃ t, exec (.softError e) s = .next t ∧ t.mem = s.mem ∧ t.doms = s.doms)

/-- Each of the 17 message events completes on the flow's next message of its TYPE, accepted with a right CRC and the next SEQ; timers and links act when due (R310, R311, R312, R313, R343, R350, R394, R404, R422, R423, R424, R419). The model's own choices or readings: log entries 8, 15 and 51. -/
def Obligations.MessageEvents : Prop :=
  ∀ (s : State) (f : FlowId) (d : Fin 4),
    let answers (s : State) (w : Wire) (lost : Bool) : State := match answered s f w with
      | some p => takeAnswer s p (if lost then .lost else .value (payData w.pay) ((payPar w.pay).getLsbD 0))
      | none => s
    let acts : List (Instr × BitVec 8 × (State → Wire → State)) :=
      [(.msgRead f, 0x01, fun s w => actRead s f w), (.msgWrite f, 0x02, fun s w => actWrite s f w), (.msgAtomic f, 0x03, fun s w => actAtomic s f w),
       (.msgFlagPost f, 0x04, fun s w => postFlag s ⟨⟨f.ddie, fin48 ((hdrArg w.hdr).extractLsb' 5 6).toNat⟩, fin32 ((hdrArg w.hdr).extractLsb' 0 5).toNat⟩ ((payPar w.pay).setWidth 32)),
       (.msgForwardedAccess f, 0x05, fun s w =>
        if ((payPar w.pay).extractLsb' 56 8).toNat = 1 then actRead s f w else if ((payPar w.pay).extractLsb' 56 8).toNat = 3 then actAtomic s f w else actWrite s f w),
       (.msgMovedMarker f, 0x06, fun s _ => s),
       (.msgRangeSteal f, 0x07, fun s w => respond (modLaunch s (hdrArg w.hdr).toNat fun l => { l with shares := steal f.sdie f.ddie l.shares }) f (payTag w.pay) (hdrArg w.hdr) 0x42 0 0),
       (.msgReadData f, 0x41, fun s w => answers s w false), (.msgWriteDone f, 0x42, fun s w => answers s w false), (.msgAtomicResult f, 0x43, fun s w => answers s w false),
       (.msgLostOrError f, 0x44, fun s w => answers s w true),
       (.msgMirrorWrite f, 0x81, fun s w =>
        let n := ((payPar w.pay).extractLsb' 0 8).toNat
        let b := meetWrite s f.ddie (hdrArg w.hdr).toNat n
        { b with mem := memWrite b.mem (memKey f.ddie (hdrArg w.hdr).toNat) n (payData w.pay) }),
       (.msgCheckpointEpoch f, 0x82, fun s w => freeRetained (modDie s f.ddie fun y => { y with mirror := y.mirror.map fun m =>
        if m.src == f.sdie && m.ts == ((payPar w.pay).setWidth 32 : BitVec 32) && m.epoch == (hdrArg w.hdr).toNat then { m with closed := true } else m }) f.ddie f.sdie
        (if (payTag w.pay).getLsbD 16 then some ((payTag w.pay).setWidth 16) else none)),
       (.msgHeartbeat f, 0xC1, fun s _ => modDie s f.ddie fun y => { y with hb := y.hb.set f.sdie.val y.tb }),
       (.msgConfiguration f, 0xC2, fun s w => actConfig s f w), (.msgServiceLevel f, 0xC3, fun s _ => s), (.msgTimebase f, 0xC4, fun s w => actTimebase s f w)]
    (∀ q ∈ acts,
      ((flowAt s f).transit = [] → exec q.1 s = .next s) ∧
      ∀ (w : Wire) (rest : List Wire), (flowAt s f).transit = w :: rest →
        let ty := hdrType w.hdr
        let b := modFlow s f fun x => { x with transit := rest }
        let x := flowAt b f
        let lost : Prop := hears b f.ddie = false ∨ (if f.spkg = s.pkg then (dieAt b f.ddie).regions[f.sdie.val].st = .lost ∨ pathUp b f.sdie f.ddie = false else serves b f.ddie = false)
        let comes : Prop := f.dpkg = s.pkg ∧ ¬ lost ∧ w.crc = wireCrc w.hdr w.pay
        let accepted : State := takeHeader (modFlow b f fun x => { x with expect := x.expect + 1, ackDue := true, heard := true, nakSent := false }) f w.hdr
        let nak (s : State) : State := if x.nakSent then s else sendAck s f true
        (ty = q.2.1 → comes → hdrSeq w.hdr = x.expect → exec q.1 s = .next (q.2.2 accepted w)) ∧
        (ty = q.2.1 → comes → hdrSeq w.hdr ≠ x.expect → exec q.1 s = .next (if (x.expect - 1 - hdrSeq w.hdr).toNat < 2048 then sendAck b f false else nak b)) ∧
        (ty = q.2.1 → f.dpkg = s.pkg → ¬ lost → w.crc ≠ wireCrc w.hdr w.pay → exec q.1 s = .next (nak (countErr b f.ddie 14))) ∧
        (ty = q.2.1 → f.dpkg = s.pkg → lost → exec q.1 s = .next b) ∧
        (let come := f.spkg ^^^ s.pkg
         let go := f.dpkg ^^^ s.pkg
         let on : Prop := f.sdie = come ∧ f.spkg ≠ s.pkg ∧ rillenUp s come = true ∧ rillenUp s go = true ∧ pathUp s come go = true
         ty = q.2.1 → f.dpkg ≠ s.pkg → (on → exec q.1 s = .next { b with outbox := b.outbox ++ [.message f w] }) ∧ (¬ on → exec q.1 s = .next b)) ∧
        (ty ≠ q.2.1 → knownType ty = true → exec q.1 s = .next s) ∧
        (ty = 0 → comes → exec q.1 s = .next (takeHeader b f w.hdr)) ∧
        (ty ≠ 0 → knownType ty = false → comes → hdrSeq w.hdr = x.expect → exec q.1 s = .next (countErr accepted f.ddie 14))) ∧
    (∀ (w : Wire) (off : Nat), requestPlace s w = .mem d off →
      let n := ((payPar w.pay).extractLsb' 0 8).toNat
      let mask := if (payPar w.pay).getLsbD 17 then ((s.masks.find? fun m => m.1 == f.spkg && m.2.1 == payTag w.pay).map fun m => m.2.2).getD 0 else 2 ^ (8 * n) - 1
      (Clean s d off → actRead s f w = sendMsg (countReq s d 2) (replyFlow f) 0x41 5 (hdrArg w.hdr) (mkPay (payTag w.pay) 0 (memRead s.mem (memKey d off) n))) ∧
      ((payPar w.pay).getLsbD 18 = true → actWrite s f w = { s with masks := (f.spkg, payTag w.pay, payData w.pay) :: s.masks }) ∧
      ((payPar w.pay).getLsbD 18 = false → (payPar w.pay).extractLsb' 12 2 ≠ 3 → homeNow s d false = some d →
        (actWrite s f w).mem = memWrite s.mem (memKey d off) n (writeBits (memRead s.mem (memKey d off) n) (payData w.pay) mask) ∧ (actWrite s f w).ctx = s.ctx)) ∧
    (∀ (p : Pend) (v : Nat) (pois : Bool), p.op = .read →
      (∀ x key va, p.who = .bundle x key va → ctxAt (takeAnswer s p (.value v pois)) x =
        { (if (ctxAt s x).wait = .outside then (ctxAt s x).nextWait else ctxAt s x) with reply := (ctxAt s x).reply ++ [⟨key, p.at_, v, pois⟩] }) ∧
      (∀ x va, p.who = .fetch x va → (ctxAt (takeAnswer s p (.value v pois)) x).fetched = (ctxAt s x).fetched ++ [(va, v)])) ∧
    (∀ w, let i := fin4 ((hdrArg w.hdr).extractLsb' 0 2).toNat
      let e := RegionEntry.ofBits (payPar w.pay ++ payTag w.pay)
      let declares : Prop := f.ddie = keyDie s ∨ ((f.sdie = keyDie s ∨ keyGone s f.ddie = true) ∧ heirOf s (keyDie s) = some f.ddie)
      ((hdrArg w.hdr).getLsbD 8 = false →
        actConfig s f w = if ((dieAt s f.ddie).regions[i.val]).gen.toNat < e.gen.toNat then putEntry s f.ddie i e else s) ∧
      ((hdrArg w.hdr).getLsbD 8 = true → (declares → actConfig s f w = declareLost s f.sdie ((hdrArg w.hdr).extractLsb' 16 16)) ∧ (¬ declares → actConfig s f w = s))) ∧
    Happens (.ackTimeout f) (f.dpkg = s.pkg ∧ (flowAt s f).ackDue = true) s (sendAck s f false) ∧
    (∀ m, ((flowAt s f).log.find? fun m => !m.acked) = some m →
      Happens (.replayTimeout f) (f.spkg = s.pkg ∧ (if f.dpkg = s.pkg then hears s f.sdie = true else serves s f.sdie = true) ∧ m.at_.toNat + 20000 ≤ (tbOf s f.sdie).toNat) s (retryFlow s f)) ∧
    (((flowAt s f).log.find? fun m => !m.acked) = none → exec (.replayTimeout f) s = .next s) ∧
    (let now := tbOf s d
     let due : Prop := serves s d = true ∧ (dieAt s d).exchAt.toNat + 100000 ≤ now.toNat
     (due → ∃ t, exec (.timebaseExchange d) s = .next t ∧ (dieAt t d).exchAt = now ∧ t.mem = s.mem ∧ t.ctx = s.ctx) ∧ (¬ due → exec (.timebaseExchange d) s = .next s)) ∧
    (let q := d ^^^ s.pkg
     Happens (.linkTraining d) (serves s d = true) s (let t := modDie s d fun y => { y with rillen := true }
      relink { t with flows := t.flows.filter fun p => !(d != 0 && ((p.1.spkg == s.pkg && p.1.sdie == d && p.1.dpkg == q) || (p.1.spkg == q && p.1.dpkg == s.pkg && p.1.ddie == d))) })) ∧
    Happens (.failedLane d) ((dieAt s d).rillen = true) s (relink (modDie (countErr s d 16) d fun y => { y with rillen := false })) ∧
    (∀ tag, exec (.unsupportedRequest tag) s = .next { s with outbox := s.outbox ++ [.unsupported tag] })

/-- Heartbeats, faults, declarations, restore, reunion, rebuild, rotating self-test, checkpoints and registration act when their rules say (R394, R395, R401, R405, R406, R412, R413, R414, R415, R416, R190, R342). The model's own choices or readings: log entries 8, 29, 30, 31, 33 and 67. -/
def Obligations.ContainmentEvents : Prop :=
  ∀ (s : State) (d i : Fin 4) (n : Nat) (reports pass : Bool),
    let y := dieAt s d
    let now := tbOf s d
    (let due : Prop := hears s d = true ∧ y.hbSent.toNat + 100000 ≤ now.toNat
     (due → ∃ t, exec (.heartbeatSend d) s = .next t ∧ (dieAt t d).hbSent = now ∧ t.mem = s.mem ∧ t.ctx = s.ctx) ∧ (¬ due → exec (.heartbeatSend d) s = .next s)) ∧
    (Happens (.heartbeatLoss d i) (serves s d = true ∧ d ≠ i ∧ (regSt s i = .live ∨ regSt s i = .testing) ∧ (y.hb[i.val]).toNat + 300000 ≤ now.toNat ∧ declares s d i = true) s
      (declareLost s i (lossReason s d i))) ∧
    (lossReason s d i = if (ringReach { s with dies := s.dies.set i.val { dieAt s i with fenced := false } } d).contains i then 1 else 2) ∧
    (let fence (s : State) : State := modDie s d fun y => { y with fenced := true }
     (∀ q ∈ [(Instr.railFault d reports, (3 : BitVec 16), s), (.clockFault d reports, 4, s), (.lockstepMismatch d reports, 5, countErr s d 17)],
      Happens q.1 (hears s d = true) s (if reports then dieFault q.2.2 d q.2.1 true else fence q.2.2)) ∧
     Happens (.junctionOvertemp d) (hears s d = true) s (dieFault s d 3 true) ∧
     (∀ (u : State) (r : BitVec 16),
      ((if d = keyDie u ∨ keyGone u d = true then heirOf u (keyDie u) else some (keyDie u)) = none → dieFault u d r true = declareLost (fence u) d r) ∧
      (∀ j, (if d = keyDie u ∨ keyGone u d = true then heirOf u (keyDie u) else some (keyDie u)) = some j →
        (dieAt (dieFault u d r true) d).fenced = true ∧ (dieFault u d r true).mem = u.mem ∧ (dieFault u d r true).ctx = u.ctx))) ∧
    Happens .restoreAndRelaunch ((∃ t ∈ s.tasksets, t.restore = true) ∧ ∀ j, (dieAt s j).reinit = false) s
      ((s.tasksets.filter TaskSet.restore).foldl (fun s t => relaunchSet s t.reg.tsid) s) ∧
    Happens .relaunchRetry (∃ t ∈ s.tasksets, t.refused ≠ []) s
      (s.tasksets.foldl (fun s t => (dedup (t.refused.map RoleReg.launch)).foldl (submitLaunch t.reg.tsid) s) s) ∧
    (let beside : Prop := isLive s (dieAfter d 1) = true ∨ isLive s (dieAfter d 3) = true
     let linked := joinRing s d
     (beside → ∃ k, isLive s k = true ∧ linkUp linked d k = true) ∧ (∀ j k, linkUp s j k = true → linkUp linked j k = true) ∧ { linked with links := s.links } = s ∧
     Happens (.reunion d) (regSt s d = .held ∧ y.fenced = false ∧ beside) s
      (rejoin (clearDie ((dieAt linked d).groups.foldl (fun s g => killGroup s g.id) linked) d) d 0x0201) ∧
     (let t := modDie linked d fun y => { y with tb := tbOf linked (keyDie linked) }
      Happens (.rebuild d) (regSt s d = .lost ∧ y.fenced = false ∧ beside) s
       (rejoin { t with boot := { t.boot with tries := Vector.replicate 2 0, warm := s.boot.warm.filter fun p => !(decide (p.1 = d)) } } d 0x0200))) ∧
    (∀ j, nextTested s = some j → Happens .selfTestStart (testable s j = true) s
      (let t := s.tasksets.foldl (fun u v => chooseLevel u v.reg.tsid (.without j) false) s
       let u := modDie { t with tested := some j, testAt := tbOf s (keyDie s) } j fun y => { y with test := some ⟨y.tb⟩, stc := y.stc.set 0 (satInc y.stc[0]) }
       offerAll (unqueue (changeState u j .testing 0x0100) j))) ∧
    (nextTested s = none → exec .selfTestStart s = .next s) ∧
    (∀ j, testable s j = true → 3 ≤ (allDies.filter fun k => isLive s k).length ∧ (∀ t ∈ s.tasksets, t.restore = false) ∧ (∀ k, (dieAt s k).reinit = false)) ∧
    (∀ v, y.test = some v →
      let time := now.toNat - v.since.toNat
      let runs : Prop := regSt s d = .testing ∧ y.reinit = false
      Happens (.selfTestEnd d pass) (runs ∧ time ≤ 40000000 ∧ (pass = true → 24000000 ≤ time)) s (endTest s d pass) ∧
      Happens (.selfTestTimeout d) (runs ∧ 40000000 ≤ time) s (endTest s d false) ∧
      (let us := BitVec.ofNat 32 (time / 1000)
       endTest s d true = offerAll (raiseIdle (changeState (resetCores (modDie s d fun y => { y with test := none, stc := (y.stc.set 1 (satInc y.stc[1])).set 4 us }) d) d .live 0x0101)) ∧
       endTest s d false = declareLost (modDie s d fun y => { y with test := none, stc := (y.stc.set 2 (satInc y.stc[2])).set 4 us }) d 6)) ∧
    (y.test = none → exec (.selfTestEnd d pass) s = .next s ∧ exec (.selfTestTimeout d) s = .next s) ∧
    Happens (.selfTestReinitialisationDone d) (regSt s d = .testing ∧ y.reinit = true) s
      (offerAll (raiseIdle (changeState (modDie (resetCores s d) d fun y => { y with reinit := false, test := none }) d .live 0x0102))) ∧
    (∀ t, setAt s n = some t →
      Happens (.frameCheckpoint n) (t.ckptDue = true ∧ t.running = [] ∧ t.refused = [] ∧ t.restore = false ∧ t.active ≠ none) s
        (let k := t.reg.tsid
         let u := chooseLevel (modSet (checkpoint s t (t.frame + 1)) k fun t => { t with ckptDue := false, frame := t.frame + 1 }) k .live false
         match u.tasksets.find? fun v => v.reg.tsid == k with
          | some v => if v.restore then u else startFrame u k
          | none => u) ∧
      Happens (.earlyCheckpoint n) (earlyDue s t = true ∧ t.restore = false ∧ t.active ≠ none ∧ noGroups s t.reg.tsid = true) s (checkpoint s t t.frame)) ∧
    (setAt s n = none → exec (.frameCheckpoint n) s = .next s ∧ exec (.earlyCheckpoint n) s = .next s) ∧
    (∀ p, hingePartner s d = some p → Happens (.mirrorCopyComplete d) (y.recopy ≠ none ∧ serves s d = true) s
      (modDie (copyMirrored s d d p) d fun y => { y with recopy := if (hingePartner (copyMirrored s d d p) d).isSome then none else y.recopy })) ∧
    (hingePartner s d = none → ∃ t, exec (.mirrorCopyComplete d) s = .next t ∧ dieAt t d = dieAt s d ∧ t.mem = s.mem) ∧
    (∀ ts : TaskSetReg, Happens (.taskSetRegistration ts) (setGood s ts = true) s
      (let t : TaskSet := ⟨ts, none, [], 0, [], 0, [], s.dies.map errSum, false, [], false, false, false, none⟩
       let u := { s with tasksets := s.tasksets ++ [t] }
       let k := levelFor u t .live
       let map := match k with
        | some v => (setDies u t .live).take (v.val + 1)
        | none => []
       startFrame (event (modSet u ts.tsid fun t => { t with active := k, map := map }) ts.dom 5 (levelByte k) [0xFF, ts.tsid.setWidth 64]) ts.tsid))

/-- Cold start, warm reset, start-up limit and completion; the host's register writes, submission service, RELEASE and the error counters (R425, R426, R427, R428, R7, R301, R302, R303, R412, R419, R420, R421). The model's own choices or readings: log entries 8, 10, 13, 35 and 36. -/
def Obligations.StartAndHostEvents : Prop :=
  ∀ (s : State) (b : BootInput) (d : Fin 4) (v : Fin 1024) (w : BitVec 64) (q : BitVec 512) (size : Nat),
    let flash : BitVec 8 × BitVec 8 := b.flash.getD (s.boot.tries[0], s.boot.tries[1])
    let tries : Nat := if b.copies = 0 then 3 else max (if b.copies.getLsbD 0 then flash.1.toNat else 0) (if b.copies.getLsbD 1 then flash.2.toNat else 0)
    let reason : BitVec 8 := if b.passes = 0 then 5 else if b.keysOk = false then 2 else if b.signaturesOk = false then 1
      else if b.pufOk = false then 4 else if b.versionOk = false then 3 else 0
    let next : BitVec 8 := BitVec.ofNat 8 (min (tries + 1) 255)
    let r := vfRegs s v
    let up : Prop := s.boot.phase = .running ∧ (hostPort s).isSome = true
    (∃ t, exec (.coldStart b) s = .next t ∧ t.mem = State.reset.mem ∧ t.cores = State.reset.cores ∧ t.doms = State.reset.doms ∧ t.ctx = State.reset.ctx ∧
      t.boot.tries = Vector.replicate 2 next ∧ t.boot.triesReg = next ∧ t.boot.auth = (reason == 0) ∧ t.boot.recov = (reason == 0 && decide (3 ≤ tries)) ∧
      t.boot.phase = (if reason ≠ 0 then .failed else if 3 ≤ tries then .recovery else .starting) ∧ (reason ≠ 0 → t.boot.reason = reason) ∧
      (let first (j : Fin 4) : Prop := ∀ k : Fin 4, k < j → b.passes.getLsbD k.val = false
       let comes (j : Fin 4) : Prop := b.passes.getLsbD j.val = true ∧ (tries < 3 ∨ first j)
       reason = 0 → ∀ e : Fin 4, ((dieAt t e).fenced = false ↔ comes e) ∧ ∀ j : Fin 4, let g := (dieAt t e).regions[j.val]
        (comes j → g.st = .live ∧ (g.key = true ↔ first j)) ∧ (¬ comes j → g.st = .lost))) ∧
    (let lost : Prop := regSt s d = .lost ∧ s.boot.phase = .running
     let good : Prop := reason = 0 ∧ b.passes.getLsbD d.val = true ∧ tries < 3
     (lost → ∃ t, exec (.warmReset d b) s = .next t ∧ t.boot.tries = Vector.replicate 2 next ∧ t.boot.triesReg = next ∧
      t.boot.reason = (if reason = 0 then s.boot.reason else reason) ∧ ((dieAt t d).fenced = false ↔ good) ∧ ((∃ a, (d, a) ∈ t.boot.warm) ↔ good) ∧
      ((∀ p : Fin 4, routeTo s p = s.route[p.val]) → t.ctx = s.ctx ∧ (s.memGood → ∀ k, cellRead t.mem k = if memKey d 0 ≤ k ∧ k < memKey d 0 + 2 ^ 35 then 0 else cellRead s.mem k))) ∧
     (¬ lost → exec (.warmReset d b) s = .next s)) ∧
    (let late (a : BitVec 64) : Prop := a.toNat + 2000000000 ≤ (tbOf s (keyDie s)).toNat
     let t := failStart s
     Happens .bootTimeout ((s.boot.phase = .starting ∧ late s.boot.since) ∨ ∃ p ∈ s.boot.warm, late p.2) s t ∧
     (s.boot.phase = .starting → t = { s with boot := { s.boot with phase := .failed, reason := 6, auth := false } }) ∧
     (s.boot.phase ≠ .starting → t.boot.reason = 6 ∧ t.boot.phase = s.boot.phase ∧ t.mem = s.mem ∧ (∀ p, p ∈ t.boot.warm ↔ p ∈ s.boot.warm ∧ ¬ late p.2) ∧
      ∀ e, (dieAt t e).fenced = true ↔ (dieAt s e).fenced = true ∨ ∃ a, (e, a) ∈ s.boot.warm ∧ late a)) ∧
    (∀ parts, partsGood parts = true → ∀ p ∈ parts, 256 ≤ p.slew.getD 7936 ∧ p.slew.getD 7936 ≤ 7936) ∧
    (∀ parts, let ok : Prop := s.boot.phase = .starting ∧ partsGood parts = true
      (ok → ∃ t, exec (.startComplete parts) s = .next t ∧ t.boot.tries = Vector.replicate 2 0 ∧ t.boot.phase = .running) ∧ (¬ ok → exec (.startComplete parts) s = .next s)) ∧
    (let wrong (code : BitVec 8) : State :=
       let t := putVf s v { r with code := code, err := true }
       if r.err then t else { t with outbox := t.outbox ++ [.msix v] }
     let lsz : BitVec 4 := w.setWidth 4
     let en := w.getLsbD 8
     let base := if r.en then wrong 0x21 else putVf s v { r with base := w.extractLsb' 12 52 }
     let cfg := if 7 ≤ lsz.toNat then wrong 0x22 else if r.en = true ∧ lsz ≠ r.lsz then wrong 0x21
       else if r.en = true ∧ en = false then putVf s v { r with en := false, lsz := lsz, head := 0, tail := 0, stall := false } else putVf s v { r with en := en, lsz := lsz }
     let tail := if 2 ^ (r.lsz.toNat + 6) ≤ w.toNat % 2 ^ 12 then wrong 0x20 else putVf s v { r with tail := w.setWidth 12 }
     let stat := if w.getLsbD 0 then putVf s v { r with err := false } else s
     Happens (.sqbaseWrite v w) up s base ∧ Happens (.sqcfgWrite v w) up s cfg ∧ Happens (.sqtailWrite v w) up s tail ∧ Happens (.sqstatWrite v w) up s stat ∧
     (up → ∀ p ∈ [((0x00 : BitVec 16), base), (0x08, cfg), (0x10, tail), (0x20, stat)], exec (.registerWrite (.vf v) p.1 w) s = .next p.2) ∧
     (∀ off : BitVec 16, off ∉ [0x00, 0x08, 0x10, (0x20 : BitVec 16)] → exec (.registerWrite (.vf v) off w) s = .next s) ∧
     (∀ off : BitVec 16, off ≠ 0x40 → exec (.registerWrite .pf off w) s = .next s)) ∧
    (∀ e, vfDie s v = some e →
      let serves : Prop := up ∧ r.en = true ∧ r.head ≠ r.tail
      let dom := (vfBind s v).dom
      let posted (s : State) (code : Nat) : State := if qWord q 2 = 0 then s else { s with outbox := s.outbox ++
        [.hostWrite (qWord q 2) 16 ((tbView s e dom).toNat * 2 ^ 64 + ((qWord q 0).extractLsb' 32 32 ++ BitVec.ofNat 32 code : Word).toNat)] }
      (serves → (qWord q 2).extractLsb' 0 4 ≠ 0 → exec (.submissionService v q) s = .next (takeEntry s v 0x14)) ∧
      (serves → (qWord q 2).extractLsb' 0 4 = 0 → dom = 0 → exec (.submissionService v q) s = .next (takeEntry (posted s 0x12) v 0x12)) ∧
      (serves → (qWord q 2).extractLsb' 0 4 = 0 → dom ≠ 0 →
        (∀ t code, carryOut s dom q = some (t, code) →
          (code = 10 → exec (.submissionService v q) s = .next (putVf t v { vfRegs t v with stall := true })) ∧
          (code ≠ 10 → exec (.submissionService v q) s = .next (takeEntry (posted t code) v code))) ∧
        (carryOut s dom q = none → exec (.submissionService v q) s = .next s)) ∧
      (¬ serves → exec (.submissionService v q) s = .next s)) ∧
    (vfDie s v = none → exec (.submissionService v q) s = .next s) ∧
    (∀ dom, qReserved q = true → carryOut s dom q = some (s, 0x10)) ∧
    (qReserved q = false → qOpc q = 1 → (qWord q 1).extractLsb' 0 6 ≠ 0 → ∀ dom, carryOut s dom q = some (s, 0x11)) ∧
    (qReserved q = false → qOpc q = 0 → ∀ dom, carryOut s dom q = some (s, 0)) ∧
    (let pf : Prop := (s.boot.phase = .running ∨ s.boot.phase = .recovery) ∧ (hostPort s).isSome = true
     let who : Fin 4 := ⟨(w.extractLsb' 0 2).toNat, (w.extractLsb' 0 2).isLt⟩
     let keyed : Prop := w.extractLsb' 16 48 = 0xD1E50C1A55ED ∧ w.extractLsb' 2 14 = 0 ∧ regSt s who = .held
     Happens (.releaseWrite w size) (pf ∧ size = 8 ∧ keyed) s (declareLost s who 8) ∧
     Happens (.registerWrite .pf 0x40 w) (pf ∧ keyed) s (declareLost s who 8) ∧
     (∀ (k : Fin 18) (z : BitVec 32), Happens (.errcntWrite d k z size) (pf ∧ size = 4 ∧ z = 0 ∧ regSt s d ≠ .lost) s
      (modDie s d fun y => { y with err := y.err.set k.val 0 })))

/-- Slot values written out in the spec decode to the instructions they stand for, at their slot's place in a bundle; an unused opcode and a reserved bit do not (R47, R48, R49, R50, R51, R55). The model's own choice or reading: log entry 18. -/
def Obligations.DecodeWords : Prop :=
  ∀ p ∈ [((0x4018440000 : Nat), 1, Instr.add .c ⟨3, 1, 2, 0, 0, 0⟩), (0x02200FFFF8, 1, .brc ⟨4, 0, 1, -8⟩), (0x6130000004, 1, .movi .c ⟨6, 4⟩),
      (0x632240000F, 2, .sext .s ⟨4, 9, 15⟩), (0x0701840000, 1, .loopi ⟨6, 1⟩), (0x0800000000, 1, .loop), (0x0407FFFFC4, 1, .call ⟨-60⟩),
      (0x0A1A000000, 1, .spawn ⟨3, 8⟩), (0x0E0000002A, 1, .trap ⟨0x2A⟩), (0x1101400400, 1, .csrw ⟨0, 5, 1⟩), (0x68190A0001, 1, .sfadd .c ⟨3, 4, 5, 0, 0, 1⟩),
      (0x342002C000, 1, .psetn ⟨2, 0, 0, 5, 2⟩), (0x21114C0000, 1, .dgrantRange ⟨2, 5, 6, 0, 0⟩), (0x28190A6200, 1, .evpostChild ⟨3, 4, 5, 6, 2⟩),
      (0x84397FFF01, 2, .ldW ⟨7, 5, -64, 1⟩), (0x9F298E8580, 2, .atcasD ⟨5, 6, 7, 8, 2, 3⟩), (0xA0614C7018, 2, .vldt ⟨12, 5, 6, 7, 0, 3, 0⟩),
      (0xA560120C2C, 2, .vext ⟨12, 0, 9, 0, 3, 5, 1⟩), (0x01E84433C0, 3, .vadd .v ⟨7, 1, 1, 2, 3, 3, 1, 1, 0, 0, 0⟩),
      (0x1FED2A0040, 4, .vexp2 ⟨7, 1, 20, 21, 0, 0, 0, 1, 0, 0, 0⟩), (0x02C6320002, 5, .xrot ⟨3, 3, 3, 4, 0, 2⟩),
      (0x0140C1FFFC, 6, .talloc ⟨8, 0, 6, 31, 511, 1⟩), (0x0512493432, 6, .tload ⟨2, 9, 4, 1, 6, 1, 50⟩), (0x1002128000, 6, .mma ⟨0, 8, 9, 0, 1, 0, 0, 0, 0, 0⟩),
      (0x11080003F8, 6, .aclr ⟨1, -8⟩), (0x0C38000080, 6, .tscaleBs ⟨7, 0, 0, 0, 0, 0, 0, 0x80⟩), (0x0100C00001, 7, .fwait ⟨0, 3, 0, 0, 0, 0, 1⟩),
      (0x0301418701, 7, .fpostr ⟨0, 5, 0, 1, 2, 7, 1⟩), (0x08000C00C8, 7, .tmwait ⟨0, 0, 6, 0, 0, 0, 200⟩)],
    decodeTableWord 320 (p.1 * 2 ^ (40 * p.2.1)) = some p.2.2 ∧
    decodeTableWord 320 (0xFF00000000 * 2 ^ 40) = none ∧ decodeTableWord 320 (0x6130000004 * 2 ^ 280) = none ∧ decodeTableWord 320 (0x0800000001 * 2 ^ 40) = none

/-- Decoding the bundle of any well-formed slot instruction gives that instruction, with every operand; its word fills its slot alone (R47, R48, R49, R50, R51, R53, R55). The model's own choice or reading: log entry 18. -/
def Obligations.BundleRoundTrip : Prop :=
  ∀ i : Instr, i.slot.isSome = true → i.wf = true →
    decodeBundle (encodeBundle i) = .legal ⟨Header.plain, [i]⟩ ∧
    (∀ n, decodeTableWord n (encodeBundle i).toNat = some i) ∧
    (∀ sl, slotBits (encodeBundle i) sl = if i.slot = some sl then i.opcode ++ i.operBits else 0) ∧
    (∀ j : Instr, j.slot = i.slot → j.wf = true → encode j = encode i → j = i)

/-- With the turn, a step fetches the bundle at PC and runs its slots in order, or takes the bundle's trap; then the turn passes and time does (R45, R53, R54, R55, R60, R65, R227). The model's own choices or readings: log entries 7 and 52. -/
def Obligations.StepRunsInstruction : Prop :=
  ∀ s : State, 
    (s.agenda = [] → s.turn = true →
      let g : State := match s.acct with
        | some a => { s with acct := some { a with ready := a.ready.filter fun y => decide (y = s.cur) || wouldIssue exec s y } }
        | none => s
      let c := noteWatchdog (noteMisses g s.cur) s.cur
      ((∀ e ∈ s.ctx.win, deadlinePassed s s.cur e = false) → watchDue s s.cur = false → c = g) ∧
      (c.ctx.ready = false → step s = .next (tick (passTurn (dropCycle c)))) ∧
      (c.ctx.ready = true →
      (c.ctx.again = none → c.ctx.bundleVa = none → step s = .next (tick (passTurn (bundleTrap (enterCycle 0 c) (fetchTrap (c.ctx.cbase + BitVec.ofNat 48 (40 * c.ctx.pc.toNat)) ⟨cPageNotPresent, false, none⟩))))) ∧
      (c.ctx.bundleVa.isSome = true ↔ c.ctx.cbase.toNat + 40 * c.ctx.pc.toNat + 40 ≤ 2 ^ 48) ∧
      (∀ va, c.ctx.bundleVa = some va → va.toNat = c.ctx.cbase.toNat + 40 * c.ctx.pc.toNat ∧ (c.ctx.again = none →
        let fetch := fetchBundle c c.ctx.fetched c.cur.core c.ctx.dom (groupWord c.ctx.grp) va
        (∀ u, fetch = .wait u → step s = .next (tick (passTurn (dropCycle (u.onCtx fun c => { c with blocked := true }))))) ∧
        (∀ a f u, fetch = .bad a f u → step s = .next (tick (passTurn (bundleTrap (enterCycle 0 u) (fetchTrap a f))))) ∧
        (∀ p a n u, fetch = .ask p a n u → step s = .next (tick (passTurn (dropCycle ((sendAsk u u.cur.core.die p n .read (.fetch u.cur a)).onCtx fun c => { c with wait := .outside }))))))) ∧
        (∀ w u, ((c.ctx.again = some w ∧ u = c) ∨
          (c.ctx.again = none ∧ ∃ va, c.ctx.bundleVa = some va ∧ fetchBundle c c.ctx.fetched c.cur.core c.ctx.dom (groupWord c.ctx.grp) va = .ok w u)) →
          let q := enterCycle (bundleEw (some w)) u
          (∀ r m, decodeBundleIn u.ctx.te w = .illegal r m → step s = .next (tick (passTurn (bundleTrap q (illegalTrap r m w))))) ∧
          (∀ b, decodeBundleIn u.ctx.te w = .legal b →
            let v := if b.hdr.rm then endRegion q q.cur else q
            ∀ t, runSlots exec b.slots (openBundle w b.slots v) = .next t → step s = .next (tick (passTurn (leaveCycle u (closeBundle v t))))) ∧
          (∀ i : Instr, w = encodeBundle i → i.slot.isSome = true → i.wf = true → u.frame = none → (i = .tret → u.ctx.te = false) →
            ∃ t, exec i q = .next t ∧ step s = .next (tick (passTurn (leaveCycle u t))))))) ∧
    (∀ ew, let u := enterCycle ew s
      let k := coreAt u s.core
      let q := coreAt s s.core
      (dieAt u s.core.die).hasRun = true ∧ u.ctx.lastIssue = k.issueNo ∧ u.ctx.blocked = false ∧ u.mem = s.mem ∧
      (s.acct = none → k.deficits = q.deficits ∧ k.issueNo = q.issueNo ∧ k.ews = (q.ews.headD 0 + ew) :: q.ews.tail ∧ u.ctx.wdc = satInc s.ctx.wdc) ∧
      ∀ a, s.acct = some a → k.deficits = newDeficits s s.core a.ready s.cur ∧ k.ews = ((if a.free then 0 else ew) :: q.ews).take 256 ∧ k.issueNo = q.issueNo + 1 ∧
        u.ctx.wdc = (if s.ctx.occupied && a.ready.contains s.cur && s.second != some s.cur then satInc s.ctx.wdc else s.ctx.wdc)) ∧
    (s.ctx.blocked = false → ∀ u, leaveCycle u s = s) ∧
    (∀ i l, s.agenda = i :: l → i.slot = none → ∀ t, exec i { s with agenda := l } = .next t → step s = .next (tick t)) ∧
    (∀ e t, s.agenda = [] → s.turn = false → chosen s (candidates s) = some e → e.run s = .next t → step s = .next (tick t)) ∧
    (let p := passTurn s
     p.mem = s.mem ∧ p.doms = s.doms ∧ p.dies = s.dies ∧ p.cores = s.cores ∧ p.second = none) ∧
    (let t := tick s
     t.mem = s.mem ∧ t.doms = s.doms ∧ t.ctx = s.ctx ∧ t.cur = s.cur ∧ t.frame = s.frame ∧ t.clk = s.clk + 1)

/-- Every step keeps device memory in its canonical form: addresses strictly rising, and no cell equal to what an unlisted address reads as (R1, R182, R187, R209). The model's own choice or reading: log entry 1. -/
def Obligations.StepKeepsMemory : Prop :=
  ∀ s t : State, s.memGood → step s = .next t → t.memGood

/-- At reset: memory empty and canonical, no strand, the CSRs at their reset values, queues and tables empty, counters 0, the boot ROM not started (R7, R16, R17, R103, R117, R118, R119, R277, R343, R347, R425). The model's own choices or readings: log entries 1, 2 and 53. -/
def Obligations.ResetState : Prop :=
  let s := State.reset
  let c := s.ctx
  s.memGood ∧ s.settledFrame ∧ s.mem = [] ∧ c.occupied = false ∧ s.agenda = [] ∧ s.turn = false ∧
    (c.vrb = 0 ∧ c.prb = 0 ∧ c.lc = 0 ∧ c.esc = 0 ∧ c.lrp = 0 ∧ c.lcs = 0 ∧ c.tvb = 0 ∧ c.trp = 0 ∧ c.tcause = 0 ∧ c.tepc = 0 ∧ c.tscr = 0 ∧ c.fpc = 0 ∧
      c.nf = false ∧ c.rwp = false ∧ c.te = true ∧ c.livev = 0 ∧ c.livep = 1 ∧ c.p 0 = BitVec.allOnes 128 ∧ c.opreq = 6 ∧ c.wdc = 0) ∧
    (c.win = [] ∧ c.scq = [] ∧ (∀ h : Fin 24, c.hmap[h.val] = none) ∧ c.region.shadow = none) ∧
    (∀ k : CoreId, let q := coreAt s k
      (∀ f : Fin 32, q.flags[f.val] = 0) ∧ q.opCur = 6 ∧ q.tiles = [] ∧ q.rules = [] ∧ q.copyq = [] ∧ (∀ b : Fin 32, (q.sbank[b.val]).failed = false)) ∧
    (∀ d : Fin 4, let y := dieAt s d
      (∀ i : Fin 4, (y.regions[i.val]).bits = 0) ∧ (∀ k : Fin 18, y.err[k.val] = 0) ∧ (∀ k : Fin 4, y.req[k.val] = 0) ∧ (∀ k : Fin 5, y.stc[k.val] = 0) ∧
        y.tb = 0 ∧ y.launchq = [] ∧ y.contq = [] ∧ y.saved = [] ∧ y.groups = []) ∧
    s.doms = [] ∧ s.launches = [] ∧ s.tasksets = [] ∧ s.boot.phase = .off

/-- A granule of a TLOAD gives its bits to the tile's elements, one of a TSTORE or TCKPT takes the elements' bits; every other bit and byte stays (R207, R208, R221, R222, R223, R228, R231, R232, R233, R259). The model's own choices or readings: log entries 9 and 75. -/
def Obligations.TileGranules : Prop :=
  ∀ (k : XferCtx) (t : Tile) (line : Int), k.fmt = k.lay.fmt →
    let w := fmtBits k.fmt
    let el (p : Nat) : ElemAddr := elemAddr k.lay k.base (p / t.cols) (p % t.cols)
    let pos (p : Nat) : Int := 8 * (el p).addr + (el p).bit - 512 * line
    let holds (p b : Nat) : Prop := k.touches (el p) = true ∧ 0 ≤ pos p + b ∧ pos p + b < 512
    let meets (p : Nat) : Prop := ∃ b, b < w ∧ holds p b
    let fits (t : Tile) : Prop := (t.acc = none ∧ t.data.length = t.rows ∧ fmtBits t.fmt = w) ∨ (t.acc.isSome = true ∧ t.rows = 32 ∧ t.cols = 32 ∧ k.fmt = 9)
    let bit (t : Tile) (p b : Nat) : Bool := (t.get (p / t.cols) (p % t.cols)).testBit b
    (∀ r c, let g (d i : Nat) : Int := if d < k.lay.ndim then k.lay.org d + i else 0
      let g0 := g 0 c
      let g1 := g 1 (r % k.lay.size 1)
      let g2 := g 2 (r / k.lay.size 1 % k.lay.size 2)
      let g3 := g 3 (r / k.lay.size 1 / k.lay.size 2)
      let e := elemAddr k.lay k.base r c
      (e.inside = true ↔ (0 ≤ g0 ∧ g0 < k.lay.ext 0) ∧ (1 < k.lay.ndim → 0 ≤ g1 ∧ g1 < k.lay.ext 1) ∧ (2 < k.lay.ndim → 0 ≤ g2 ∧ g2 < k.lay.ext 2) ∧
        (3 < k.lay.ndim → 0 ≤ g3 ∧ g3 < k.lay.ext 3)) ∧
      (e.inside = true → e.addr = k.base.toNat + g0 * w / 8 + g1 * k.lay.stride 1 + g2 * k.lay.stride 2 + g3 * k.lay.stride 3 ∧ (e.bit : Int) = g0 * w % 8)) ∧
    ((∃ p, p < t.rows * t.cols ∧ meets p) → ∃ m, line ∈ stepLines k t.rows t.cols (1024 * m) ∧
      ∀ m', line ∈ stepLines k t.rows t.cols (1024 * m') → m' = m) ∧
    (∀ (v : Nat) (pois : Bool), fits t → let u := loadLine k t line v pois
      u.rows = t.rows ∧ u.cols = t.cols ∧ fits u ∧
      (∀ p b, p < t.rows * t.cols → b < w → (holds p b → bit u p b = v.testBit (pos p + b).toNat) ∧ (¬ holds p b → bit u p b = bit t p b)) ∧
      ∀ r, r < t.rows → (rowPoisoned u.pois r = true ↔ rowPoisoned t.pois r = true ∨ (pois = true ∧ ∃ c, c < t.cols ∧ meets (r * t.cols + c)))) ∧
    (k.load = false → let l := storeLine k t line
      (∀ p, storedBits k t (p / t.cols) (p % t.cols) = if k.fmt = t.fmt then t.get (p / t.cols) (p % t.cols)
        else (Fmt.bf16.round .rne (f32 (t.get (p / t.cols) (p % t.cols)))).bits) ∧
      (∀ j, l.mask.testBit j = true ↔ j < 512 ∧ ∃ p b, p < t.rows * t.cols ∧ b < w ∧ holds p b ∧ pos p + b = j) ∧
      ∀ p b, p < t.rows * t.cols → b < w → holds p b → (∀ q c, p < q → q < t.rows * t.cols → c < w → holds q c → pos q + c ≠ pos p + b) →
        l.val.testBit (pos p + b).toNat = (storedBits k t (p / t.cols) (p % t.cols)).testBit b) ∧
    (∀ (l : LineWr) (old j : Nat), l.mask < 2 ^ 512 → j < 512 → (l.over old).testBit j = if l.mask.testBit j then l.val.testBit j else old.testBit j) ∧
    (∀ (x : Xfer) (hd : Option (Fin 4)) (d : Fin 4) (off : Nat) (l : LineWr), x.s.memGood → off % 64 = 0 → l.mask < 2 ^ 512 → serves x.s d = true →
      let s := x.s
      let at_ (e : Fin 4) : Prop := e = d ∨ (hd = some d ∧ e ∈ mirrorTargets s d)
      let y := putLine k x line hd (.mem d off) l
      let merged := l.over (memRead s.mem (memKey d off) 64)
      y.s.memGood ∧ y.tile = x.tile ∧ y.bad = x.bad ∧
      (∀ e j, at_ e → j < 64 → cellRead y.s.mem (memKey e off + j) = BitVec.ofNat 8 (merged / 256 ^ j)) ∧
      (∀ a, (∀ e, at_ e → a < memKey e off ∨ memKey e off + 64 ≤ a) → cellRead y.s.mem a = cellRead s.mem a) ∧
      (tabGet? s.latent (lineKey d off) = none →
        linePoisoned y.s (lineKey d off) = (linePois k x.tile line || (linePoisoned s (lineKey d off) && l.mask != fullMask 64)))) ∧
    (∀ x : Xfer, x.bad = none → let va := lineVa k x.tile line
      let y := xferLine k (fun _ => true) x line
      let tr := translate x.s k.x.core k.dom (groupWord k.grp) (BitVec.ofInt 48 (64 * line)) (if k.load then .read else .write)
      0 ≤ va → va < 2 ^ 48 → 0 ≤ line → line < 2 ^ 42 →
      (∀ c u, tr = .bad c u → (∃ b, y.bad = some b ∧ b.code = c.code ∧ b.del = .d ∧ b.va = BitVec.ofInt 48 va) ∧ y.tile = x.tile ∧ y.s = u) ∧
      (∀ e p u, tr = .ok e p u →
        let v := countRequest u k.die p
        (k.ckpt = true → e.hm = false → (∃ b, y.bad = some b ∧ b.code = cPermission) ∧ y.tile = x.tile ∧ y.s = u) ∧
        ((k.ckpt = true → e.hm = true) →
          (k.load = true → e.st = 1 → y.tile = loadLine k x.tile line 0 false ∧ y.s.mem = u.mem ∧ y.bad = none) ∧
          (∀ d off, k.load = true → e.st ≠ 1 → p = .mem d off →
            y.tile = loadLine k x.tile line (memRead u.mem (memKey d off) 64) (readMem v d off 64).pois ∧ y.s.mem = u.mem ∧ y.bad = none) ∧
          (k.load = false → y = putLine k { x with s := v } line e.mirrorOf p (storeLine k x.tile line))))) ∧
    (∀ (s : State) (xp lo : Nat),
      let lines := stepLines k t.rows t.cols lo
      let x := lines.foldl (xferLine k fun _ => true) ⟨s, t, none, false, xp, []⟩
      let y := xferStep k s t xp lo
      (x.bad = none → y.s = x.s ∧ y.bad = none ∧ (k.load = false → y.tile = x.tile) ∧
        (k.load = true → fits x.tile → x.tile.rows = t.rows → x.tile.cols = t.cols → ∀ p b, p < t.rows * t.cols → b < w →
          bit y.tile p b = if p ∈ stepElems w t.rows t.cols lo ∧ k.touches (el p) = false then
            (if k.lay.fill = 1 then (if k.fmt = 9 then intBits 128 k.lay.pat.toInt else k.lay.pat.toNat) else 0).testBit b else bit x.tile p b)) ∧
      (∀ b, x.bad = some b → y.bad = some b)) ∧
    (let u := placeTile k.lay t
     (t.plane = false → t.lvl ≠ .a → u = { t with dense := false, pitch := k.lay.pitch, run := k.lay.run, rot := k.lay.rot }) ∧
     (t.plane = true ∨ t.lvl = .a → u = t) ∧ ∀ p b, bit u p b = bit t p b)

/-- A K block of an MMA adds its products, checksums and poison to the accumulator tile; ACHK and AFIX report residues, masks and the repair (R90, R92, R207, R239, R240, R241, R247, R252, R253, R254, R255, R256). The model's own choices or readings: log entries 59 and 60. -/
def Obligations.AccumulatorResults : Prop :=
  ∀ (s : State) (x : CtxId) (n fuel : Nat) (e : Entry) (r : TRef), entryAt (ctxAt s x) n = some e → e.td = some r →
    let k := ctxAt s x
    (∀ (tc a b : Tile) (q : Acc), entryTile s x e.td = some tc → entryTile s x e.ta = some a → entryTile s x e.tb = some b → tc.acc = some q →
      let rm := Rm.ofBits (e.fpc.setWidth 3)
      let ma := scaledBy s x a e.marka
      let mb := scaledBy s x b e.markb
      let need := (if ma then 32 else 0) + if mb then 32 else 0
      let ck := e.slot.getLsbD 16
      let val (t : Tile) (fold : Bool) (phi : Int) (i j : Nat) : Val :=
        (fmtTy t.fmt).decode false (if fold then (tscaleElem (fmtTy t.fmt) rm phi (t.elem i j)).bits else t.elem i j)
      let sigma (on : Bool) (i : Nat) : Int := if on then ((k.scq[i]?).map fun v => v.v.toInt).getD 0 else 0
      let A (i d : Nat) : Val := (val a e.folda e.phia i (32 * e.prog + d)).scale (sigma ma i)
      let B (d j : Nat) : Val := (if e.slot.getLsbD 13 then val b e.foldb e.phib j (32 * e.prog + d) else val b e.foldb e.phib (32 * e.prog + d) j).scale
        (sigma mb (if ma then 32 + j else j))
      let sums (f : Nat → Val) : Val := (List.range 32).foldl (fun v i => (Val.add false v (f i)).val) (.num false 0 0)
      let adds (f g : Nat → Val) (c : Cell) : Cell := (List.range 32).foldl (fun m d => (m.addProd (f d) (g d) q.q).cell) c
      let rounded (f g : Val) : Bool := (Cell.zero.addProd f g q.q).inexact
      let cut (f : Nat → Bool) : Nat := ((List.range 32).filter f).length
      let plus (v : Vector (BitVec 32) 32) (i m : Nat) : Nat := min (counterAt v i + m) (2 ^ 32 - 1)
      let poisonB : Prop := b.pois ≠ 0 ∨ (mb = true ∧ ∃ j, j < 32 ∧ ((k.scq[if ma then 32 + j else j]?).map Scale.pois).getD false = true)
      let poisonA (i : Nat) : Prop := rowPoisoned (if e.spread = true ∧ a.pois ≠ 0 then 2 ^ a.rows - 1 else a.pois) i = true ∨
        (ma = true ∧ ((k.scq[i]?).map Scale.pois).getD false = true)
      let u := mmaAdvance x n 1 s
      let goes : Prop := e.prog < a.cols / 32 ∧ need ≤ k.scq.length
      (¬ goes → mmaAdvance x n (fuel + 1) s = s) ∧ (goes → mmaAdvance x n (fuel + 1) s = mmaAdvance x n fuel u) ∧
      (goes → u.mem = s.mem ∧ (ctxAt u x).scq = k.scq.drop need ∧ (entryAt (ctxAt u x) n).map Entry.prog = some (e.prog + 1) ∧
        ∃ t z, entryTile u x e.td = some t ∧ t.acc = some z ∧ z.q = q.q ∧ z.cv = q.cv ∧
          (∀ i j, i < 32 → j < 32 → z.cell i j = adds (fun d => A i d) (fun d => B d j) (q.cell i j)) ∧
          (∀ i, i < 32 → cellIn z.rowck i = if ck then adds (fun d => A i d) (fun d => sums (B d)) (cellIn q.rowck i) else cellIn q.rowck i) ∧
          (∀ j, j < 32 → cellIn z.colck j = if ck then adds (fun d => sums fun i => A i d) (fun d => B d j) (cellIn q.colck j) else cellIn q.colck j) ∧
          (∀ i, i < 32 → counterAt z.rcRow i = plus q.rcRow i ((List.range 32).map fun j => cut fun d => rounded (A i d) (B d j)).sum ∧
            counterAt z.rcCol i = plus q.rcCol i ((List.range 32).map fun j => cut fun d => rounded (A j d) (B d i)).sum ∧
            counterAt z.ckRow i = plus q.ckRow i (if ck then cut fun d => rounded (A i d) (sums (B d)) else 0) ∧
            counterAt z.ckCol i = plus q.ckCol i (if ck then cut fun d => rounded (sums fun j => A j d) (B d i) else 0)) ∧
          (∀ i, i < 32 → (rowPoisoned t.pois i = true ↔ rowPoisoned tc.pois i = true ∨ poisonB ∨ poisonA i)) ∧
          (z.ckPois = true ↔ q.ckPois = true ∨ poisonB ∨ ∃ i, i < 32 ∧ poisonA i))) ∧
    (∀ (u : Tile) (a : Acc) (ra : TRef), canComplete s x e = true → entryTile s x e.ta = some u → u.acc = some a → e.ta = some ra → e.op = 0x15 ∨ e.op = 0x16 →
      let c := a.check (u.pois != 0 || a.ckPois)
      let f := a.fix c (e.op == 0x16)
      let up (s : State) (i : Fin 18) (on : Bool) : State := if on then countErr s x.core.die i else s
      let v := up (up (up s 11 c.failed) 12 (decide (1 ≤ f.action ∧ f.action ≤ 4))) 13 (f.action == 5)
      exec (.tileEntryComplete x n) s = .next (finishEntry (modRef (modRef v x.core k.grp ra fun t => { t with acc := some f.acc }) x.core k.grp r fun t =>
        { t with data := reportRows c f, pois := 0 }) x e 0)) ∧
    ∀ (a : Acc) (p : Bool),
      let c := a.check p
      let row (i : Nat) : Int := ((List.range 32).map fun j => (a.cell i j).n).sum
      let col (j : Nat) : Int := ((List.range 32).map fun i => (a.cell i j).n).sum
      let dr (i : Nat) : Int := row i - (cellIn a.rowck i).n
      let dc (j : Nat) : Int := col j - (cellIn a.colck j).n
      let bad (c : Cell) : Prop := c.o = true ∨ c.i = true
      let runs : Prop := a.cv = true ∧ p = false
      let unR (i : Nat) : Prop := runs ∧ (bad (cellIn a.rowck i) ∨ (∃ j, j < 32 ∧ bad (a.cell i j)) ∨ counterAt a.rcRow i = 0xFFFFFFFF ∨ counterAt a.ckRow i = 0xFFFFFFFF)
      let unC (j : Nat) : Prop := runs ∧ (bad (cellIn a.colck j) ∨ (∃ i, i < 32 ∧ bad (a.cell i j)) ∨ counterAt a.rcCol j = 0xFFFFFFFF ∨ counterAt a.ckCol j = 0xFFFFFFFF)
      let tolR (i : Nat) : Nat := counterAt a.rcRow i + counterAt a.ckRow i
      let tolC (j : Nat) : Nat := counterAt a.rcCol j + counterAt a.ckCol j
      let failR (i : Nat) : Prop := i < 32 ∧ runs ∧ ¬ unR i ∧ tolR i < 2 * (dr i).natAbs
      let failC (j : Nat) : Prop := j < 32 ∧ runs ∧ ¬ unC j ∧ tolC j < 2 * (dc j).natAbs
      let fails : Prop := ∃ i, failR i ∨ failC i
      let unchecked : Prop := ∃ i, i < 32 ∧ (unR i ∨ unC i)
      let same (f : Fix) (act : Nat) : Prop := f = ⟨act, 0xFFFFFFFF, 0xFFFFFFFF, a⟩
      let narrow (z : Int) : Nat := intBits 32 (if z < -(2 ^ 31) then -(2 ^ 31) else if 2 ^ 31 - 1 < z then 2 ^ 31 - 1 else z)
      let cut (z : Int) : Int := if z < -(2 ^ 127 - 1) then -(2 ^ 127 - 1) else if 2 ^ 127 - 1 < z then 2 ^ 127 - 1 else z
      let fix := a.fix c true
      (∀ f : Fix, f.action < 8 → f.place < 2 ^ 32 → f.bit < 2 ^ 32 → ∃ r0 r1 r2 : Nat, reportRows c f = [r0, r1, r2] ∧
        (∀ i, i < 32 → elemAt r0 32 i = narrow (dr i) ∧ elemAt r1 32 i = narrow (dc i)) ∧
        (∀ i, i < 32 → ((elemAt r2 32 1).testBit i = true ↔ failR i) ∧ ((elemAt r2 32 2).testBit i = true ↔ failC i) ∧
          ((elemAt r2 32 3).testBit i = true ↔ unR i) ∧ ((elemAt r2 32 4).testBit i = true ↔ unC i)) ∧
        elemAt r2 32 5 = f.action ∧ elemAt r2 32 6 = f.place ∧ elemAt r2 32 7 = f.bit ∧ (∀ j, 8 ≤ j → j < 32 → elemAt r2 32 j = 0) ∧
        ((elemAt r2 32 0).testBit 3 = true ↔ a.cv = true ∧ p = true) ∧ ((elemAt r2 32 0).testBit 2 = true ↔ unchecked) ∧
        ((elemAt r2 32 0).testBit 1 = true ↔ a.cv = false) ∧ ((elemAt r2 32 0).testBit 0 = true ↔ runs ∧ ¬ fails) ∧ elemAt r2 32 0 < 16) ∧
      (c.failed = true ↔ fails) ∧ same (a.fix c false) 0 ∧ (¬ fails → same fix 0) ∧ (fails → unchecked → same fix 5) ∧
      (fails → ¬ unchecked →
        (∀ i j, failR i → failC j → (∀ m, failR m → m = i) → (∀ m, failC m → m = j) →
          let n := (a.cell i j).n
          let cand (b : Nat) : Prop := b < 128 ∧ flipBit n b ≠ -2 ^ 127 ∧ 2 * (dr i + (flipBit n b - n)).natAbs ≤ tolR i ∧ 2 * (dc j + (flipBit n b - n)).natAbs ≤ tolC j
          let cost (b : Nat) : Nat := (dr i + (flipBit n b - n)).natAbs + (dc j + (flipBit n b - n)).natAbs
          let takes (m : Int) : Prop := (∀ i' j', i' < 32 → j' < 32 → fix.acc.cell i' j' = if i' = i ∧ j' = j then { a.cell i j with n := m } else a.cell i' j') ∧
            { fix.acc with cells := a.cells } = a
          (∀ b, cand b → (∀ m, cand m → cost b < cost m ∨ (cost b = cost m ∧ b ≤ m)) → fix.action = 1 ∧ fix.place = 32 * i + j ∧ fix.bit = b ∧ takes (flipBit n b)) ∧
          ((∀ b, ¬ cand b) → 2 * (dc j - dr i).natAbs ≤ tolC j → fix.action = 2 ∧ fix.place = 32 * i + j ∧ fix.bit = 0xFFFFFFFF ∧ takes (replaced (n - dr i))) ∧
          ((∀ b, ¬ cand b) → tolC j < 2 * (dc j - dr i).natAbs → same fix 5)) ∧
        (∀ i, failR i → (∀ m, failR m → m = i) → (∀ j, ¬ failC j) → fix.action = 3 ∧ fix.place = i ∧ fix.bit = 0xFFFFFFFF ∧
          (cellIn fix.acc.rowck i).n = cut (row i) ∧ (∀ m, m < 32 → m ≠ i → cellIn fix.acc.rowck m = cellIn a.rowck m) ∧ { fix.acc with rowck := a.rowck } = a) ∧
        (∀ j, failC j → (∀ m, failC m → m = j) → (∀ i, ¬ failR i) → fix.action = 4 ∧ fix.place = j ∧ fix.bit = 0xFFFFFFFF ∧
          (cellIn fix.acc.colck j).n = cut (col j) ∧ (∀ m, m < 32 → m ≠ j → cellIn fix.acc.colck m = cellIn a.colck m) ∧ { fix.acc with colck := a.colck } = a) ∧
        ((∃ i m, failR i ∧ failR m ∧ i ≠ m) ∨ (∃ j m, failC j ∧ failC m ∧ j ≠ m) → same fix 5)) ∧
      (∀ m : Int, (-2 ^ 127 < m ∧ m < 2 ^ 127 → replaced m = m) ∧ -2 ^ 127 < replaced m ∧ replaced m < 2 ^ 127)
end

