-- ==== Sys2Proof/Laws/State.lean ====
section
/-! SUPPORT. Small laws of the state's accessors and updates: what each update leaves alone, field by field, and what it puts in place. -/

namespace Sys2Proof.Machine

/-! ### onCtx -/

@[simp] theorem onCtx_cur (s : State) (f : Ctx → Ctx) : (s.onCtx f).cur = s.cur := rfl
@[simp] theorem onCtx_ctxs (s : State) (f : Ctx → Ctx) : (s.onCtx f).ctxs = s.ctxs := rfl
@[simp] theorem onCtx_frame (s : State) (f : Ctx → Ctx) : (s.onCtx f).frame = s.frame := rfl
@[simp] theorem onCtx_turn (s : State) (f : Ctx → Ctx) : (s.onCtx f).turn = s.turn := rfl
@[simp] theorem onCtx_second (s : State) (f : Ctx → Ctx) : (s.onCtx f).second = s.second := rfl
@[simp] theorem onCtx_acct (s : State) (f : Ctx → Ctx) : (s.onCtx f).acct = s.acct := rfl
@[simp] theorem onCtx_agenda (s : State) (f : Ctx → Ctx) : (s.onCtx f).agenda = s.agenda := rfl
@[simp] theorem onCtx_outbox (s : State) (f : Ctx → Ctx) : (s.onCtx f).outbox = s.outbox := rfl
@[simp] theorem onCtx_pend (s : State) (f : Ctx → Ctx) : (s.onCtx f).pend = s.pend := rfl
@[simp] theorem onCtx_nextTag (s : State) (f : Ctx → Ctx) : (s.onCtx f).nextTag = s.nextTag := rfl
@[simp] theorem onCtx_stalls (s : State) (f : Ctx → Ctx) : (s.onCtx f).stalls = s.stalls := rfl
@[simp] theorem onCtx_clk (s : State) (f : Ctx → Ctx) : (s.onCtx f).clk = s.clk := rfl
@[simp] theorem onCtx_pkg (s : State) (f : Ctx → Ctx) : (s.onCtx f).pkg = s.pkg := rfl
@[simp] theorem onCtx_mem (s : State) (f : Ctx → Ctx) : (s.onCtx f).mem = s.mem := rfl
@[simp] theorem onCtx_poison (s : State) (f : Ctx → Ctx) : (s.onCtx f).poison = s.poison := rfl
@[simp] theorem onCtx_poisonAll (s : State) (f : Ctx → Ctx) : (s.onCtx f).poisonAll = s.poisonAll := rfl
@[simp] theorem onCtx_latent (s : State) (f : Ctx → Ctx) : (s.onCtx f).latent = s.latent := rfl
@[simp] theorem onCtx_cores (s : State) (f : Ctx → Ctx) : (s.onCtx f).cores = s.cores := rfl
@[simp] theorem onCtx_dies (s : State) (f : Ctx → Ctx) : (s.onCtx f).dies = s.dies := rfl
@[simp] theorem onCtx_doms (s : State) (f : Ctx → Ctx) : (s.onCtx f).doms = s.doms := rfl
@[simp] theorem onCtx_psets (s : State) (f : Ctx → Ctx) : (s.onCtx f).psets = s.psets := rfl
@[simp] theorem onCtx_vfb (s : State) (f : Ctx → Ctx) : (s.onCtx f).vfb = s.vfb := rfl
@[simp] theorem onCtx_vfr (s : State) (f : Ctx → Ctx) : (s.onCtx f).vfr = s.vfr := rfl
@[simp] theorem onCtx_launches (s : State) (f : Ctx → Ctx) : (s.onCtx f).launches = s.launches := rfl
@[simp] theorem onCtx_nextLaunch (s : State) (f : Ctx → Ctx) : (s.onCtx f).nextLaunch = s.nextLaunch := rfl
@[simp] theorem onCtx_nextGroup (s : State) (f : Ctx → Ctx) : (s.onCtx f).nextGroup = s.nextGroup := rfl
@[simp] theorem onCtx_tasksets (s : State) (f : Ctx → Ctx) : (s.onCtx f).tasksets = s.tasksets := rfl
@[simp] theorem onCtx_flows (s : State) (f : Ctx → Ctx) : (s.onCtx f).flows = s.flows := rfl
@[simp] theorem onCtx_links (s : State) (f : Ctx → Ctx) : (s.onCtx f).links = s.links := rfl
@[simp] theorem onCtx_boot (s : State) (f : Ctx → Ctx) : (s.onCtx f).boot = s.boot := rfl
@[simp] theorem onCtx_migrs (s : State) (f : Ctx → Ctx) : (s.onCtx f).migrs = s.migrs := rfl
@[simp] theorem onCtx_nextMigr (s : State) (f : Ctx → Ctx) : (s.onCtx f).nextMigr = s.nextMigr := rfl
@[simp] theorem onCtx_ruleKeys (s : State) (f : Ctx → Ctx) : (s.onCtx f).ruleKeys = s.ruleKeys := rfl
@[simp] theorem onCtx_energyAt (s : State) (f : Ctx → Ctx) : (s.onCtx f).energyAt = s.energyAt := rfl
@[simp] theorem onCtx_slackFlags (s : State) (f : Ctx → Ctx) : (s.onCtx f).slackFlags = s.slackFlags := rfl
@[simp] theorem onCtx_tested (s : State) (f : Ctx → Ctx) : (s.onCtx f).tested = s.tested := rfl
@[simp] theorem onCtx_testAt (s : State) (f : Ctx → Ctx) : (s.onCtx f).testAt = s.testAt := rfl
@[simp] theorem onCtx_route (s : State) (f : Ctx → Ctx) : (s.onCtx f).route = s.route := rfl

/-! ### onFrame -/

@[simp] theorem onFrame_cur (s : State) (f : Frame → Frame) : (s.onFrame f).cur = s.cur := rfl
@[simp] theorem onFrame_ctx (s : State) (f : Frame → Frame) : (s.onFrame f).ctx = s.ctx := rfl
@[simp] theorem onFrame_ctxs (s : State) (f : Frame → Frame) : (s.onFrame f).ctxs = s.ctxs := rfl
@[simp] theorem onFrame_turn (s : State) (f : Frame → Frame) : (s.onFrame f).turn = s.turn := rfl
@[simp] theorem onFrame_second (s : State) (f : Frame → Frame) : (s.onFrame f).second = s.second := rfl
@[simp] theorem onFrame_acct (s : State) (f : Frame → Frame) : (s.onFrame f).acct = s.acct := rfl
@[simp] theorem onFrame_agenda (s : State) (f : Frame → Frame) : (s.onFrame f).agenda = s.agenda := rfl
@[simp] theorem onFrame_outbox (s : State) (f : Frame → Frame) : (s.onFrame f).outbox = s.outbox := rfl
@[simp] theorem onFrame_pend (s : State) (f : Frame → Frame) : (s.onFrame f).pend = s.pend := rfl
@[simp] theorem onFrame_nextTag (s : State) (f : Frame → Frame) : (s.onFrame f).nextTag = s.nextTag := rfl
@[simp] theorem onFrame_stalls (s : State) (f : Frame → Frame) : (s.onFrame f).stalls = s.stalls := rfl
@[simp] theorem onFrame_clk (s : State) (f : Frame → Frame) : (s.onFrame f).clk = s.clk := rfl
@[simp] theorem onFrame_pkg (s : State) (f : Frame → Frame) : (s.onFrame f).pkg = s.pkg := rfl
@[simp] theorem onFrame_mem (s : State) (f : Frame → Frame) : (s.onFrame f).mem = s.mem := rfl
@[simp] theorem onFrame_poison (s : State) (f : Frame → Frame) : (s.onFrame f).poison = s.poison := rfl
@[simp] theorem onFrame_poisonAll (s : State) (f : Frame → Frame) : (s.onFrame f).poisonAll = s.poisonAll := rfl
@[simp] theorem onFrame_latent (s : State) (f : Frame → Frame) : (s.onFrame f).latent = s.latent := rfl
@[simp] theorem onFrame_cores (s : State) (f : Frame → Frame) : (s.onFrame f).cores = s.cores := rfl
@[simp] theorem onFrame_dies (s : State) (f : Frame → Frame) : (s.onFrame f).dies = s.dies := rfl
@[simp] theorem onFrame_doms (s : State) (f : Frame → Frame) : (s.onFrame f).doms = s.doms := rfl
@[simp] theorem onFrame_psets (s : State) (f : Frame → Frame) : (s.onFrame f).psets = s.psets := rfl
@[simp] theorem onFrame_vfb (s : State) (f : Frame → Frame) : (s.onFrame f).vfb = s.vfb := rfl
@[simp] theorem onFrame_vfr (s : State) (f : Frame → Frame) : (s.onFrame f).vfr = s.vfr := rfl
@[simp] theorem onFrame_launches (s : State) (f : Frame → Frame) : (s.onFrame f).launches = s.launches := rfl
@[simp] theorem onFrame_nextLaunch (s : State) (f : Frame → Frame) : (s.onFrame f).nextLaunch = s.nextLaunch := rfl
@[simp] theorem onFrame_nextGroup (s : State) (f : Frame → Frame) : (s.onFrame f).nextGroup = s.nextGroup := rfl
@[simp] theorem onFrame_tasksets (s : State) (f : Frame → Frame) : (s.onFrame f).tasksets = s.tasksets := rfl
@[simp] theorem onFrame_flows (s : State) (f : Frame → Frame) : (s.onFrame f).flows = s.flows := rfl
@[simp] theorem onFrame_links (s : State) (f : Frame → Frame) : (s.onFrame f).links = s.links := rfl
@[simp] theorem onFrame_boot (s : State) (f : Frame → Frame) : (s.onFrame f).boot = s.boot := rfl
@[simp] theorem onFrame_migrs (s : State) (f : Frame → Frame) : (s.onFrame f).migrs = s.migrs := rfl
@[simp] theorem onFrame_nextMigr (s : State) (f : Frame → Frame) : (s.onFrame f).nextMigr = s.nextMigr := rfl
@[simp] theorem onFrame_ruleKeys (s : State) (f : Frame → Frame) : (s.onFrame f).ruleKeys = s.ruleKeys := rfl
@[simp] theorem onFrame_energyAt (s : State) (f : Frame → Frame) : (s.onFrame f).energyAt = s.energyAt := rfl
@[simp] theorem onFrame_slackFlags (s : State) (f : Frame → Frame) : (s.onFrame f).slackFlags = s.slackFlags := rfl
@[simp] theorem onFrame_tested (s : State) (f : Frame → Frame) : (s.onFrame f).tested = s.tested := rfl
@[simp] theorem onFrame_testAt (s : State) (f : Frame → Frame) : (s.onFrame f).testAt = s.testAt := rfl
@[simp] theorem onFrame_route (s : State) (f : Frame → Frame) : (s.onFrame f).route = s.route := rfl

/-! ### putDie -/

@[simp] theorem putDie_cur (s : State) (d : Fin 4) (x : Die) : (putDie s d x).cur = s.cur := rfl
@[simp] theorem putDie_ctx (s : State) (d : Fin 4) (x : Die) : (putDie s d x).ctx = s.ctx := rfl
@[simp] theorem putDie_ctxs (s : State) (d : Fin 4) (x : Die) : (putDie s d x).ctxs = s.ctxs := rfl
@[simp] theorem putDie_frame (s : State) (d : Fin 4) (x : Die) : (putDie s d x).frame = s.frame := rfl
@[simp] theorem putDie_turn (s : State) (d : Fin 4) (x : Die) : (putDie s d x).turn = s.turn := rfl
@[simp] theorem putDie_second (s : State) (d : Fin 4) (x : Die) : (putDie s d x).second = s.second := rfl
@[simp] theorem putDie_acct (s : State) (d : Fin 4) (x : Die) : (putDie s d x).acct = s.acct := rfl
@[simp] theorem putDie_agenda (s : State) (d : Fin 4) (x : Die) : (putDie s d x).agenda = s.agenda := rfl
@[simp] theorem putDie_outbox (s : State) (d : Fin 4) (x : Die) : (putDie s d x).outbox = s.outbox := rfl
@[simp] theorem putDie_pend (s : State) (d : Fin 4) (x : Die) : (putDie s d x).pend = s.pend := rfl
@[simp] theorem putDie_nextTag (s : State) (d : Fin 4) (x : Die) : (putDie s d x).nextTag = s.nextTag := rfl
@[simp] theorem putDie_stalls (s : State) (d : Fin 4) (x : Die) : (putDie s d x).stalls = s.stalls := rfl
@[simp] theorem putDie_clk (s : State) (d : Fin 4) (x : Die) : (putDie s d x).clk = s.clk := rfl
@[simp] theorem putDie_pkg (s : State) (d : Fin 4) (x : Die) : (putDie s d x).pkg = s.pkg := rfl
@[simp] theorem putDie_mem (s : State) (d : Fin 4) (x : Die) : (putDie s d x).mem = s.mem := rfl
@[simp] theorem putDie_poison (s : State) (d : Fin 4) (x : Die) : (putDie s d x).poison = s.poison := rfl
@[simp] theorem putDie_poisonAll (s : State) (d : Fin 4) (x : Die) : (putDie s d x).poisonAll = s.poisonAll := rfl
@[simp] theorem putDie_latent (s : State) (d : Fin 4) (x : Die) : (putDie s d x).latent = s.latent := rfl
@[simp] theorem putDie_cores (s : State) (d : Fin 4) (x : Die) : (putDie s d x).cores = s.cores := rfl
@[simp] theorem putDie_doms (s : State) (d : Fin 4) (x : Die) : (putDie s d x).doms = s.doms := rfl
@[simp] theorem putDie_psets (s : State) (d : Fin 4) (x : Die) : (putDie s d x).psets = s.psets := rfl
@[simp] theorem putDie_vfb (s : State) (d : Fin 4) (x : Die) : (putDie s d x).vfb = s.vfb := rfl
@[simp] theorem putDie_vfr (s : State) (d : Fin 4) (x : Die) : (putDie s d x).vfr = s.vfr := rfl
@[simp] theorem putDie_launches (s : State) (d : Fin 4) (x : Die) : (putDie s d x).launches = s.launches := rfl
@[simp] theorem putDie_nextLaunch (s : State) (d : Fin 4) (x : Die) : (putDie s d x).nextLaunch = s.nextLaunch := rfl
@[simp] theorem putDie_nextGroup (s : State) (d : Fin 4) (x : Die) : (putDie s d x).nextGroup = s.nextGroup := rfl
@[simp] theorem putDie_tasksets (s : State) (d : Fin 4) (x : Die) : (putDie s d x).tasksets = s.tasksets := rfl
@[simp] theorem putDie_flows (s : State) (d : Fin 4) (x : Die) : (putDie s d x).flows = s.flows := rfl
@[simp] theorem putDie_links (s : State) (d : Fin 4) (x : Die) : (putDie s d x).links = s.links := rfl
@[simp] theorem putDie_boot (s : State) (d : Fin 4) (x : Die) : (putDie s d x).boot = s.boot := rfl
@[simp] theorem putDie_migrs (s : State) (d : Fin 4) (x : Die) : (putDie s d x).migrs = s.migrs := rfl
@[simp] theorem putDie_nextMigr (s : State) (d : Fin 4) (x : Die) : (putDie s d x).nextMigr = s.nextMigr := rfl
@[simp] theorem putDie_ruleKeys (s : State) (d : Fin 4) (x : Die) : (putDie s d x).ruleKeys = s.ruleKeys := rfl
@[simp] theorem putDie_energyAt (s : State) (d : Fin 4) (x : Die) : (putDie s d x).energyAt = s.energyAt := rfl
@[simp] theorem putDie_slackFlags (s : State) (d : Fin 4) (x : Die) : (putDie s d x).slackFlags = s.slackFlags := rfl
@[simp] theorem putDie_tested (s : State) (d : Fin 4) (x : Die) : (putDie s d x).tested = s.tested := rfl
@[simp] theorem putDie_testAt (s : State) (d : Fin 4) (x : Die) : (putDie s d x).testAt = s.testAt := rfl
@[simp] theorem putDie_route (s : State) (d : Fin 4) (x : Die) : (putDie s d x).route = s.route := rfl

/-! ### putCore -/

@[simp] theorem putCore_cur (s : State) (c : CoreId) (k : Core) : (putCore s c k).cur = s.cur := rfl
@[simp] theorem putCore_ctx (s : State) (c : CoreId) (k : Core) : (putCore s c k).ctx = s.ctx := rfl
@[simp] theorem putCore_ctxs (s : State) (c : CoreId) (k : Core) : (putCore s c k).ctxs = s.ctxs := rfl
@[simp] theorem putCore_frame (s : State) (c : CoreId) (k : Core) : (putCore s c k).frame = s.frame := rfl
@[simp] theorem putCore_turn (s : State) (c : CoreId) (k : Core) : (putCore s c k).turn = s.turn := rfl
@[simp] theorem putCore_second (s : State) (c : CoreId) (k : Core) : (putCore s c k).second = s.second := rfl
@[simp] theorem putCore_acct (s : State) (c : CoreId) (k : Core) : (putCore s c k).acct = s.acct := rfl
@[simp] theorem putCore_agenda (s : State) (c : CoreId) (k : Core) : (putCore s c k).agenda = s.agenda := rfl
@[simp] theorem putCore_outbox (s : State) (c : CoreId) (k : Core) : (putCore s c k).outbox = s.outbox := rfl
@[simp] theorem putCore_pend (s : State) (c : CoreId) (k : Core) : (putCore s c k).pend = s.pend := rfl
@[simp] theorem putCore_nextTag (s : State) (c : CoreId) (k : Core) : (putCore s c k).nextTag = s.nextTag := rfl
@[simp] theorem putCore_stalls (s : State) (c : CoreId) (k : Core) : (putCore s c k).stalls = s.stalls := rfl
@[simp] theorem putCore_clk (s : State) (c : CoreId) (k : Core) : (putCore s c k).clk = s.clk := rfl
@[simp] theorem putCore_pkg (s : State) (c : CoreId) (k : Core) : (putCore s c k).pkg = s.pkg := rfl
@[simp] theorem putCore_mem (s : State) (c : CoreId) (k : Core) : (putCore s c k).mem = s.mem := rfl
@[simp] theorem putCore_poison (s : State) (c : CoreId) (k : Core) : (putCore s c k).poison = s.poison := rfl
@[simp] theorem putCore_poisonAll (s : State) (c : CoreId) (k : Core) : (putCore s c k).poisonAll = s.poisonAll := rfl
@[simp] theorem putCore_latent (s : State) (c : CoreId) (k : Core) : (putCore s c k).latent = s.latent := rfl
@[simp] theorem putCore_dies (s : State) (c : CoreId) (k : Core) : (putCore s c k).dies = s.dies := rfl
@[simp] theorem putCore_doms (s : State) (c : CoreId) (k : Core) : (putCore s c k).doms = s.doms := rfl
@[simp] theorem putCore_psets (s : State) (c : CoreId) (k : Core) : (putCore s c k).psets = s.psets := rfl
@[simp] theorem putCore_vfb (s : State) (c : CoreId) (k : Core) : (putCore s c k).vfb = s.vfb := rfl
@[simp] theorem putCore_vfr (s : State) (c : CoreId) (k : Core) : (putCore s c k).vfr = s.vfr := rfl
@[simp] theorem putCore_launches (s : State) (c : CoreId) (k : Core) : (putCore s c k).launches = s.launches := rfl
@[simp] theorem putCore_nextLaunch (s : State) (c : CoreId) (k : Core) : (putCore s c k).nextLaunch = s.nextLaunch := rfl
@[simp] theorem putCore_nextGroup (s : State) (c : CoreId) (k : Core) : (putCore s c k).nextGroup = s.nextGroup := rfl
@[simp] theorem putCore_tasksets (s : State) (c : CoreId) (k : Core) : (putCore s c k).tasksets = s.tasksets := rfl
@[simp] theorem putCore_flows (s : State) (c : CoreId) (k : Core) : (putCore s c k).flows = s.flows := rfl
@[simp] theorem putCore_links (s : State) (c : CoreId) (k : Core) : (putCore s c k).links = s.links := rfl
@[simp] theorem putCore_boot (s : State) (c : CoreId) (k : Core) : (putCore s c k).boot = s.boot := rfl
@[simp] theorem putCore_migrs (s : State) (c : CoreId) (k : Core) : (putCore s c k).migrs = s.migrs := rfl
@[simp] theorem putCore_nextMigr (s : State) (c : CoreId) (k : Core) : (putCore s c k).nextMigr = s.nextMigr := rfl
@[simp] theorem putCore_ruleKeys (s : State) (c : CoreId) (k : Core) : (putCore s c k).ruleKeys = s.ruleKeys := rfl
@[simp] theorem putCore_energyAt (s : State) (c : CoreId) (k : Core) : (putCore s c k).energyAt = s.energyAt := rfl
@[simp] theorem putCore_slackFlags (s : State) (c : CoreId) (k : Core) : (putCore s c k).slackFlags = s.slackFlags := rfl
@[simp] theorem putCore_tested (s : State) (c : CoreId) (k : Core) : (putCore s c k).tested = s.tested := rfl
@[simp] theorem putCore_testAt (s : State) (c : CoreId) (k : Core) : (putCore s c k).testAt = s.testAt := rfl
@[simp] theorem putCore_route (s : State) (c : CoreId) (k : Core) : (putCore s c k).route = s.route := rfl

/-! ### putDom -/

@[simp] theorem putDom_cur (s : State) (x : Dom) : (putDom s x).cur = s.cur := rfl
@[simp] theorem putDom_ctx (s : State) (x : Dom) : (putDom s x).ctx = s.ctx := rfl
@[simp] theorem putDom_ctxs (s : State) (x : Dom) : (putDom s x).ctxs = s.ctxs := rfl
@[simp] theorem putDom_frame (s : State) (x : Dom) : (putDom s x).frame = s.frame := rfl
@[simp] theorem putDom_turn (s : State) (x : Dom) : (putDom s x).turn = s.turn := rfl
@[simp] theorem putDom_second (s : State) (x : Dom) : (putDom s x).second = s.second := rfl
@[simp] theorem putDom_acct (s : State) (x : Dom) : (putDom s x).acct = s.acct := rfl
@[simp] theorem putDom_agenda (s : State) (x : Dom) : (putDom s x).agenda = s.agenda := rfl
@[simp] theorem putDom_outbox (s : State) (x : Dom) : (putDom s x).outbox = s.outbox := rfl
@[simp] theorem putDom_pend (s : State) (x : Dom) : (putDom s x).pend = s.pend := rfl
@[simp] theorem putDom_nextTag (s : State) (x : Dom) : (putDom s x).nextTag = s.nextTag := rfl
@[simp] theorem putDom_stalls (s : State) (x : Dom) : (putDom s x).stalls = s.stalls := rfl
@[simp] theorem putDom_clk (s : State) (x : Dom) : (putDom s x).clk = s.clk := rfl
@[simp] theorem putDom_pkg (s : State) (x : Dom) : (putDom s x).pkg = s.pkg := rfl
@[simp] theorem putDom_mem (s : State) (x : Dom) : (putDom s x).mem = s.mem := rfl
@[simp] theorem putDom_poison (s : State) (x : Dom) : (putDom s x).poison = s.poison := rfl
@[simp] theorem putDom_poisonAll (s : State) (x : Dom) : (putDom s x).poisonAll = s.poisonAll := rfl
@[simp] theorem putDom_latent (s : State) (x : Dom) : (putDom s x).latent = s.latent := rfl
@[simp] theorem putDom_cores (s : State) (x : Dom) : (putDom s x).cores = s.cores := rfl
@[simp] theorem putDom_dies (s : State) (x : Dom) : (putDom s x).dies = s.dies := rfl
@[simp] theorem putDom_psets (s : State) (x : Dom) : (putDom s x).psets = s.psets := rfl
@[simp] theorem putDom_vfb (s : State) (x : Dom) : (putDom s x).vfb = s.vfb := rfl
@[simp] theorem putDom_vfr (s : State) (x : Dom) : (putDom s x).vfr = s.vfr := rfl
@[simp] theorem putDom_launches (s : State) (x : Dom) : (putDom s x).launches = s.launches := rfl
@[simp] theorem putDom_nextLaunch (s : State) (x : Dom) : (putDom s x).nextLaunch = s.nextLaunch := rfl
@[simp] theorem putDom_nextGroup (s : State) (x : Dom) : (putDom s x).nextGroup = s.nextGroup := rfl
@[simp] theorem putDom_tasksets (s : State) (x : Dom) : (putDom s x).tasksets = s.tasksets := rfl
@[simp] theorem putDom_flows (s : State) (x : Dom) : (putDom s x).flows = s.flows := rfl
@[simp] theorem putDom_links (s : State) (x : Dom) : (putDom s x).links = s.links := rfl
@[simp] theorem putDom_boot (s : State) (x : Dom) : (putDom s x).boot = s.boot := rfl
@[simp] theorem putDom_migrs (s : State) (x : Dom) : (putDom s x).migrs = s.migrs := rfl
@[simp] theorem putDom_nextMigr (s : State) (x : Dom) : (putDom s x).nextMigr = s.nextMigr := rfl
@[simp] theorem putDom_ruleKeys (s : State) (x : Dom) : (putDom s x).ruleKeys = s.ruleKeys := rfl
@[simp] theorem putDom_energyAt (s : State) (x : Dom) : (putDom s x).energyAt = s.energyAt := rfl
@[simp] theorem putDom_slackFlags (s : State) (x : Dom) : (putDom s x).slackFlags = s.slackFlags := rfl
@[simp] theorem putDom_tested (s : State) (x : Dom) : (putDom s x).tested = s.tested := rfl
@[simp] theorem putDom_testAt (s : State) (x : Dom) : (putDom s x).testAt = s.testAt := rfl
@[simp] theorem putDom_route (s : State) (x : Dom) : (putDom s x).route = s.route := rfl

/-! ### writeMem -/

@[simp] theorem writeMem_cur (s : State) (d : Fin 4) (off n v : Nat) : (writeMem s d off n v).cur = s.cur := rfl
@[simp] theorem writeMem_ctx (s : State) (d : Fin 4) (off n v : Nat) : (writeMem s d off n v).ctx = s.ctx := rfl
@[simp] theorem writeMem_ctxs (s : State) (d : Fin 4) (off n v : Nat) : (writeMem s d off n v).ctxs = s.ctxs := rfl
@[simp] theorem writeMem_frame (s : State) (d : Fin 4) (off n v : Nat) : (writeMem s d off n v).frame = s.frame := rfl
@[simp] theorem writeMem_turn (s : State) (d : Fin 4) (off n v : Nat) : (writeMem s d off n v).turn = s.turn := rfl
@[simp] theorem writeMem_second (s : State) (d : Fin 4) (off n v : Nat) : (writeMem s d off n v).second = s.second := rfl
@[simp] theorem writeMem_acct (s : State) (d : Fin 4) (off n v : Nat) : (writeMem s d off n v).acct = s.acct := rfl
@[simp] theorem writeMem_agenda (s : State) (d : Fin 4) (off n v : Nat) : (writeMem s d off n v).agenda = s.agenda := rfl
@[simp] theorem writeMem_outbox (s : State) (d : Fin 4) (off n v : Nat) : (writeMem s d off n v).outbox = s.outbox := rfl
@[simp] theorem writeMem_pend (s : State) (d : Fin 4) (off n v : Nat) : (writeMem s d off n v).pend = s.pend := rfl
@[simp] theorem writeMem_nextTag (s : State) (d : Fin 4) (off n v : Nat) : (writeMem s d off n v).nextTag = s.nextTag := rfl
@[simp] theorem writeMem_stalls (s : State) (d : Fin 4) (off n v : Nat) : (writeMem s d off n v).stalls = s.stalls := rfl
@[simp] theorem writeMem_clk (s : State) (d : Fin 4) (off n v : Nat) : (writeMem s d off n v).clk = s.clk := rfl
@[simp] theorem writeMem_pkg (s : State) (d : Fin 4) (off n v : Nat) : (writeMem s d off n v).pkg = s.pkg := rfl
@[simp] theorem writeMem_poison (s : State) (d : Fin 4) (off n v : Nat) : (writeMem s d off n v).poison = s.poison := rfl
@[simp] theorem writeMem_poisonAll (s : State) (d : Fin 4) (off n v : Nat) : (writeMem s d off n v).poisonAll = s.poisonAll := rfl
@[simp] theorem writeMem_latent (s : State) (d : Fin 4) (off n v : Nat) : (writeMem s d off n v).latent = s.latent := rfl
@[simp] theorem writeMem_cores (s : State) (d : Fin 4) (off n v : Nat) : (writeMem s d off n v).cores = s.cores := rfl
@[simp] theorem writeMem_dies (s : State) (d : Fin 4) (off n v : Nat) : (writeMem s d off n v).dies = s.dies := rfl
@[simp] theorem writeMem_doms (s : State) (d : Fin 4) (off n v : Nat) : (writeMem s d off n v).doms = s.doms := rfl
@[simp] theorem writeMem_psets (s : State) (d : Fin 4) (off n v : Nat) : (writeMem s d off n v).psets = s.psets := rfl
@[simp] theorem writeMem_vfb (s : State) (d : Fin 4) (off n v : Nat) : (writeMem s d off n v).vfb = s.vfb := rfl
@[simp] theorem writeMem_vfr (s : State) (d : Fin 4) (off n v : Nat) : (writeMem s d off n v).vfr = s.vfr := rfl
@[simp] theorem writeMem_launches (s : State) (d : Fin 4) (off n v : Nat) : (writeMem s d off n v).launches = s.launches := rfl
@[simp] theorem writeMem_nextLaunch (s : State) (d : Fin 4) (off n v : Nat) : (writeMem s d off n v).nextLaunch = s.nextLaunch := rfl
@[simp] theorem writeMem_nextGroup (s : State) (d : Fin 4) (off n v : Nat) : (writeMem s d off n v).nextGroup = s.nextGroup := rfl
@[simp] theorem writeMem_tasksets (s : State) (d : Fin 4) (off n v : Nat) : (writeMem s d off n v).tasksets = s.tasksets := rfl
@[simp] theorem writeMem_flows (s : State) (d : Fin 4) (off n v : Nat) : (writeMem s d off n v).flows = s.flows := rfl
@[simp] theorem writeMem_links (s : State) (d : Fin 4) (off n v : Nat) : (writeMem s d off n v).links = s.links := rfl
@[simp] theorem writeMem_boot (s : State) (d : Fin 4) (off n v : Nat) : (writeMem s d off n v).boot = s.boot := rfl
@[simp] theorem writeMem_migrs (s : State) (d : Fin 4) (off n v : Nat) : (writeMem s d off n v).migrs = s.migrs := rfl
@[simp] theorem writeMem_nextMigr (s : State) (d : Fin 4) (off n v : Nat) : (writeMem s d off n v).nextMigr = s.nextMigr := rfl
@[simp] theorem writeMem_ruleKeys (s : State) (d : Fin 4) (off n v : Nat) : (writeMem s d off n v).ruleKeys = s.ruleKeys := rfl
@[simp] theorem writeMem_energyAt (s : State) (d : Fin 4) (off n v : Nat) : (writeMem s d off n v).energyAt = s.energyAt := rfl
@[simp] theorem writeMem_slackFlags (s : State) (d : Fin 4) (off n v : Nat) : (writeMem s d off n v).slackFlags = s.slackFlags := rfl
@[simp] theorem writeMem_tested (s : State) (d : Fin 4) (off n v : Nat) : (writeMem s d off n v).tested = s.tested := rfl
@[simp] theorem writeMem_testAt (s : State) (d : Fin 4) (off n v : Nat) : (writeMem s d off n v).testAt = s.testAt := rfl
@[simp] theorem writeMem_route (s : State) (d : Fin 4) (off n v : Nat) : (writeMem s d off n v).route = s.route := rfl

/-! ### putCtx -/

@[simp] theorem putCtx_cur (s : State) (x : CtxId) (c : Ctx) : (putCtx s x c).cur = s.cur := by unfold putCtx; split <;> rfl
@[simp] theorem putCtx_frame (s : State) (x : CtxId) (c : Ctx) : (putCtx s x c).frame = s.frame := by unfold putCtx; split <;> rfl
@[simp] theorem putCtx_turn (s : State) (x : CtxId) (c : Ctx) : (putCtx s x c).turn = s.turn := by unfold putCtx; split <;> rfl
@[simp] theorem putCtx_second (s : State) (x : CtxId) (c : Ctx) : (putCtx s x c).second = s.second := by unfold putCtx; split <;> rfl
@[simp] theorem putCtx_acct (s : State) (x : CtxId) (c : Ctx) : (putCtx s x c).acct = s.acct := by unfold putCtx; split <;> rfl
@[simp] theorem putCtx_agenda (s : State) (x : CtxId) (c : Ctx) : (putCtx s x c).agenda = s.agenda := by unfold putCtx; split <;> rfl
@[simp] theorem putCtx_outbox (s : State) (x : CtxId) (c : Ctx) : (putCtx s x c).outbox = s.outbox := by unfold putCtx; split <;> rfl
@[simp] theorem putCtx_pend (s : State) (x : CtxId) (c : Ctx) : (putCtx s x c).pend = s.pend := by unfold putCtx; split <;> rfl
@[simp] theorem putCtx_nextTag (s : State) (x : CtxId) (c : Ctx) : (putCtx s x c).nextTag = s.nextTag := by unfold putCtx; split <;> rfl
@[simp] theorem putCtx_stalls (s : State) (x : CtxId) (c : Ctx) : (putCtx s x c).stalls = s.stalls := by unfold putCtx; split <;> rfl
@[simp] theorem putCtx_clk (s : State) (x : CtxId) (c : Ctx) : (putCtx s x c).clk = s.clk := by unfold putCtx; split <;> rfl
@[simp] theorem putCtx_pkg (s : State) (x : CtxId) (c : Ctx) : (putCtx s x c).pkg = s.pkg := by unfold putCtx; split <;> rfl
@[simp] theorem putCtx_mem (s : State) (x : CtxId) (c : Ctx) : (putCtx s x c).mem = s.mem := by unfold putCtx; split <;> rfl
@[simp] theorem putCtx_poison (s : State) (x : CtxId) (c : Ctx) : (putCtx s x c).poison = s.poison := by unfold putCtx; split <;> rfl
@[simp] theorem putCtx_poisonAll (s : State) (x : CtxId) (c : Ctx) : (putCtx s x c).poisonAll = s.poisonAll := by unfold putCtx; split <;> rfl
@[simp] theorem putCtx_latent (s : State) (x : CtxId) (c : Ctx) : (putCtx s x c).latent = s.latent := by unfold putCtx; split <;> rfl
@[simp] theorem putCtx_cores (s : State) (x : CtxId) (c : Ctx) : (putCtx s x c).cores = s.cores := by unfold putCtx; split <;> rfl
@[simp] theorem putCtx_dies (s : State) (x : CtxId) (c : Ctx) : (putCtx s x c).dies = s.dies := by unfold putCtx; split <;> rfl
@[simp] theorem putCtx_doms (s : State) (x : CtxId) (c : Ctx) : (putCtx s x c).doms = s.doms := by unfold putCtx; split <;> rfl
@[simp] theorem putCtx_psets (s : State) (x : CtxId) (c : Ctx) : (putCtx s x c).psets = s.psets := by unfold putCtx; split <;> rfl
@[simp] theorem putCtx_vfb (s : State) (x : CtxId) (c : Ctx) : (putCtx s x c).vfb = s.vfb := by unfold putCtx; split <;> rfl
@[simp] theorem putCtx_vfr (s : State) (x : CtxId) (c : Ctx) : (putCtx s x c).vfr = s.vfr := by unfold putCtx; split <;> rfl
@[simp] theorem putCtx_launches (s : State) (x : CtxId) (c : Ctx) : (putCtx s x c).launches = s.launches := by unfold putCtx; split <;> rfl
@[simp] theorem putCtx_nextLaunch (s : State) (x : CtxId) (c : Ctx) : (putCtx s x c).nextLaunch = s.nextLaunch := by unfold putCtx; split <;> rfl
@[simp] theorem putCtx_nextGroup (s : State) (x : CtxId) (c : Ctx) : (putCtx s x c).nextGroup = s.nextGroup := by unfold putCtx; split <;> rfl
@[simp] theorem putCtx_tasksets (s : State) (x : CtxId) (c : Ctx) : (putCtx s x c).tasksets = s.tasksets := by unfold putCtx; split <;> rfl
@[simp] theorem putCtx_flows (s : State) (x : CtxId) (c : Ctx) : (putCtx s x c).flows = s.flows := by unfold putCtx; split <;> rfl
@[simp] theorem putCtx_links (s : State) (x : CtxId) (c : Ctx) : (putCtx s x c).links = s.links := by unfold putCtx; split <;> rfl
@[simp] theorem putCtx_boot (s : State) (x : CtxId) (c : Ctx) : (putCtx s x c).boot = s.boot := by unfold putCtx; split <;> rfl
@[simp] theorem putCtx_migrs (s : State) (x : CtxId) (c : Ctx) : (putCtx s x c).migrs = s.migrs := by unfold putCtx; split <;> rfl
@[simp] theorem putCtx_nextMigr (s : State) (x : CtxId) (c : Ctx) : (putCtx s x c).nextMigr = s.nextMigr := by unfold putCtx; split <;> rfl
@[simp] theorem putCtx_ruleKeys (s : State) (x : CtxId) (c : Ctx) : (putCtx s x c).ruleKeys = s.ruleKeys := by unfold putCtx; split <;> rfl
@[simp] theorem putCtx_energyAt (s : State) (x : CtxId) (c : Ctx) : (putCtx s x c).energyAt = s.energyAt := by unfold putCtx; split <;> rfl
@[simp] theorem putCtx_slackFlags (s : State) (x : CtxId) (c : Ctx) : (putCtx s x c).slackFlags = s.slackFlags := by unfold putCtx; split <;> rfl
@[simp] theorem putCtx_tested (s : State) (x : CtxId) (c : Ctx) : (putCtx s x c).tested = s.tested := by unfold putCtx; split <;> rfl
@[simp] theorem putCtx_testAt (s : State) (x : CtxId) (c : Ctx) : (putCtx s x c).testAt = s.testAt := by unfold putCtx; split <;> rfl
@[simp] theorem putCtx_route (s : State) (x : CtxId) (c : Ctx) : (putCtx s x c).route = s.route := by unfold putCtx; split <;> rfl

@[simp] theorem onCtx_ctx (s : State) (f : Ctx → Ctx) : (s.onCtx f).ctx = f s.ctx := rfl
@[simp] theorem onFrame_frame (s : State) (f : Frame → Frame) : (s.onFrame f).frame = s.frame.map f := rfl
@[simp] theorem writeMem_mem (s : State) (d : Fin 4) (off n v : Nat) : (writeMem s d off n v).mem = memWrite s.mem (memKey d off) n v := rfl

/-! ### Tables -/

section
variable {κ α : Type} [DecidableEq κ]

@[simp] theorem tabGet?_put_same (t : Tab κ α) (k : κ) (v : α) : tabGet? (tabPut t k v) k = some v := by
  induction t with
  | nil => simp [tabPut, tabGet?]
  | cons p t ih =>
    obtain ⟨a, w⟩ := p
    simp only [tabPut]
    split
    · simp [tabGet?]
    · next h => simpa [tabGet?, h] using ih

theorem tabGet?_put_other (t : Tab κ α) (k j : κ) (v : α) (h : k ≠ j) : tabGet? (tabPut t k v) j = tabGet? t j := by
  induction t with
  | nil => simp [tabPut, tabGet?, h]
  | cons p t ih =>
    obtain ⟨a, w⟩ := p
    simp only [tabPut]
    split
    · next e => subst e; simp [tabGet?, h]
    · simp only [tabGet?, ih]

@[simp] theorem tabGet_put_same (t : Tab κ α) (k : κ) (v d : α) : tabGet (tabPut t k v) k d = v := by simp [tabGet]

theorem tabGet_put_other (t : Tab κ α) (k j : κ) (v d : α) (h : k ≠ j) : tabGet (tabPut t k v) j d = tabGet t j d := by
  simp [tabGet, tabGet?_put_other t k j v h]

end

/-! ### Reading back -/

@[simp] theorem ctxAt_putCtx_same (s : State) (x : CtxId) (c : Ctx) : ctxAt (putCtx s x c) x = c := by
  unfold putCtx ctxAt
  split <;> simp_all

theorem ctxAt_putCtx_other (s : State) (x y : CtxId) (c : Ctx) (h : x ≠ y) : ctxAt (putCtx s x c) y = ctxAt s y := by
  unfold putCtx ctxAt
  by_cases e : x = s.cur
  · subst e; simp [h.symm]
  · by_cases g : y = s.cur
    · simp [e, g]
    · simp [e, g, tabGet_put_other _ _ _ _ _ h]

@[simp] theorem ctxAt_modCtx_same (s : State) (x : CtxId) (f : Ctx → Ctx) : ctxAt (modCtx s x f) x = f (ctxAt s x) := by simp [modCtx]

@[simp] theorem coreAt_putCore_same (s : State) (c : CoreId) (k : Core) : coreAt (putCore s c k) c = k := by simp [coreAt, putCore]

theorem coreAt_putCore_other (s : State) (c e : CoreId) (k : Core) (h : c ≠ e) : coreAt (putCore s c k) e = coreAt s e := by
  simp [coreAt, putCore, tabGet_put_other _ _ _ _ _ h]

@[simp] theorem coreAt_modCore_same (s : State) (c : CoreId) (f : Core → Core) : coreAt (modCore s c f) c = f (coreAt s c) := by simp [modCore]

@[simp] theorem dieAt_putDie_same (s : State) (d : Fin 4) (x : Die) : dieAt (putDie s d x) d = x := by simp [dieAt, putDie]

theorem dieAt_putDie_other (s : State) (d e : Fin 4) (x : Die) (h : d ≠ e) : dieAt (putDie s d x) e = dieAt s e := by
  simp only [dieAt, putDie]
  exact Vector.getElem_set_ne _ _ (by omega)

@[simp] theorem dieAt_modDie_same (s : State) (d : Fin 4) (f : Die → Die) : dieAt (modDie s d f) d = f (dieAt s d) := by simp [modDie]

@[simp] theorem domAt?_putDom_same (s : State) (x : Dom) : domAt? (putDom s x) x.id = some x := by simp [domAt?, putDom]

/-! ### Registers -/

@[simp] theorem ctx_s_zero (c : Ctx) : c.s 0 = 0 := rfl
@[simp] theorem ctx_setS_zero (c : Ctx) (v : Word) : c.setS 0 v = c := rfl

theorem ctx_setS_same (c : Ctx) (n : BitVec 5) (v : Word) (h : n ≠ 0) : (c.setS n v).s n = v := by
  simp only [Ctx.setS, Ctx.s, if_neg h]
  exact Vector.getElem_set_self _

theorem ctx_setS_other (c : Ctx) (n m : BitVec 5) (v : Word) (h : m ≠ n) : (c.setS n v).s m = c.s m := by
  unfold Ctx.setS Ctx.s
  by_cases e : n = 0
  · simp [e]
  · simp only [e, if_false]
    split
    · rfl
    · exact Vector.getElem_set_ne _ _ (fun g => h (BitVec.eq_of_toNat_eq g.symm))

end Sys2Proof.Machine
end

