-- ==== Sys2Proof/Laws/Commit.lean ====
section
/-! SUPPORT. The commit of a bundle of one instruction: what `asSlot` answers when the slot neither faults nor holds the bundle, and what the
committed state is for a slot that touches no register's liveness, buffers no store and enters nothing in the window. -/

namespace Sys2Proof.Machine
theorem encodeBundle_header (i : Instr) : (encodeBundle i).extractLsb' 0 40 = 0 := by
  unfold encodeBundle
  split
  · rename_i sl _
    apply BitVec.eq_of_getLsbD_eq
    intro k hk
    rw [BitVec.getLsbD_extractLsb', Nat.zero_add, BitVec.getLsbD_shiftLeft, decide_eq_true (show k < 40 * (sl.index + 1) by omega)]
    simp only [Bool.not_true, Bool.and_false, Bool.false_and, BitVec.ofNat_eq_ofNat, BitVec.getLsbD_zero]
  · rfl

theorem foldFlags_init (l : List Flight) (a : BitVec 5) :
    l.foldl (fun a p => a ||| p.fl) a = a ||| l.foldl (fun a p => a ||| p.fl) 0 := by
  induction l generalizing a with
  | nil => simp
  | cons p l ih => simp only [List.foldl_cons]; rw [ih, ih (0 ||| p.fl)]; simp [BitVec.or_assoc]

theorem foldFlags_split (l : List Flight) (f : Flight → Bool) :
    (l.filter f).foldl (fun a p => a ||| p.fl) 0 ||| (l.filter fun p => !f p).foldl (fun a p => a ||| p.fl) 0
      = l.foldl (fun a p => a ||| p.fl) (0 : BitVec 5) := by
  induction l with
  | nil => simp
  | cons p l ih =>
    rw [List.foldl_cons, foldFlags_init l, ← ih]
    cases h : f p <;> simp [h, foldFlags_init _ p.fl]
    all_goals ac_rfl

theorem landFlags_landAll (c : Ctx) (n : Nat) : (c.landFlags n).landAll.fpc = c.landAll.fpc := by
  simp only [Ctx.landFlags, Ctx.landAll, Ctx.accrue]
  rw [← foldFlags_split c.flight fun p => decide (p.due < n)]
  simp [BitVec.or_assoc, BitVec.shiftLeft_or_distrib]

theorem resolveEnd_next (w : State) (f : Frame) (h : f.after = .next) : resolveEnd w f = f := by
  simp [resolveEnd, h]
theorem resolveEnd_goto (w : State) (f : Frame) (p : Pc) (h : f.after = .goto p) : resolveEnd w f = f := by
  simp [resolveEnd, h]

theorem Header.ofBits_zero : Header.ofBits 0 = Header.plain := by decide

theorem requirementWaits_plain (s : State) : requirementWaits Header.plain s = false := rfl
theorem takeRequest_plain (s : State) : takeRequest Header.plain s = s := rfl

/-- The frame with which the focused context's bundle of one instruction begins. -/
def openFrame (i : Instr) (s : State) : Frame :=
  let cyc := s.ctx.issueCyc (coreAt s s.cur.core).cyc (reads i)
  frameOf (encodeBundle i) cyc (s.ctx.landFlags cyc)

theorem openBundle_one (i : Instr) (s : State) :
    openBundle (encodeBundle i) [i] s = { s with ctx := (openFrame i s).pre, frame := some (openFrame i s) } := by
  simp [openBundle, openFrame, frameOf]

/-- A bundle of one instruction whose slot neither faults nor holds it, and that no owed fault meets, commits. -/
theorem asSlot_commit (i : Instr) (eff : State → State) (s : State) (f : Frame) (hc : s.Calm)
    (hf : (eff (openBundle (encodeBundle i) [i] s)).frame = some f) (hb : f.bits = encodeBundle i) (hfl : f.faults = []) (hs : f.stall = false) (hk : f.ask = none)
    (ha : f.after = .next ∨ ∃ p, f.after = .goto p) :
    asSlot i eff s = .next (commitBundle f Header.plain (eff (openBundle (encodeBundle i) [i] s))) := by
  obtain ⟨h1, h2, h3, h4, -⟩ := hc
  have hr : resolveEnd (eff (openBundle (encodeBundle i) [i] s)) f = f := by
    rcases ha with ha | ⟨p, ha⟩ <;> simp [resolveEnd, ha]
  have ho : owedAt s f Header.plain = none := by
    cases ht : s.ctx.te
    · simp [owedAt, ht]
    · simp [owedAt, h3 ht]
  have ht : (f.after == .tret) = false := by rcases ha with ha | ⟨p, ha⟩ <;> simp [ha]
  simp only [asSlot, h1, closeBundle, hf, hr, hb, encodeBundle_header, Header.ofBits_zero, ht, hfl, slotTrap, ho, hs, hk, requirementWaits_plain]
  simp

theorem regionBreak_calm (i : Instr) (s : State) (f : Frame) (hc : s.Calm) (hp : f.pre = (openFrame i s).pre) (hs : f.storing = false)
    (ha : f.acquire = false) : regionBreak f.pre f = false := by
  have h4 := hc.2.2.2.1
  rw [hp]
  simp only [regionBreak, hs, ha]
  have : (openFrame i s).pre.region = s.ctx.region := rfl
  rw [this]
  cases h : s.ctx.region.shadow <;> simp [h] at h4 ⊢
  omega

theorem banksAfter_none (f : Frame) (c : Ctx) (cyc : Nat) (h1 : f.wrv = 0) (h2 : f.readv = 0) (h3 : f.pre.livev = c.livev) :
    banksAfter f c c.livev cyc = c.vbank := by
  apply Vector.ext
  intro k hk
  simp [banksAfter, h1, h2, h3, bankPart]
  all_goals exact fun _ h h' => absurd h' h

theorem and_ones32 (x : BitVec 32) : x &&& 4294967295#32 = x := BitVec.and_allOnes
theorem and_ones16 (x : BitVec 16) : x &&& 65535#16 = x := BitVec.and_allOnes

theorem liveAfterV_none (f : Frame) (h1 : f.killv = 0) (h2 : f.wrv = 0) (h3 : f.csrv = 0) : liveAfterV f = f.pre.livev := by
  simp [liveAfterV, h1, h2, h3, and_ones32]

theorem liveAfterP_none (f : Frame) (h1 : f.killp = 0) (h2 : f.wrp = 0) (h3 : f.csrp = 0) : liveAfterP f = f.pre.livep ||| 1 := by
  simp [liveAfterP, h1, h2, h3, and_ones16]

theorem accrue_low (x : BitVec 14) (y : BitVec 5) : (x ||| (y.setWidth 14 <<< 9)).setWidth 9 = x.setWidth 9 := by
  apply BitVec.eq_of_getLsbD_eq
  intro k hk
  simp [hk]

/-- The context that a frame's slots leave, as its commit takes it: masks, banks, flags in flight, buffered stores. -/
def Ctx.closed (c : Ctx) (f : Frame) (cyc : Nat) : Ctx :=
  { c with livev := liveAfterV f, livep := liveAfterP f, vbank := banksAfter f c (liveAfterV f) cyc, flight := c.flight ++ f.flight,
           region := { c.region with shadow := some f.pre.shadowOf, stores := c.buffered ++ f.stores } }

/-- The region after a bundle. -/
def Ctx.regionOn (c : Ctx) (f : Frame) : Region :=
  let r : Region := if c.region.shadow.isNone then ⟨f.pre.pc, 0, some f.pre.shadowOf, [], 0⟩ else c.region
  { r with count := r.count + 1, stores := r.stores ++ f.stores, vw := r.vw ||| f.wrv }

theorem commitRegion_quiet (f : Frame) (w : State) (he : f.endsRegion = false) :
    commitRegion f w = { w with ctx := { w.ctx with region := w.ctx.regionOn f } } := by
  simp only [commitRegion, he, Ctx.regionOn, State.onCtx, Bool.false_eq_true, if_false]

theorem breakRegion_none (f : Frame) (s : State) (h : regionBreak f.pre f = false) : breakRegion f s = s := by
  simp only [breakRegion, h, Bool.false_eq_true, if_false]

theorem regionOn_buffered (c : Ctx) (f : Frame) : (c.regionOn f).shadow.isSome = true ∧ (c.regionOn f).stores = c.buffered ++ f.stores := by
  simp only [Ctx.regionOn, Ctx.buffered]
  cases h : c.region.shadow <;> simp [h]

theorem Commits.congr {u v t : State} {pc : Pc} (h : Commits u t pc) (hv : { u with ctx := v.ctx, frame := v.frame } = v)
    (hp : u.ctx.plain = v.ctx.plain) (hl : u.ctx.fpc.setWidth 9 = v.ctx.fpc.setWidth 9) (hf : u.ctx.landAll.fpc = v.ctx.landAll.fpc)
    (hb : u.ctx.buffered = v.ctx.buffered) : Commits v t pc := by
  obtain ⟨h1, h2, h3, h4, h5, h6, h7⟩ := h
  refine ⟨h1, ?_, h3.trans hp, h4, h5.trans hl, h6.trans hf, h7.trans hb⟩
  rw [← hv, ← h2]

/-- A flush point under a condition. -/
def Ctx.flushIf (c : Ctx) (b : Bool) : Ctx := if b then c.flush else c

/-- The banks without the cycles of their last accesses. -/
abbrev noLast (v : Vector VBank 8) : Vector VBank 8 := v.map fun k => { k with last := 0 }

theorem closeRegion_noLast (c : Ctx) (cyc : Nat) : noLast (c.closeRegion cyc).vbank = noLast c.vbank := by
  apply Vector.ext
  intro k hk
  simp only [noLast, Ctx.closeRegion, Vector.getElem_map, Vector.getElem_ofFn]
  split <;> rfl

theorem drainStores_none (s : State) (h : s.ctx.region.stores = []) : drainStores s = s := by
  have : ({ s with ctx := { s.ctx with region := { s.ctx.region with stores := [] } } } : State) = s := by rw [← h]
  simp only [drainStores, this, h, performStores, List.foldl_nil]

/-- What entering the bundle in its region leaves: the region and the cycles of the banks' last accesses alone. -/
theorem commitRegion_shape (f : Frame) (w : State)
    (he : f.endsRegion = true → w.ctx.buffered = [] ∧ f.stores = []) :
    ∃ r v, commitRegion f w = { w with ctx := { w.ctx with region := r, vbank := v } } ∧ noLast v = noLast w.ctx.vbank ∧
      (if r.shadow.isSome then r.stores else []) = w.ctx.buffered ++ f.stores := by
  have hr := regionOn_buffered w.ctx f
  cases h : f.endsRegion
  · refine ⟨_, w.ctx.vbank, commitRegion_quiet f w h, rfl, ?_⟩
    rw [if_pos hr.1, hr.2]
  · obtain ⟨h1, h2⟩ := he h
    have h3 : (w.ctx.regionOn f).stores = [] := by rw [hr.2, h1, h2]; rfl
    refine ⟨Region.none, ({ w.ctx with region := w.ctx.regionOn f }.closeRegion (coreAt w w.cur.core).cyc).vbank, ?_, closeRegion_noLast _ _, ?_⟩
    · have : commitRegion f w = (drainStores { w with ctx := { w.ctx with region := w.ctx.regionOn f } }).onCtx
          fun c => c.closeRegion (coreAt w w.cur.core).cyc := by
        simp only [commitRegion, h, Ctx.regionOn, State.onCtx, if_true]
        rw [drainStores_none]
        · rfl
        · exact h3
      rw [this, drainStores_none _ (by exact h3)]
      rfl
    · rw [h1, h2]; rfl

theorem imbalance_empty (s : State) (x : CtxId) (h : (ctxAt s x).win = []) : imbalance s x = s := by
  simp only [imbalance, h, List.find?_nil]
  split <;> rfl

theorem commitEntry_none (f : Frame) (w : State) (h : f.entry = none) (hw : (f.flushBefore || f.flushAfter) = true → w.ctx.win = []) :
    commitEntry f Header.plain w = w.onCtx fun c => c.flushIf (f.flushBefore || f.flushAfter) := by
  simp only [commitEntry, h, Header.plain, Bool.or_false]
  cases h1 : f.flushBefore <;> cases h2 : f.flushAfter <;> simp only [h1, h2, Bool.or_self, Bool.or_true, Bool.or_false, forall_const] at hw ⊢
  · simp [Ctx.flushIf, State.onCtx]
  all_goals
    simp only [if_true, if_false, Bool.false_eq_true]
    rw [imbalance_empty]
    · simp [Ctx.flushIf, State.onCtx, Ctx.flush, hw]
    · simp [State.onCtx, Ctx.flush, hw, ctxAt]

/-- A bundle of one instruction that neither faults nor waits, and that enters nothing in the window. -/
theorem asSlot_done (i : Instr) (eff : State → State) (s u : State) (f : Frame) (pc : Pc) (hc : s.Calm) (hu : eff (begun i s) = u)
    (hf : u.frame = some f) (hpre : f.pre = (openFrame i s).pre) (hbits : f.bits = encodeBundle i) (hq : f.faults = [] ∧ f.stall = false ∧ f.entry = none ∧ f.ask = none)
    (he : f.endsRegion = true → u.ctx.buffered = [] ∧ f.stores = []) (hw : (f.flushBefore || f.flushAfter) = true → u.ctx.win = [])
    (hb : regionBreak f.pre f = false) (ho : u.ctx.occ = s.ctx.occ) (ha : (f.after = .next ∧ pc = s.ctx.pc + 1) ∨ f.after = .goto pc) :
    ∃ t, asSlot i eff s = .next t ∧
      Commits { u with ctx := (u.ctx.closed f (coreAt u u.cur.core).cyc).flushIf (f.flushBefore || f.flushAfter) } t pc := by
  have ha' : f.after = .next ∨ ∃ p, f.after = .goto p := by
    rcases ha with ⟨h, -⟩ | h
    · exact .inl h
    · exact .inr ⟨_, h⟩
  have hocc : u.ctx.occupied = true := by have := hc.2.1; simp only [Ctx.occupied, ho] at *; exact this
  have hpc : f.pre.pc = s.ctx.pc := by rw [hpre]; rfl
  obtain ⟨hq1, hq2, hq3, hq4⟩ := hq
  have hs := asSlot_commit i eff s f hc (by show (eff (begun i s)).frame = _; rw [hu, hf]) hbits hq1 hq2 hq4 ha'
  refine ⟨_, hs, ?_⟩
  show Commits _ (commitBundle f Header.plain (eff (begun i s))) pc
  rw [hu]
  obtain ⟨r, v, h1, h2, h3⟩ := commitRegion_shape f
    ({ u with frame := none, ctx := commitCtx f u.ctx (coreAt u u.cur.core).cyc } : State) he
  have hcb : commitBundle f Header.plain u = { u with
      frame := none, ctx := { ({ commitCtx f u.ctx (coreAt u u.cur.core).cyc with region := r, vbank := v } : Ctx).flushIf
        (f.flushBefore || f.flushAfter) with pc := pc } } := by
    have h1' : commitRegion f (({ u with frame := none } : State).onCtx fun c => commitCtx f c (coreAt u u.cur.core).cyc) = _ := h1
    have hbr : breakRegion f ({ u with frame := none } : State) = { u with frame := none } := breakRegion_none f _ hb
    simp only [commitBundle, hocc, takeRequest_plain, hbr, h1', Bool.not_true, Bool.false_eq_true, if_false]
    have hce := fun (w : State) (h : w.ctx.win = u.ctx.win) => commitEntry_none f w hq3 fun hh => h.trans (hw hh)
    rw [hce]
    · rcases ha with ⟨h, rfl⟩ | h <;> simp only [commitAfter, h, State.onCtx, hpc] <;> rfl
    · rfl
  rw [hcb]
  have hfl : ∀ (c : Ctx) b, (c.flushIf b).fpc = c.fpc ∧ (c.flushIf b).flight = c.flight ∧ (c.flushIf b).region = c.region := by
    intro c b; cases b <;> exact ⟨rfl, rfl, rfl⟩
  have hfp : ∀ (c : Ctx) (b : Bool) (p : Pc), ({ c.flushIf b with pc := p } : Ctx).landAll.fpc = c.landAll.fpc := by
    intro c b p; cases b <;> rfl
  have hfp' : ∀ (c : Ctx) (b : Bool), (c.flushIf b).landAll.fpc = c.landAll.fpc := by
    intro c b; cases b <;> rfl
  have hbk : noLast v = noLast (banksAfter f u.ctx (liveAfterV f) (coreAt u u.cur.core).cyc) := h2
  refine ⟨rfl, rfl, ?_, rfl, ?_, ?_, ?_⟩
  · show (Ctx.plain { Ctx.flushIf _ _ with pc := pc }) = (Ctx.flushIf _ _).plain
    have hp : ∀ (c d : Ctx) (b : Bool) (p : Pc), c.plain = d.plain → Ctx.plain { c.flushIf b with pc := p } = (d.flushIf b).plain := by
      intro c d b p h
      cases b
      · exact h
      · have hw : c.plain.win = d.plain.win := congrArg (fun c : Ctx => c.win) h
        have hw : c.win = d.win := hw
        have : ∀ e : Ctx, e.flush.plain = { e.plain with flushed := true, win := (e.flush).win } := fun e => rfl
        show (c.flush).plain = (d.flush).plain
        rw [this, this, h]
        simp only [Ctx.flush, hw]
    refine hp _ _ _ _ ?_
    simp only [commitCtx, Ctx.closed, Ctx.plain, Ctx.shiftEff, Ctx.landFlags, Ctx.accrue]
    simp only [noLast] at hbk
    rw [hbk]
  · rw [show ({ Ctx.flushIf _ _ with pc := pc } : Ctx).fpc = (Ctx.flushIf _ _).fpc from rfl, (hfl _ _).1, (hfl _ _).1]
    exact accrue_low _ _
  · rw [hfp, hfp']
    exact landFlags_landAll { u.ctx with flight := u.ctx.flight ++ f.flight } (f.cyc + 1)
  · have hb1 : ∀ (c : Ctx) (b : Bool) (p : Pc), ({ c.flushIf b with pc := p } : Ctx).buffered = c.buffered := by
      intro c b p; cases b <;> rfl
    have hb2 : ∀ (c : Ctx) (b : Bool), (c.flushIf b).buffered = c.buffered := by
      intro c b; cases b <;> rfl
    rw [hb1, hb2]
    show (if r.shadow.isSome then r.stores else []) = _
    rw [h3]; rfl

/-- A slot that touches no vector register and stores nothing. -/
theorem asSlot_noVector (i : Instr) (eff : State → State) (s u : State) (f : Frame) (pc : Pc) (hc : s.Calm) (hu : eff (begun i s) = u)
    (hf : u.frame = some f) (hpre : f.pre = (openFrame i s).pre) (hbits : f.bits = encodeBundle i)
    (hq : f.faults = [] ∧ f.stall = false ∧ f.entry = none ∧ f.ask = none) (hs : f.stores = [] ∧ f.storing = false ∧ f.acquire = false)
    (he : f.endsRegion = true → u.ctx.buffered = []) (hw : (f.flushBefore || f.flushAfter) = true → u.ctx.win = [])
    (hk : f.killv = 0 ∧ f.wrv = 0 ∧ f.readv = 0 ∧ f.csrv = 0)
    (ho : u.ctx.occ = s.ctx.occ) (hv : u.ctx.livev = s.ctx.livev)
    (ha : (f.after = .next ∧ pc = s.ctx.pc + 1) ∨ f.after = .goto pc) :
    ∃ t, asSlot i eff s = .next t ∧
      Commits { u with ctx := { u.ctx with flight := u.ctx.flight ++ f.flight, livep := liveAfterP f }.flushIf (f.flushBefore || f.flushAfter) } t pc := by
  obtain ⟨k1, k3, k5, k6⟩ := hk
  have hb := regionBreak_calm i s f hc hpre hs.2.1 hs.2.2
  obtain ⟨t, ht, hcm⟩ := asSlot_done i eff s u f pc hc hu hf hpre hbits hq (fun h => ⟨he h, hs.1⟩) hw hb ho ha
  have hl : f.pre.livev = u.ctx.livev := by rw [hpre, hv]; rfl
  refine ⟨t, ht, hcm.congr rfl ?_ ?_ ?_ ?_⟩
  · have h1 : liveAfterV f = u.ctx.livev := by rw [liveAfterV_none _ k1 k3 k6, hl]
    show ((Ctx.flushIf _ _).plain) = (Ctx.flushIf _ _).plain
    simp only [Ctx.closed, h1]
    rw [banksAfter_none _ _ _ k3 k5 hl]
    cases (f.flushBefore || f.flushAfter) <;>
      simp only [Ctx.flushIf, Ctx.flush, Ctx.plain, if_true, if_false, Bool.false_eq_true]
  · cases (f.flushBefore || f.flushAfter) <;> rfl
  · cases (f.flushBefore || f.flushAfter) <;> rfl
  · have : (u.ctx.closed f (coreAt u u.cur.core).cyc).buffered = u.ctx.buffered := by
      simp only [Ctx.closed, hs.1, List.append_nil, Ctx.buffered, Option.isSome_some, if_true]
    cases (f.flushBefore || f.flushAfter)
    · exact this
    · exact this

/-- A slot that touches no register's liveness and stores nothing. -/
theorem asSlot_simple (i : Instr) (eff : State → State) (s u : State) (f : Frame) (pc : Pc) (hc : s.Calm) (hu : eff (begun i s) = u)
    (hf : u.frame = some f) (hpre : f.pre = (openFrame i s).pre) (hbits : f.bits = encodeBundle i)
    (hq : f.faults = [] ∧ f.stall = false ∧ f.entry = none ∧ f.ask = none) (hs : f.stores = [] ∧ f.storing = false ∧ f.acquire = false)
    (he : f.endsRegion = true → u.ctx.buffered = []) (hw : (f.flushBefore || f.flushAfter) = true → u.ctx.win = [])
    (hk : f.killv = 0 ∧ f.killp = 0 ∧ f.wrv = 0 ∧ f.wrp = 0 ∧ f.readv = 0 ∧ f.csrv = 0 ∧ f.csrp = 0)
    (ho : u.ctx.occ = s.ctx.occ) (hv : u.ctx.livev = s.ctx.livev) (hp : u.ctx.livep = s.ctx.livep)
    (ha : (f.after = .next ∧ pc = s.ctx.pc + 1) ∨ f.after = .goto pc) :
    ∃ t, asSlot i eff s = .next t ∧
      Commits { u with ctx := { u.ctx with flight := u.ctx.flight ++ f.flight }.flushIf (f.flushBefore || f.flushAfter) } t pc := by
  obtain ⟨k1, k2, k3, k4, k5, k6, k7⟩ := hk
  obtain ⟨t, ht, hcm⟩ := asSlot_noVector i eff s u f pc hc hu hf hpre hbits hq hs he hw ⟨k1, k3, k5, k6⟩ ho hv ha
  have h2 : liveAfterP f = u.ctx.livep ||| 1 := by rw [liveAfterP_none _ k2 k4 k7, hpre, hp]; rfl
  refine ⟨t, ht, hcm.congr rfl ?_ ?_ ?_ ?_⟩
  · show ((Ctx.flushIf _ _).plain) = (Ctx.flushIf _ _).plain
    simp only [h2]
    cases (f.flushBefore || f.flushAfter) <;>
      simp only [Ctx.flushIf, Ctx.flush, Ctx.plain, BitVec.or_assoc, BitVec.or_self, if_true, if_false, Bool.false_eq_true]
  all_goals cases (f.flushBefore || f.flushAfter) <;> rfl

/-! ### Scalar results -/

theorem landFlags_plain (c : Ctx) (n : Nat) : (c.landFlags n).plain = c.plain := rfl

theorem setS_land_plain (c : Ctx) (n : Nat) (d : BitVec 5) (v : Word) : ((c.landFlags n).setS d v).plain = (c.setS d v).plain := by
  unfold Ctx.setS; split <;> rfl

theorem ctx_setS_fpc (c : Ctx) (d : BitVec 5) (v : Word) : (c.setS d v).fpc = c.fpc := by unfold Ctx.setS; split <;> rfl
theorem ctx_setS_flight (c : Ctx) (d : BitVec 5) (v : Word) : (c.setS d v).flight = c.flight := by unfold Ctx.setS; split <;> rfl
theorem ctx_setS_region (c : Ctx) (d : BitVec 5) (v : Word) : (c.setS d v).region = c.region := by unfold Ctx.setS; split <;> rfl
theorem ctx_setS_occ (c : Ctx) (d : BitVec 5) (v : Word) : (c.setS d v).occ = c.occ := by unfold Ctx.setS; split <;> rfl
theorem ctx_setS_livev (c : Ctx) (d : BitVec 5) (v : Word) : (c.setS d v).livev = c.livev := by unfold Ctx.setS; split <;> rfl
theorem ctx_setS_livep (c : Ctx) (d : BitVec 5) (v : Word) : (c.setS d v).livep = c.livep := by unfold Ctx.setS; split <;> rfl

theorem landFlags_low (c : Ctx) (n : Nat) : (c.landFlags n).fpc.setWidth 9 = c.fpc.setWidth 9 := accrue_low _ _

theorem begun_eq (i : Instr) (s : State) : begun i s = { s with ctx := (openFrame i s).pre, frame := some (openFrame i s) } := openBundle_one i s

theorem begun_sv (i : Instr) (s : State) (n : BitVec 5) : (begun i s).sv n = s.ctx.s n := by
  rw [begun_eq]; rfl

theorem openFrame_landAll (i : Instr) (s : State) : (openFrame i s).pre.landAll.fpc = s.ctx.landAll.fpc := landFlags_landAll _ _

/-- A slot that changes its context by `g` alone, where `g` touches no register's liveness, no flag and no buffered store. -/
theorem asSlot_onCtx {i : Instr} {eff : State → State} {s : State} {g : Ctx → Ctx} {a : After} {pc : Pc} (hc : s.Calm)
    (hu : eff (begun i s) = ((begun i s).onCtx g).onFrame fun f => { f with after := a })
    (hg : ∀ n, (g (s.ctx.landFlags n)).plain = (g s.ctx).plain ∧ (g (s.ctx.landFlags n)).fpc = (s.ctx.landFlags n).fpc ∧
      (g (s.ctx.landFlags n)).flight = (s.ctx.landFlags n).flight ∧ (g (s.ctx.landFlags n)).region = s.ctx.region)
    (hs : (g s.ctx).fpc = s.ctx.fpc ∧ (g s.ctx).flight = s.ctx.flight ∧ (g s.ctx).region = s.ctx.region)
    (ho : ∀ n, (g (s.ctx.landFlags n)).occ = s.ctx.occ ∧ (g (s.ctx.landFlags n)).livev = s.ctx.livev ∧ (g (s.ctx.landFlags n)).livep = s.ctx.livep)
    (ha : (a = .next ∧ pc = s.ctx.pc + 1) ∨ a = .goto pc) :
    ∃ t, asSlot i eff s = .next t ∧ Commits (s.onCtx g) t pc := by
  have hu' : eff (begun i s) = { s with ctx := g (openFrame i s).pre, frame := some { openFrame i s with after := a } } := by
    rw [hu, begun_eq]; rfl
  obtain ⟨t, ht, h⟩ := asSlot_simple i eff s _ _ pc hc hu' rfl rfl rfl ⟨rfl, rfl, rfl, rfl⟩ ⟨rfl, rfl, rfl⟩ (by intro h; cases h) (by intro h; cases h)
    ⟨rfl, rfl, rfl, rfl, rfl, rfl, rfl⟩ (ho _).1 (ho _).2.1 (ho _).2.2 ha
  obtain ⟨h1, h2, h3, h4⟩ := hg (s.ctx.issueCyc (coreAt s s.cur.core).cyc (reads i))
  refine ⟨t, ht, h.congr rfl ?_ ?_ ?_ ?_⟩
  · exact h1
  · show (g (s.ctx.landFlags _)).fpc.setWidth 9 = (g s.ctx).fpc.setWidth 9
    rw [h2, hs.1]; exact landFlags_low _ _
  · have hl : (g s.ctx).landAll.fpc = s.ctx.landAll.fpc := by simp only [Ctx.landAll, Ctx.accrue, hs.1, hs.2.1]
    show _ = (g s.ctx).landAll.fpc
    rw [hl, ← openFrame_landAll i s]
    have h2' : (g (openFrame i s).pre).fpc = (openFrame i s).pre.fpc := h2
    have h3' : (g (openFrame i s).pre).flight = (openFrame i s).pre.flight := h3
    show ({ g (openFrame i s).pre with flight := (g (openFrame i s).pre).flight ++ [] } : Ctx).landAll.fpc = _
    simp only [Ctx.landAll, Ctx.accrue, List.append_nil, h2', h3']
  · show (g (s.ctx.landFlags _)).buffered = (g s.ctx).buffered
    simp only [Ctx.buffered, h4, hs.2.2]

theorem scalar_done {i : Instr} {s : State} {sd : BitVec 5} {v : State → Word} {x : Word} (hc : s.Calm)
    (hv : v (begun i s) = x) : ∃ t, scalarOp i sd v s = .next t ∧ Commits (s.setS sd x) t (s.ctx.pc + 1) := by
  subst hv
  exact asSlot_onCtx (g := fun c => c.setS sd (v (begun i s))) (a := .next) hc (by rw [begun_eq]; rfl)
    (fun n => ⟨setS_land_plain _ _ _ _, ctx_setS_fpc _ _ _, ctx_setS_flight _ _ _, ctx_setS_region _ _ _⟩)
    ⟨ctx_setS_fpc _ _ _, ctx_setS_flight _ _ _, ctx_setS_region _ _ _⟩
    (fun n => ⟨ctx_setS_occ _ _ _, ctx_setS_livev _ _ _, ctx_setS_livep _ _ _⟩) (.inl ⟨rfl, rfl⟩)

/-! ### Scalar floating point, causes -/

theorem accrue_landAll (c : Ctx) (fl : BitVec 5) : (c.accrue fl).landAll.fpc = (c.landAll.fpc ||| (fl.setWidth 14 <<< 9)) := by
  simp only [Ctx.accrue, Ctx.landAll, BitVec.or_assoc]
  congr 1; rw [BitVec.or_comm]

/-- A floating-point slot without an enabled flag. -/
theorem fp_done {i : Instr} {s : State} {sl : SlotId} {sd : BitVec 5} {bits lat : Nat} {fl : Fl} {eff : State → State} (hc : s.Calm)
    (he : eff (begun i s) = ((begun i s).setS sd (BitVec.ofNat 64 bits)).fpDone sl lat (.s sd) fl none) (hf : fl &&& s.ctx.en = 0) :
    ∃ t, asSlot i eff s = .next t ∧ Commits ((s.setS sd (BitVec.ofNat 64 bits)).flagged fl) t (s.ctx.pc + 1) := by
  have hen : ((begun i s).setS sd (BitVec.ofNat 64 bits)).src.en = s.ctx.en := by rw [begun_eq]; rfl
  have : ∃ fs : List Flight, fs.foldl (fun a p => a ||| p.fl) 0 = fl ∧ eff (begun i s) = { s with ctx := (openFrame i s).pre.setS sd (BitVec.ofNat 64 bits), frame := some { openFrame i s with flight := fs } } := by
    rw [he, State.fpDone, hen, hf]
    by_cases h0 : fl = 0
    · subst h0
      refine ⟨[], rfl, ?_⟩
      simp [begun_eq, State.setS]; rfl
    · refine ⟨[⟨((begun i s).setS sd (BitVec.ofNat 64 bits)).cyc + lat, .s sd, fl⟩], by simp, ?_⟩
      have h1 : ¬ fl = 0#5 := h0
      simp [h1, begun_eq, State.setS, State.onFrame, openFrame, frameOf]
  obtain ⟨fs, hfs, hu⟩ := this
  obtain ⟨t, ht, h⟩ := asSlot_simple i eff s _ _ (s.ctx.pc + 1) hc hu rfl rfl rfl ⟨rfl, rfl, rfl, rfl⟩ ⟨rfl, rfl, rfl⟩ (by intro h; cases h) (by intro h; cases h)
    ⟨rfl, rfl, rfl, rfl, rfl, rfl, rfl⟩ (ctx_setS_occ _ _ _) (ctx_setS_livev _ _ _) (ctx_setS_livep _ _ _) (.inl ⟨rfl, rfl⟩)
  refine ⟨t, ht, h.congr rfl ?_ ?_ ?_ ?_⟩
  · show ((s.ctx.landFlags _).setS _ _).plain = ((s.ctx.setS _ _).accrue fl).plain
    rw [setS_land_plain]; rfl
  · show ((s.ctx.landFlags _).setS _ _).fpc.setWidth 9 = (((s.ctx.setS _ _).accrue fl).fpc).setWidth 9
    simp only [Ctx.accrue]
    rw [ctx_setS_fpc, ctx_setS_fpc, landFlags_low, accrue_low]
  · have := landFlags_landAll s.ctx (openFrame i s).cyc
    show _ = ((s.ctx.setS _ _).accrue fl).landAll.fpc
    rw [accrue_landAll]
    have h2 : (s.ctx.setS sd (BitVec.ofNat 64 bits)).landAll.fpc = s.ctx.landAll.fpc := by
      simp only [Ctx.landAll, Ctx.accrue, ctx_setS_fpc, ctx_setS_flight]
    rw [h2, ← this]
    simp only [Ctx.flushIf, openFrame, frameOf, Ctx.landAll, Ctx.accrue, ctx_setS_fpc, ctx_setS_flight, List.foldl_append, Bool.or_self, Bool.false_eq_true, if_false]
    rw [foldFlags_init fs, hfs]
    simp only [BitVec.or_assoc, BitVec.setWidth_or, BitVec.shiftLeft_or_distrib]
  · simp only [Ctx.buffered, ctx_setS_region, State.flagged, State.onCtx, State.setS, Ctx.accrue]; rfl

theorem slotTrap_one (sl : SlotId) (t : Trap) : slotTrap [⟨sl, t⟩] =
    some { t with mask := slotBit sl, opnd := (if t.code == cFpException then wordAt t.opnd 0 :: t.opnd.drop 1 else t.opnd) } := by
  simp [slotTrap]

/-- A slot that raises one cause. -/
theorem asSlot_traps {i : Instr} {s : State} {sl : SlotId} {t : Trap} {eff : State → State} {f : Frame} (hc : s.Calm)
    (hf : (eff (begun i s)).frame = some f) (hfa : f.faults = [⟨sl, { t with mask := slotBit sl }⟩])
    (ha : f.after = .next) (hs : f.stores = [] ∧ f.storing = false ∧ f.acquire = false) (hst : f.sticky = [] ∧ f.unissued = false) (ho : t.code = cFpException → t.opnd ≠ []) :
    asSlot i eff s = .next (bundleTrap s { t with mask := slotBit sl }) := by
  have hr : resolveEnd (eff (begun i s)) f = f := by simp [resolveEnd, ha]
  have hbr : regionBreak s.ctx f = false := regionBreak_calm i s { f with pre := (openFrame i s).pre } hc rfl hs.2.1 hs.2.2
  have hf' : (eff (openBundle (encodeBundle i) [i] s)).frame = some f := hf
  have hr' : resolveEnd (eff (openBundle (encodeBundle i) [i] s)) f = f := hr
  have htr : (f.after == .tret) = false := by rw [ha]; rfl
  simp only [asSlot, hc.1, closeBundle, hf', hr', htr, hfa, hbr, hst.1, hst.2, slotTrap_one, unwritten, replaySticky, List.filter_nil, List.foldl_nil, Bool.false_and, Bool.false_eq_true, if_false]
  congr 2
  split
  · rename_i h
    have := ho (by simpa using h)
    cases ht : t.opnd with
    | nil => exact absurd ht this
    | cons a l => simp [wordAt]
  · rfl


/-! ### Predicates -/

theorem begun_pv (i : Instr) (s : State) (n : BitVec 4) : (begun i s).pv n = s.ctx.p n := by
  rw [begun_eq]; rfl

/-- A slot that changes its context by `g` and makes the predicates of `m` live. -/
theorem asSlot_preds {i : Instr} {eff : State → State} {s : State} {g : Ctx → Ctx} {m : BitVec 16} {a : After} {pc : Pc} (hc : s.Calm)
    (hu : eff (begun i s) = ((begun i s).onCtx g).onFrame fun f => { f with after := a, wrp := m })
    (hg : ∀ n, (g (s.ctx.landFlags n)).plain = (g s.ctx).plain ∧ (g (s.ctx.landFlags n)).fpc = (s.ctx.landFlags n).fpc ∧
      (g (s.ctx.landFlags n)).flight = (s.ctx.landFlags n).flight ∧ (g (s.ctx.landFlags n)).region = s.ctx.region)
    (hs : (g s.ctx).fpc = s.ctx.fpc ∧ (g s.ctx).flight = s.ctx.flight ∧ (g s.ctx).region = s.ctx.region)
    (ho : ∀ n, (g (s.ctx.landFlags n)).occ = s.ctx.occ ∧ (g (s.ctx.landFlags n)).livev = s.ctx.livev)
    (ha : (a = .next ∧ pc = s.ctx.pc + 1) ∨ a = .goto pc) :
    ∃ t, asSlot i eff s = .next t ∧ Commits (s.onCtx fun c => { g c with livep := s.ctx.livep ||| m }) t pc := by
  have hu' : eff (begun i s) = { s with ctx := g (openFrame i s).pre, frame := some { openFrame i s with after := a, wrp := m } } := by
    rw [hu, begun_eq]; rfl
  obtain ⟨t, ht, h⟩ := asSlot_noVector i eff s _ _ pc hc hu' rfl rfl rfl ⟨rfl, rfl, rfl, rfl⟩ ⟨rfl, rfl, rfl⟩ (by intro h; cases h) (by intro h; cases h)
    ⟨rfl, rfl, rfl, rfl⟩ (ho _).1 (ho _).2 ha
  obtain ⟨h1, h2, h3, h4⟩ := hg (s.ctx.issueCyc (coreAt s s.cur.core).cyc (reads i))
  have hl : liveAfterP { openFrame i s with after := a, wrp := m } = s.ctx.livep ||| m ||| 1 := by
    simp only [liveAfterP, openFrame, frameOf, Ctx.landFlags, Ctx.accrue]
    simp [and_ones16]
  refine ⟨t, ht, h.congr rfl ?_ ?_ ?_ ?_⟩
  · show Ctx.plain { g (s.ctx.landFlags _) with livep := liveAfterP _ } = Ctx.plain { g s.ctx with livep := s.ctx.livep ||| m }
    rw [hl]
    have e : ∀ (c : Ctx) (l : BitVec 16), Ctx.plain { c with livep := l } = { c.plain with livep := l ||| 1 } := fun _ _ => rfl
    have e2 : s.ctx.livep ||| m ||| 1 ||| 1 = s.ctx.livep ||| m ||| 1 := by simp [BitVec.or_assoc]
    rw [e, e, h1, e2]; rfl
  · show (g (s.ctx.landFlags _)).fpc.setWidth 9 = (g s.ctx).fpc.setWidth 9
    rw [h2, hs.1]; exact landFlags_low _ _
  · have hl : ({ g s.ctx with livep := s.ctx.livep ||| m } : Ctx).landAll.fpc = s.ctx.landAll.fpc := by simp only [Ctx.landAll, Ctx.accrue, hs.1, hs.2.1]
    show _ = ({ g s.ctx with livep := s.ctx.livep ||| m } : Ctx).landAll.fpc
    rw [hl, ← openFrame_landAll i s]
    have h2' : (g (openFrame i s).pre).fpc = (openFrame i s).pre.fpc := h2
    have h3' : (g (openFrame i s).pre).flight = (openFrame i s).pre.flight := h3
    show ({ g (openFrame i s).pre with flight := (g (openFrame i s).pre).flight ++ [] } : Ctx).landAll.fpc = _
    simp only [Ctx.landAll, Ctx.accrue, List.append_nil, h2', h3']
  · show (g (s.ctx.landFlags _)).buffered = (g s.ctx).buffered
    simp only [Ctx.buffered, h4, hs.2.2]

theorem pred_done {i : Instr} {s : State} {pd : BitVec 4} {v : State → PReg} {x : PReg} (hc : s.Calm) (hv : v (begun i s) = x) :
    ∃ t, predOp i pd v s = .next t ∧ Commits (s.onCtx fun c => c.giveP pd x) t (s.ctx.pc + 1) := by
  by_cases h0 : physP s.ctx.prb pd = 0
  · have e : s.onCtx (fun c => c.giveP pd x) = s.onCtx fun c => c := by
      simp only [State.onCtx, Ctx.giveP, h0, if_true]
    rw [e]
    refine asSlot_onCtx (a := .next) hc ?_ (fun n => ⟨rfl, rfl, rfl, rfl⟩) ⟨rfl, rfl, rfl⟩ (fun n => ⟨rfl, rfl, rfl⟩) (.inl ⟨rfl, rfl⟩)
    rw [begun_eq]
    exact if_pos h0
  · have e : s.onCtx (fun c => c.giveP pd x) = s.onCtx fun c =>
        { ({ c with preg := c.preg.set (physP s.ctx.prb pd).toNat x (physP s.ctx.prb pd).isLt } : Ctx) with
          livep := s.ctx.livep ||| oneBit 16 (physP s.ctx.prb pd).toNat } := by
      simp only [State.onCtx, Ctx.giveP, h0, if_false]
    rw [e]
    refine asSlot_preds (a := .next) hc ?_ (fun n => ⟨rfl, rfl, rfl, rfl⟩) ⟨rfl, rfl, rfl⟩ (fun n => ⟨rfl, rfl⟩) (.inl ⟨rfl, rfl⟩)
    have hz : ∀ x : BitVec 16, x = 0 ||| x := by intro x; simp
    rw [← hv, begun_eq, hz (oneBit 16 (physP s.ctx.prb pd).toNat)]
    exact if_neg h0


/-! ### Transfers of control -/

/-- A transfer to a target of the machine. -/
theorem jump_ok {i : Instr} {s : State} {g : Ctx → Ctx} {t : Int} (hc : s.Calm) (eff : State → State)
    (he : eff (begun i s) = ((begun i s).onCtx g).jumpTo t) (h : 0 ≤ t ∧ t < 2 ^ 40)
    (hg : ∀ n, (g (s.ctx.landFlags n)).plain = (g s.ctx).plain ∧ (g (s.ctx.landFlags n)).fpc = (s.ctx.landFlags n).fpc ∧
      (g (s.ctx.landFlags n)).flight = (s.ctx.landFlags n).flight ∧ (g (s.ctx.landFlags n)).region = s.ctx.region)
    (hs : (g s.ctx).fpc = s.ctx.fpc ∧ (g s.ctx).flight = s.ctx.flight ∧ (g s.ctx).region = s.ctx.region)
    (ho : ∀ n, (g (s.ctx.landFlags n)).occ = s.ctx.occ ∧ (g (s.ctx.landFlags n)).livev = s.ctx.livev ∧ (g (s.ctx.landFlags n)).livep = s.ctx.livep) :
    ∃ u, asSlot i eff s = .next u ∧ Commits (s.onCtx g) u (BitVec.ofInt 40 t) := by
  refine asSlot_onCtx (a := .goto (BitVec.ofInt 40 t)) hc ?_ hg hs ho (.inr rfl)
  rw [he, State.jumpTo, if_neg (by simp; omega)]; rfl

/-- A transfer beyond it. -/
theorem jump_bad {i : Instr} {s : State} {g : Ctx → Ctx} {t : Int} (hc : s.Calm) (eff : State → State)
    (he : eff (begun i s) = ((begun i s).onCtx g).jumpTo t) (h : ¬ (0 ≤ t ∧ t < 2 ^ 40)) :
    asSlot i eff s = .next (bundleTrap s { precise cAlignment [BitVec.ofInt 64 t] with mask := slotBit .c }) := by
  have : eff (begun i s) = ((begun i s).onCtx g).raise .c (precise cAlignment [BitVec.ofInt 64 t]) := by
    rw [he, State.jumpTo, if_pos (by simp; omega)]
  exact asSlot_traps (f := { openFrame i s with faults := [⟨.c, { precise cAlignment [BitVec.ofInt 64 t] with mask := slotBit .c }⟩] }) hc
    (by rw [this, begun_eq]; rfl) rfl rfl ⟨rfl, rfl, rfl⟩ ⟨rfl, rfl⟩ (by intro h; cases h)

theorem begun_src (i : Instr) (s : State) : (begun i s).src = (openFrame i s).pre := by rw [begun_eq]; rfl

end Sys2Proof.Machine
end

