-- ==== Sys2Proof/Laws/Elements.lean ====
section
/-! SUPPORT. Elements of a vector's number: packing and reading back, the low part replaced, and what `mergeElems` gathers. -/

namespace Sys2Proof.Machine

theorem packElems_lt (w : Nat) (l : List Nat) : packElems w l < 2 ^ (w * l.length) := by
  induction l with
  | nil => simp [packElems]
  | cons a t ih =>
    have h := Nat.mod_lt a (show 2 ^ w > 0 from Nat.two_pow_pos w)
    simp only [packElems, List.length_cons, Nat.mul_add, Nat.mul_one, Nat.pow_add]
    have : 2 ^ w * packElems w t + 2 ^ w ≤ 2 ^ w * 2 ^ (w * t.length) := by
      rw [← Nat.mul_succ]; exact Nat.mul_le_mul_left _ ih
    rw [Nat.mul_comm (2 ^ (w * t.length))]; omega

theorem elemAt_packElems (w : Nat) (l : List Nat) (j : Nat) : elemAt (packElems w l) w j = l.getD j 0 % 2 ^ w := by
  induction l generalizing j with
  | nil => simp [packElems, elemAt]
  | cons a t ih =>
    have hp : 2 ^ w > 0 := Nat.two_pow_pos w
    cases j with
    | zero =>
      simp only [elemAt, packElems, Nat.mul_zero, Nat.pow_zero, Nat.div_one, List.getD_cons_zero, Nat.add_mul_mod_self_left, Nat.mod_mod]
    | succ j =>
      have h1 : (a % 2 ^ w + 2 ^ w * packElems w t) / 2 ^ (w * (j + 1)) = packElems w t / 2 ^ (w * j) := by
        rw [Nat.mul_add, Nat.mul_one, Nat.add_comm (w * j), Nat.pow_add, ← Nat.div_div_eq_div_mul, Nat.add_mul_div_left _ _ hp,
          Nat.div_eq_of_lt (Nat.mod_lt a hp), Nat.zero_add]
      simp only [elemAt, packElems, h1, List.getD_cons_succ]
      exact ih j

theorem putLow_toNat (old : VReg) (W v : Nat) (hW : W ≤ 1024) : (putLow old W v).toNat = old.toNat / 2 ^ W * 2 ^ W + v % 2 ^ W := by
  have hp : 2 ^ W > 0 := Nat.two_pow_pos W
  have h2 := Nat.mod_lt v hp
  have ho := old.isLt
  have h3 : 2 ^ (1024 : Nat) = 2 ^ (1024 - W) * 2 ^ W := by rw [← Nat.pow_add, Nat.sub_add_cancel hW]
  have h4 : old.toNat / 2 ^ W < 2 ^ (1024 - W) := by
    apply Nat.div_lt_of_lt_mul
    rw [Nat.mul_comm, ← h3]; exact ho
  simp only [putLow, BitVec.toNat_ofNat]
  apply Nat.mod_eq_of_lt
  rw [h3]
  calc old.toNat / 2 ^ W * 2 ^ W + v % 2 ^ W < old.toNat / 2 ^ W * 2 ^ W + 2 ^ W := by omega
    _ = (old.toNat / 2 ^ W + 1) * 2 ^ W := by rw [Nat.add_mul, Nat.one_mul]
    _ ≤ _ := Nat.mul_le_mul_right _ h4

theorem putLow_high (old : VReg) (W v : Nat) (hW : W ≤ 1024) : (putLow old W v).toNat / 2 ^ W = old.toNat / 2 ^ W := by
  have hp : 2 ^ W > 0 := Nat.two_pow_pos W
  rw [putLow_toNat old W v hW, Nat.add_comm, Nat.add_mul_div_right _ _ hp, Nat.div_eq_of_lt (Nat.mod_lt v hp), Nat.zero_add]

/-- The bits past the last packed element are zero. -/
theorem putLow_zero (old : VReg) (W w : Nat) (l : List Nat) (hW : W ≤ 1024) (k : Nat) (h1 : w * l.length ≤ k) (h2 : k < W) :
    (putLow old W (packElems w l)).getLsbD k = false := by
  have hl : packElems w l < 2 ^ k := Nat.lt_of_lt_of_le (packElems_lt w l) (Nat.pow_le_pow_right (by decide) h1)
  rw [← BitVec.testBit_toNat, putLow_toNat old W _ hW, Nat.mul_comm, Nat.testBit_two_pow_mul_add _ (Nat.mod_lt _ (Nat.two_pow_pos W)), if_pos h2,
    Nat.testBit_mod_two_pow, Nat.testBit_lt_two_pow hl]
  simp

theorem elemAt_congr {a b w j W : Nat} (h : a % 2 ^ W = b % 2 ^ W) (hj : w * (j + 1) ≤ W) : elemAt a w j = elemAt b w j := by
  have key : ∀ x, elemAt x w j = x % 2 ^ W / 2 ^ (w * j) % 2 ^ w := by
    intro x
    have e : 2 ^ W = 2 ^ (w * j) * 2 ^ (W - w * j) := by rw [← Nat.pow_add]; congr 1; rw [Nat.mul_add] at hj; omega
    have hd : 2 ^ w ∣ 2 ^ (W - w * j) := Nat.pow_dvd_pow 2 (by rw [Nat.mul_add, Nat.mul_one] at hj; omega)
    rw [elemAt, e, Nat.mod_mul_right_div_self, Nat.mod_mod_of_dvd _ hd]
  rw [key a, key b, h]

theorem elemAt_putLow (old : VReg) (W v w j : Nat) (hW : W ≤ 1024) (hj : w * (j + 1) ≤ W) : elemAt (putLow old W v).toNat w j = elemAt v w j := by
  apply elemAt_congr (W := W) _ hj
  rw [putLow_toNat old W v hW, Nat.mul_comm, Nat.mul_add_mod, Nat.mod_mod]

/-- The flags of the active elements below n. -/
theorem fold_or (l : List Nat) (act : Nat → Bool) (g : Nat → Fl) (a : Fl) :
    l.foldl (fun x j => if act j then x ||| g j else x) a = a ||| l.foldr (fun j x => if act j then g j ||| x else x) 0 := by
  induction l generalizing a with
  | nil => simp
  | cons k t ih =>
    rw [List.foldl_cons, ih]
    by_cases h : act k = true
    · simp [h, BitVec.or_assoc]
    · simp [h]

/-- What the merge gathers, over any list of indexes. -/
theorem merge_parts (l : List Nat) (act : Nat → Bool) (f : Nat → Res) (e : Nat → Nat) :
    l.foldr (fun j r => if act j then (⟨(f j).bits :: r.elems, (f j).fl ||| r.fl, if (f j).fl != 0 then some j else r.low⟩ : ElemsRes)
      else ⟨e j :: r.elems, r.fl, r.low⟩) ⟨[], 0, none⟩ =
    ⟨l.map fun j => if act j then (f j).bits else e j, l.foldl (fun x j => if act j then x ||| (f j).fl else x) 0,
      l.find? fun j => act j && (f j).fl != 0⟩ := by
  induction l with
  | nil => rfl
  | cons k t ih =>
    rw [List.foldr_cons, ih, List.foldl_cons, fold_or t act _ (if act k = true then _ else _), fold_or t act _ 0]
    by_cases h : act k = true
    · by_cases h2 : (f k).fl = 0
      · simp [h, h2]
      · have h2 : ¬ (f k).fl = 0#5 := h2
        simp [h, h2, List.find?_cons]
    · simp [h]

end Sys2Proof.Machine
end

