-- ==== Sys2Proof/Laws/Forms.lean ====
section
/-! SUPPORT. The operand formats: reading back the fields that a format's bits were made of (spec/03 R51). -/

namespace Sys2Proof

/-! ### One field of 32 bits -/

theorem field_same {w : Nat} (x : BitVec w) (a : Nat) (h : a + w ≤ 32) : ((x.setWidth 32) <<< a).extractLsb' a w = x := by
  apply BitVec.eq_of_getLsbD_eq
  intro k hk
  simp [hk, show a + k < 32 by omega]

theorem field_low {w : Nat} (x : BitVec w) (h : w ≤ 32) : (x.setWidth 32).extractLsb' 0 w = x := by
  apply BitVec.eq_of_getLsbD_eq
  intro k hk
  simp [hk, show k < 32 by omega]

theorem field_other {w : Nat} (x : BitVec w) (a b n : Nat) (h : a + w ≤ b ∨ b + n ≤ a) : ((x.setWidth 32) <<< a).extractLsb' b n = 0 := by
  apply BitVec.eq_of_getLsbD_eq
  intro k hk
  rcases h with h | h
  · simp [hk, BitVec.getLsbD_of_ge x (b + k - a) (by omega)]
  · simp [hk, show b + k < a by omega]

theorem field_above {w : Nat} (x : BitVec w) (b n : Nat) (h : w ≤ b) : (x.setWidth 32).extractLsb' b n = 0 := by
  apply BitVec.eq_of_getLsbD_eq
  intro k hk
  simp [hk, BitVec.getLsbD_of_ge x (b + k) (by omega)]

theorem field_or {w : Nat} (x y : BitVec w) (b n : Nat) : (x ||| y).extractLsb' b n = x.extractLsb' b n ||| y.extractLsb' b n := by
  apply BitVec.eq_of_getLsbD_eq
  intro k hk
  simp [hk]

/-! ### The formats -/

set_option linter.unusedSimpArgs false in
theorem RR.ofBits_bits (o : RR) : RR.ofBits o.bits = o := by
  cases o
  simp (disch := omega) [RR.ofBits, RR.bits, field_same, field_low, field_other, field_above, field_or]

set_option linter.unusedSimpArgs false in
theorem RI.ofBits_bits (o : RI) : RI.ofBits o.bits = o := by
  cases o
  simp (disch := omega) [RI.ofBits, RI.bits, field_same, field_low, field_other, field_above, field_or]

set_option linter.unusedSimpArgs false in
theorem MI.ofBits_bits (o : MI) : MI.ofBits o.bits = o := by
  cases o
  simp (disch := omega) [MI.ofBits, MI.bits, field_same, field_low, field_other, field_above, field_or]

set_option linter.unusedSimpArgs false in
theorem MK.ofBits_bits (o : MK) : MK.ofBits o.bits = o := by
  cases o
  simp (disch := omega) [MK.ofBits, MK.bits, field_same, field_low, field_other, field_above, field_or]

set_option linter.unusedSimpArgs false in
theorem JO.ofBits_bits (o : JO) : JO.ofBits o.bits = o := by
  cases o
  simp (disch := omega) [JO.ofBits, JO.bits, field_same, field_low, field_other, field_above, field_or]

set_option linter.unusedSimpArgs false in
theorem BC.ofBits_bits (o : BC) : BC.ofBits o.bits = o := by
  cases o
  simp (disch := omega) [BC.ofBits, BC.bits, field_same, field_low, field_other, field_above, field_or]

set_option linter.unusedSimpArgs false in
theorem JR.ofBits_bits (o : JR) : JR.ofBits o.bits = o := by
  cases o
  simp (disch := omega) [JR.ofBits, JR.bits, field_same, field_low, field_other, field_above, field_or]

set_option linter.unusedSimpArgs false in
theorem LI.ofBits_bits (o : LI) : LI.ofBits o.bits = o := by
  cases o
  simp (disch := omega) [LI.ofBits, LI.bits, field_same, field_low, field_other, field_above, field_or]

set_option linter.unusedSimpArgs false in
theorem SR.ofBits_bits (o : SR) : SR.ofBits o.bits = o := by
  cases o
  simp (disch := omega) [SR.ofBits, SR.bits, field_same, field_low, field_other, field_above, field_or]

set_option linter.unusedSimpArgs false in
theorem TC.ofBits_bits (o : TC) : TC.ofBits o.bits = o := by
  cases o
  simp (disch := omega) [TC.ofBits, TC.bits, field_same, field_low, field_other, field_above, field_or]

set_option linter.unusedSimpArgs false in
theorem CR.ofBits_bits (o : CR) : CR.ofBits o.bits = o := by
  cases o
  simp (disch := omega) [CR.ofBits, CR.bits, field_same, field_low, field_other, field_above, field_or]

set_option linter.unusedSimpArgs false in
theorem SY.ofBits_bits (o : SY) : SY.ofBits o.bits = o := by
  cases o
  simp (disch := omega) [SY.ofBits, SY.bits, field_same, field_low, field_other, field_above, field_or]

set_option linter.unusedSimpArgs false in
theorem PR.ofBits_bits (o : PR) : PR.ofBits o.bits = o := by
  cases o
  simp (disch := omega) [PR.ofBits, PR.bits, field_same, field_low, field_other, field_above, field_or]

set_option linter.unusedSimpArgs false in
theorem LS.ofBits_bits (o : LS) : LS.ofBits o.bits = o := by
  cases o
  simp (disch := omega) [LS.ofBits, LS.bits, field_same, field_low, field_other, field_above, field_or]

set_option linter.unusedSimpArgs false in
theorem AT.ofBits_bits (o : AT) : AT.ofBits o.bits = o := by
  cases o
  simp (disch := omega) [AT.ofBits, AT.bits, field_same, field_low, field_other, field_above, field_or]

set_option linter.unusedSimpArgs false in
theorem VT.ofBits_bits (o : VT) : VT.ofBits o.bits = o := by
  cases o
  simp (disch := omega) [VT.ofBits, VT.bits, field_same, field_low, field_other, field_above, field_or]

set_option linter.unusedSimpArgs false in
theorem VE.ofBits_bits (o : VE) : VE.ofBits o.bits = o := by
  cases o
  simp (disch := omega) [VE.ofBits, VE.bits, field_same, field_low, field_other, field_above, field_or]

set_option linter.unusedSimpArgs false in
theorem XB.ofBits_bits (o : XB) : XB.ofBits o.bits = o := by
  cases o
  simp (disch := omega) [XB.ofBits, XB.bits, field_same, field_low, field_other, field_above, field_or]

set_option linter.unusedSimpArgs false in
theorem MM.ofBits_bits (o : MM) : MM.ofBits o.bits = o := by
  cases o
  simp (disch := omega) [MM.ofBits, MM.bits, field_same, field_low, field_other, field_above, field_or]

set_option linter.unusedSimpArgs false in
theorem TM.ofBits_bits (o : TM) : TM.ofBits o.bits = o := by
  cases o
  simp (disch := omega) [TM.ofBits, TM.bits, field_same, field_low, field_other, field_above, field_or]

set_option linter.unusedSimpArgs false in
theorem TA.ofBits_bits (o : TA) : TA.ofBits o.bits = o := by
  cases o
  simp (disch := omega) [TA.ofBits, TA.bits, field_same, field_low, field_other, field_above, field_or]

set_option linter.unusedSimpArgs false in
theorem TX.ofBits_bits (o : TX) : TX.ofBits o.bits = o := by
  cases o
  simp (disch := omega) [TX.ofBits, TX.bits, field_same, field_low, field_other, field_above, field_or]

set_option linter.unusedSimpArgs false in
theorem TQ.ofBits_bits (o : TQ) : TQ.ofBits o.bits = o := by
  cases o
  simp (disch := omega) [TQ.ofBits, TQ.bits, field_same, field_low, field_other, field_above, field_or]

set_option linter.unusedSimpArgs false in
theorem YF.ofBits_bits (o : YF) : YF.ofBits o.bits = o := by
  cases o
  simp (disch := omega) [YF.ofBits, YF.bits, field_same, field_low, field_other, field_above, field_or]

/-- The field that selects among the instructions of one opcode. -/
theorem SY.fn_of_bits (o : SY) : o.bits.extractLsb' 8 4 = o.fn := congrArg SY.fn o.ofBits_bits

theorem XB.imm_of_bits (o : XB) : o.bits.extractLsb' 0 11 = o.imm := congrArg XB.imm o.ofBits_bits

theorem extract_extract (b : BitVec 32) (a m n k : Nat) (h : n + k ≤ m) : b.extractLsb' (a + n) k = (b.extractLsb' a m).extractLsb' n k := by
  apply BitVec.eq_of_getLsbD_eq
  intro j hj
  simp [hj, show n + j < m by omega, Nat.add_assoc]

theorem XB.sel_of_bits (o : XB) : o.bits.extractLsb' 0 1 = o.imm.extractLsb' 0 1 := by
  rw [extract_extract _ 0 11 0 1 (by omega), o.imm_of_bits]

theorem TX.fn_of_bits (o : TX) : o.bits.extractLsb' 0 9 = o.fn := congrArg TX.fn o.ofBits_bits

theorem TX.sel_of_bits (o : TX) : o.bits.extractLsb' 7 2 = o.fn.extractLsb' 7 2 := by
  rw [extract_extract _ 0 9 7 2 (by omega), o.fn_of_bits]

theorem YF.rt_of_bits (o : YF) : o.bits.extractLsb' 16 1 = o.rt := congrArg YF.rt o.ofBits_bits

end Sys2Proof
end

