-- ==== Sys2Proof/Laws/Enter.lean ====
section
/-! SUPPORT. A bundle of one T-slot instruction that enters the window: what `asSlot` answers when no rule is loaded and the window is empty. -/

namespace Sys2Proof.Machine

/-- What entering the window does to a context, apart from its region, flags and pc. -/
structure Ctx.Entering (g : Ctx → Ctx) : Prop where
  plain : ∀ c d : Ctx, c.plain = d.plain → (g c).plain = (g d).plain
  fpc : ∀ c, (g c).fpc = c.fpc
  flight : ∀ c, (g c).flight = c.flight
  region : ∀ c, (g c).region = c.region
  pc : ∀ (c : Ctx) (p : Pc), ({ g c with pc := p } : Ctx).plain = (g c).plain

/-- A bundle of one instruction whose entry changes the context by `g` at its commit. -/
theorem asSlot_entered (i : Instr) (eff : State → State) (s u : State) (f : Frame) (g : Ctx → Ctx) (hc : s.Calm) (hu : eff (begun i s) = u)
    (hf : u.frame = some f) (hpre : f.pre = (openFrame i s).pre) (hbits : f.bits = encodeBundle i) (hq : f.faults = [] ∧ f.stall = false ∧ f.ask = none)
    (he : u.ctx.buffered = [] ∧ f.stores = [] ∧ f.storing = false ∧ f.acquire = false) (ho : u.ctx.occ = s.ctx.occ) (ha : f.after = .next) (hg : Ctx.Entering g)
    (hent : ∀ c : Ctx, c.win = u.ctx.win → commitEntry f Header.plain { u with frame := none, ctx := c } = { u with frame := none, ctx := g c }) :
    ∃ t, asSlot i eff s = .next t ∧ Commits { u with ctx := g (u.ctx.closed f (coreAt u u.cur.core).cyc) } t (s.ctx.pc + 1) := by
  have hocc : u.ctx.occupied = true := by have := hc.2.1; simp only [Ctx.occupied, ho] at *; exact this
  have hpc : f.pre.pc = s.ctx.pc := by rw [hpre]; rfl
  have hb := regionBreak_calm i s f hc hpre he.2.2.1 he.2.2.2
  have hs := asSlot_commit i eff s f hc (by show (eff (begun i s)).frame = _; rw [hu, hf]) hbits hq.1 hq.2.1 hq.2.2 (.inl ha)
  refine ⟨_, hs, ?_⟩
  show Commits _ (commitBundle f Header.plain (eff (begun i s))) _
  rw [hu]
  obtain ⟨r, v, h1, h2, h3⟩ := commitRegion_shape f
    ({ u with frame := none, ctx := commitCtx f u.ctx (coreAt u u.cur.core).cyc } : State) (fun _ => ⟨he.1, he.2.1⟩)
  have hcb : commitBundle f Header.plain u = { u with
      frame := none, ctx := { g { commitCtx f u.ctx (coreAt u u.cur.core).cyc with region := r, vbank := v } with pc := s.ctx.pc + 1 } } := by
    have h1' : commitRegion f (({ u with frame := none } : State).onCtx fun c => commitCtx f c (coreAt u u.cur.core).cyc) = _ := h1
    have hbr : breakRegion f ({ u with frame := none } : State) = { u with frame := none } := breakRegion_none f _ hb
    simp only [commitBundle, hocc, takeRequest_plain, hbr, h1', Bool.not_true, Bool.false_eq_true, if_false]
    have := hent { commitCtx f u.ctx (coreAt u u.cur.core).cyc with region := r, vbank := v } rfl
    rw [this]
    simp only [commitAfter, ha, State.onCtx, hpc]
  rw [hcb]
  have hl : ∀ (c : Ctx) (p : Pc), ({ g c with pc := p } : Ctx).landAll.fpc = c.landAll.fpc := by
    intro c p; simp only [Ctx.landAll, Ctx.accrue, hg.fpc, hg.flight]
  have hl' : ∀ c : Ctx, (g c).landAll.fpc = c.landAll.fpc := by
    intro c; simp only [Ctx.landAll, Ctx.accrue, hg.fpc, hg.flight]
  refine ⟨rfl, rfl, ?_, rfl, ?_, ?_, ?_⟩
  · show (Ctx.plain { g _ with pc := _ }) = (g _).plain
    rw [hg.pc]
    refine hg.plain _ _ ?_
    have hbk : noLast v = noLast (banksAfter f u.ctx (liveAfterV f) (coreAt u u.cur.core).cyc) := h2
    simp only [commitCtx, Ctx.closed, Ctx.plain, Ctx.shiftEff, Ctx.landFlags, Ctx.accrue]
    simp only [noLast] at hbk
    rw [hbk]
  · show (g _).fpc.setWidth 9 = (g _).fpc.setWidth 9
    rw [hg.fpc, hg.fpc]
    exact accrue_low _ _
  · rw [hl, hl']
    exact landFlags_landAll { u.ctx with flight := u.ctx.flight ++ f.flight } (f.cyc + 1)
  · have hb1 : ∀ (c : Ctx) (p : Pc), ({ g c with pc := p } : Ctx).buffered = c.buffered := by
      intro c p; simp only [Ctx.buffered, hg.region]
    have hb2 : ∀ c : Ctx, (g c).buffered = c.buffered := by
      intro c; simp only [Ctx.buffered, hg.region]
    rw [hb1, hb2]
    show (if r.shadow.isSome then r.stores else []) = _
    rw [h3]; rfl

/-- A context whose window gains its only entry. -/
def Ctx.enter (cyc n : Nat) (e : Entry) (dl : Bool) (c : Ctx) : Ctx := { c with win := [e], nextEntry := n, headAt := cyc, flushed := c.flushed || dl }

theorem Ctx.enter_entering (cyc n : Nat) (e : Entry) (dl : Bool) : Ctx.Entering (Ctx.enter cyc n e dl) where
  plain := by
    intro c d h
    have : ∀ c : Ctx, (Ctx.enter cyc n e dl c).plain = { c.plain with win := [e], nextEntry := n, headAt := cyc, flushed := c.plain.flushed || dl } := fun _ => rfl
    rw [this, this, h]
  fpc := fun _ => rfl
  flight := fun _ => rfl
  region := fun _ => rfl
  pc := fun _ _ => rfl

theorem findMatch_none (s : State) (x : CtxId) (win : List Entry) (e : Entry) (h : (coreAt s x.core).rules = []) : findMatch s x win e = none := by
  simp only [findMatch, h]; rfl

theorem holdable_none (s : State) (x : CtxId) (e : Entry) (h : (coreAt s x.core).rules = []) : holdable s x e = false := by
  simp [holdable, h]

theorem modCtx_cur (s : State) (f : Ctx → Ctx) : modCtx s s.cur f = s.onCtx f := by
  simp [modCtx, putCtx, ctxAt, State.onCtx]

/-- An entry that is neither an MMA's nor a TSQLD's enters an empty window without rules. -/
theorem enterWindow_plain (s : State) (e : Entry) (hw : s.ctx.win = []) (hr : (coreAt s s.cur.core).rules = []) (hop : e.op ≠ 0x10 ∧ e.op ≠ 0x0D)
    (hst : e.st = .pending) : enterWindow s s.cur e = s.onCtx (Ctx.enter s.coreCyc (e.n + 1) e false) := by
  have h1 : (e.op == 0x0D) = false := by simp [hop.2]
  have h2 : chargeEntry s s.cur e = (s, e) := by simp [chargeEntry, hop.1]
  have h3 : releaseHeld s s.cur = s := by
    simp only [releaseHeld, modCtx_cur, State.onCtx, hw, List.map_nil]
    rw [← hw]
  have hcur : ctxAt s s.cur = s.ctx := by simp [ctxAt]
  simp only [enterWindow, h2, h1, Bool.false_eq_true, if_false, hcur, findMatch_none s s.cur _ _ hr, h3, modCtx_cur, holdable_none s s.cur _ hr,
    Bool.false_and]
  have h4 : ({ e with st := .pending } : Entry) = e := by rw [← hst]
  have h5 : s.ctx.setWin (s.ctx.win ++ [e]) (coreAt s s.cur.core).cyc = { s.ctx with win := [e], headAt := s.coreCyc } := by
    simp [Ctx.setWin, hw, State.coreCyc]
  simp only [State.onCtx, Ctx.enter, Bool.or_false, h4, h5]

theorem imbalance_entry (s : State) (e : Entry) (hw : s.ctx.win = [e]) (hop : e.op ≠ 0x10) : imbalance s s.cur = s := by
  have h : mmaWaits s s.cur e = false := by simp [mmaWaits, hop]
  simp only [imbalance, ctxAt, if_true, hw, List.find?_cons, h, List.find?_nil]
  split <;> rfl

/-- What the commit of a bundle with a T entry leaves, when the window was empty and no rule is loaded. -/
theorem commitEntry_some (f : Frame) (w : State) (e : Entry) (h : f.entry = some e) (hf : f.flushBefore = false ∧ f.flushAfter = false)
    (hw : w.ctx.win = []) (hr : (coreAt w w.cur.core).rules = []) (hop : e.op ≠ 0x10 ∧ e.op ≠ 0x0D) (hst : e.st = .pending) (hsh : e.shut = false) :
    commitEntry f Header.plain w = w.onCtx (Ctx.enter w.coreCyc (e.n + 1) { e with shut := e.dl.isSome } e.dl.isSome) := by
  simp only [commitEntry, h, hf.1, hf.2, Header.plain, Bool.false_or]
  cases hd : e.dl.isSome
  · simp only [Bool.false_eq_true, if_false, Bool.or_self]
    rw [enterWindow_plain w e hw hr hop hst]
    congr 2
    rw [← hsh]
  · simp only [if_true, Bool.or_self]
    have h1 : (w.onCtx Ctx.flush).ctx.win = [] := by simp [State.onCtx, Ctx.flush, hw]
    have h2 := enterWindow_plain (w.onCtx Ctx.flush) e h1 hr hop hst
    rw [h2]
    rw [imbalance_entry _ { e with shut := true } ?_ hop.1]
    · simp only [State.onCtx, Ctx.enter, Ctx.flush, hst, List.map_cons, List.map_nil, Bool.or_true]
      rfl
    · simp only [State.onCtx, Ctx.enter, Ctx.flush, hst, List.map_cons, List.map_nil]

/-! ### The slot of a bundle of one instruction -/

/-- The slot holds the instruction's 40 bits (R47). -/
theorem slotBits_encode (i : Instr) (sl : SlotId) (h : i.slot = some sl) : slotBits (encodeBundle i) sl = encode i := by
  unfold slotBits encodeBundle
  rw [h]
  show BitVec.extractLsb' _ _ ((encode i).setWidth 320 <<< (40 * (sl.index + 1))) = _
  apply BitVec.eq_of_getLsbD_eq
  intro k hk
  have : sl.index + 1 ≤ 7 := by cases sl <;> decide
  rw [BitVec.getLsbD_extractLsb', BitVec.getLsbD_shiftLeft, BitVec.getLsbD_setWidth, decide_eq_true hk, decide_eq_true (show 40 * (sl.index + 1) + k < 320 by omega),
    decide_eq_false (show ¬ 40 * (sl.index + 1) + k < 40 * (sl.index + 1) by omega), Nat.add_sub_cancel_left, decide_eq_true (show k < 320 by omega)]
  simp

theorem begun_slotVal (i : Instr) (s : State) (h : i.slot = some .t) : (begun i s).slotVal .t = encode i := by
  rw [begun_eq]; exact slotBits_encode i .t h

theorem slot_field (i : Instr) (a n : Nat) (h : a + n ≤ 32) : (encode i).extractLsb' a n = i.operBits.extractLsb' a n := by
  apply BitVec.eq_of_getLsbD_eq
  intro k hk
  rw [BitVec.getLsbD_extractLsb', BitVec.getLsbD_extractLsb', encode, BitVec.getLsbD_append, if_pos (show a + k < 32 by omega)]

theorem slot_op (i : Instr) : (encode i).extractLsb' 32 8 = i.opcode := by
  apply BitVec.eq_of_getLsbD_eq
  intro k hk
  rw [BitVec.getLsbD_extractLsb', encode, BitVec.getLsbD_append, if_neg (show ¬ 32 + k < 32 by omega), decide_eq_true hk, Nat.add_sub_cancel_left]
  rfl

theorem begun_opnd (i : Instr) (s : State) (hf : s.frame = none) (h : BitVec 5) : (begun i s).opnd h = s.opnd h := by
  rw [begun_eq]
  simp only [State.opnd, State.tileOf, State.src, hf]
  rfl

theorem begun_refOf (i : Instr) (s : State) (hf : s.frame = none) (h : BitVec 5) : (begun i s).refOf h = s.refOf h := by
  rw [begun_eq]
  simp only [State.refOf, State.src, hf]
  rfl


theorem Ctx.Entering.landAll {g : Ctx → Ctx} (hg : Ctx.Entering g) (c : Ctx) : (g c).landAll.fpc = c.landAll.fpc := by
  simp only [Ctx.landAll, Ctx.accrue, hg.fpc, hg.flight]

theorem Ctx.Entering.buffered {g : Ctx → Ctx} (hg : Ctx.Entering g) (c : Ctx) : (g c).buffered = c.buffered := by
  simp only [Ctx.buffered, hg.region]

/-- A frame whose slots touched no register's liveness, no flag and no memory. -/
structure Frame.Quiet (f : Frame) : Prop where
  kills : f.killv = 0 ∧ f.killp = 0
  writes : f.wrv = 0 ∧ f.wrp = 0
  reads : f.readv = 0
  csrs : f.csrv = 0 ∧ f.csrp = 0
  flight : f.flight = []
  stores : f.stores = []

theorem closed_plain (i : Instr) (s : State) (f : Frame) (n : Nat) (hp : f.pre = (openFrame i s).pre) (hq : f.Quiet) :
    ((openFrame i s).pre.closed f n).plain = s.ctx.plain := by
  have h1 : liveAfterV f = s.ctx.livev := by rw [liveAfterV_none _ hq.kills.1 hq.writes.1 hq.csrs.1, hp]; rfl
  have h2 : liveAfterP f = s.ctx.livep ||| 1 := by rw [liveAfterP_none _ hq.kills.2 hq.writes.2 hq.csrs.2, hp]; rfl
  have h3 : banksAfter f (openFrame i s).pre s.ctx.livev n = s.ctx.vbank := banksAfter_none f (openFrame i s).pre n hq.writes.1 hq.reads (by rw [hp])
  simp only [Ctx.closed, h1, h2, h3, Ctx.plain, BitVec.or_assoc, BitVec.or_self]
  rfl

theorem closed_landAll (i : Instr) (s : State) (f : Frame) (n : Nat) (hq : f.Quiet) :
    ((openFrame i s).pre.closed f n).landAll.fpc = s.ctx.landAll.fpc := by
  refine Eq.trans ?_ (openFrame_landAll i s)
  simp only [Ctx.landAll, Ctx.accrue, Ctx.closed, hq.flight, List.append_nil]

theorem closed_buffered (i : Instr) (s : State) (f : Frame) (n : Nat) (hq : f.Quiet) :
    ((openFrame i s).pre.closed f n).buffered = s.ctx.buffered := by
  simp only [Ctx.closed, Ctx.buffered, Option.isSome_some, if_true, hq.stores, List.append_nil]
  rfl

/-- The commit of a quiet frame with an entry, seen from the state before the bundle. -/
theorem Commits.enter {i : Instr} {s t : State} {f f' : Frame} {n : Nat} {pc : Pc} {g : Ctx → Ctx} (hg : Ctx.Entering g) (hp : f.pre = (openFrame i s).pre) (hq : f.Quiet)
    (h : Commits { s with ctx := g ((openFrame i s).pre.closed f n), frame := some f' } t pc) : Commits (s.onCtx g) t pc := by
  refine h.congr rfl (hg.plain _ _ (closed_plain i s f n hp hq)) ?_ ?_ ?_
  · show (g _).fpc.setWidth 9 = (g _).fpc.setWidth 9
    rw [hg.fpc, hg.fpc]; exact landFlags_low _ _
  · show (g _).landAll.fpc = (g _).landAll.fpc
    rw [hg.landAll, hg.landAll]; exact closed_landAll i s f n hq
  · show (g _).buffered = (g _).buffered
    rw [hg.buffered, hg.buffered]; exact closed_buffered i s f n hq

/-- A T-slot instruction that issues an entry and frees nothing. -/
theorem tissue_done {i : Instr} {s : State} {eff : State → State} {q : Issue} (hs : s.Clear) (hi : i.slot = some .t) (hop : i.opcode ≠ 0x10 ∧ i.opcode ≠ 0x0D)
    (hq : q.frees = []) (hdl : q.dl = 0) (hu : eff (begun i s) = (begun i s).issueT q) :
    ∃ t, asSlot i eff s = .next t ∧ ∃ e : Entry, e = { (begun i s).newEntry q with shut := false } ∧ Commits (s.onCtx fun c =>
      { c with win := [e], nextEntry := s.ctx.nextEntry + 1, headAt := s.coreCyc, flushed := c.flushed || false }) t (s.ctx.pc + 1) := by
  obtain ⟨hc, hw, hb, hr⟩ := hs
  have hsv := begun_slotVal i s hi
  obtain ⟨e, he⟩ : ∃ e, e = (begun i s).newEntry q := ⟨_, rfl⟩
  have hslot : e.slot = encode i := by rw [he]; exact hsv
  have hopn : e.op ≠ 0x10 ∧ e.op ≠ 0x0D := by
    simp only [Entry.op, hslot, slot_op]
    constructor <;> intro h
    · exact hop.1 (BitVec.eq_of_toNat_eq h)
    · exact hop.2 (BitVec.eq_of_toNat_eq h)
  have hd : e.dl = none := by rw [he]; simp only [State.newEntry, State.deadline, hdl]; rfl
  have hn : e.n = s.ctx.nextEntry := by rw [he, begun_eq]; rfl
  have hst : e.st = .pending := by rw [he]; rfl
  have hsh : e.shut = false := by rw [he]; rfl
  obtain ⟨f, hf⟩ : ∃ f, f = { openFrame i s with entry := some e, names := e.names, endsRegion := true } := ⟨_, rfl⟩
  have hq' : f.Quiet := by subst hf; exact ⟨⟨rfl, rfl⟩, ⟨rfl, rfl⟩, rfl, ⟨rfl, rfl⟩, rfl, rfl⟩
  have hp : f.pre = (openFrame i s).pre := by subst hf; rfl
  have hbits : f.bits = encodeBundle i := by subst hf; rfl
  have hfs : (f.faults = [] ∧ f.stall = false ∧ f.ask = none) ∧ (f.storing = false ∧ f.acquire = false) ∧ f.after = .next ∧ f.entry = some e ∧ f.flushBefore = false ∧ f.flushAfter = false := by
    subst hf; exact ⟨⟨rfl, rfl, rfl⟩, ⟨rfl, rfl⟩, rfl, rfl, rfl, rfl⟩
  have hu' : eff (begun i s) = { s with ctx := (openFrame i s).pre, frame := some f } := by
    rw [hu, State.issueT, hq, ← he, begun_eq, hf]
    simp only [List.foldl_nil, State.onFrame, openFrame, frameOf, Option.map_some, List.append_nil]
  clear hf hu
  obtain ⟨t, ht, h⟩ := asSlot_entered i eff s _ f (Ctx.enter s.coreCyc (e.n + 1) { e with shut := e.dl.isSome } e.dl.isSome) hc hu' rfl hp hbits hfs.1
    ⟨hb, hq'.stores, hfs.2.1⟩ rfl hfs.2.2.1 (Ctx.enter_entering _ _ _ _)
    (fun c hcw => commitEntry_some f { s with frame := none, ctx := c } e hfs.2.2.2.1 hfs.2.2.2.2 (hcw.trans hw) hr hopn hst hsh)
  refine ⟨t, ht, { e with shut := false }, by rw [← he], ?_⟩
  have e1 : ({ e with shut := e.dl.isSome } : Entry) = { e with shut := false } := by rw [hd]; rfl
  rw [e1, show e.dl.isSome = false by rw [hd]; rfl, show e.n + 1 = s.ctx.nextEntry + 1 by rw [hn]] at h
  exact Commits.enter (Ctx.enter_entering _ _ _ _) hp hq' h

end Sys2Proof.Machine
end

