-- ==== Sys2Proof/Laws/Events.lean ====
section
/-! SUPPORT. What the completion of an event says: its condition and its effect. -/

namespace Sys2Proof.Machine

/-- An event that acts under a Boolean condition acts under the proposition that the condition decides. -/
theorem happens_of {ok : Bool} {P : Prop} {i : Instr} {s t : State} {f : State → State} (h : exec i s = whenOk ok f s)
    (e : ok = true ↔ P) (ht : ok = true → f s = t) : Happens i P s t := by
  constructor
  · intro p
    rw [h, whenOk, if_pos (e.2 p), ht (e.2 p)]
  · intro p
    rw [h, whenOk, if_neg fun q => p (e.1 q)]

end Sys2Proof.Machine
end

