-- ==== Sys2Proof/Laws/Memory.lean ====
section
/-! SUPPORT. Laws of device memory: the canonical form is kept by every memory operation, and a byte reads back as written. -/

namespace Sys2Proof.Machine

/-! ### The canonical form -/

theorem cellsAbove_mono {k j : Nat} {m : List Host.Cell} (h : cellsAbove k m = true) (hj : j ≤ k) : cellsAbove j m = true := by
  cases m with
  | nil => rfl
  | cons p t => simp [cellsAbove] at *; omega

theorem memWf_tail {p : Host.Cell} {m : List Host.Cell} (h : memWf (p :: m) = true) : memWf m = true := by
  obtain ⟨a, b⟩ := p
  simp [memWf] at h
  exact h.2

theorem cellsAbove_cellWrite {j k : Nat} {m : List Host.Cell} {v : Byte} (h : cellsAbove j m = true) (hk : j < k) (hm : memWf m = true) :
    cellsAbove j (cellWrite m k v) = true := by
  cases m with
  | nil => simp only [cellWrite]; split <;> simp [cellsAbove, hk]
  | cons p t =>
    obtain ⟨a, b⟩ := p
    simp [cellsAbove] at h
    simp only [cellWrite]
    split
    · split <;> simp [cellsAbove, h, hk]
    · split
      · split
        · simp [memWf] at hm
          exact cellsAbove_mono hm.1.2 (by omega)
        · simp [cellsAbove, hk]
      · simp [cellsAbove, h]

theorem memWf_cellWrite {m : List Host.Cell} (k : Nat) (v : Byte) (h : memWf m = true) : memWf (cellWrite m k v) = true := by
  induction m with
  | nil => simp only [cellWrite]; split <;> simp_all [memWf, cellsAbove]
  | cons p t ih =>
    obtain ⟨a, b⟩ := p
    have ht := memWf_tail h
    simp only [cellWrite]
    split
    · split
      · exact h
      · next e => simp [memWf, cellsAbove] at *; exact ⟨⟨e, by omega⟩, h⟩
    · split
      · split
        · exact ht
        · next e => subst_vars; simp [memWf] at *; exact ⟨⟨e, h.1.2⟩, ht⟩
      · simp only [memWf, Bool.and_eq_true] at h ⊢
        exact ⟨⟨h.1.1, cellsAbove_cellWrite h.1.2 (by omega) ht⟩, ih ht⟩

theorem memWf_memWrite {m : List Host.Cell} (k n v : Nat) (h : memWf m = true) : memWf (memWrite m k n v) = true := by
  induction n generalizing m k v with
  | zero => exact h
  | succ n ih => exact ih _ _ (memWf_cellWrite _ _ h)

theorem cellsAbove_memKeep {j : Nat} {m : List Host.Cell} (f : Nat → Bool) (h : cellsAbove j m = true) (hm : memWf m = true) :
    cellsAbove j (memKeep m f) = true := by
  induction m generalizing j with
  | nil => rfl
  | cons p t ih =>
    obtain ⟨a, b⟩ := p
    simp [memWf] at hm
    simp [cellsAbove] at h
    simp only [memKeep, List.filter_cons]
    split
    · simp [cellsAbove, h]
    · exact ih (cellsAbove_mono hm.1.2 (by omega)) hm.2

theorem memWf_memKeep {m : List Host.Cell} (f : Nat → Bool) (h : memWf m = true) : memWf (memKeep m f) = true := by
  induction m with
  | nil => rfl
  | cons p t ih =>
    obtain ⟨a, b⟩ := p
    have ht := memWf_tail h
    simp only [memKeep, List.filter_cons]
    split
    · simp only [memWf, Bool.and_eq_true] at h ⊢
      exact ⟨⟨h.1.1, cellsAbove_memKeep f h.1.2 ht⟩, ih ht⟩
    · exact ih ht

/-! ### Reading back -/

theorem cellRead_above {j k : Nat} {m : List Host.Cell} (h : cellsAbove j m = true) (hk : k ≤ j) : cellRead m k = unlisted := by
  cases m with
  | nil => rfl
  | cons p t =>
    obtain ⟨a, b⟩ := p
    simp [cellsAbove] at h
    simp only [cellRead]
    rw [if_neg (by omega), if_pos (by omega)]

theorem cellRead_cellWrite_same {m : List Host.Cell} (k : Nat) (v : Byte) (h : memWf m = true) : cellRead (cellWrite m k v) k = v := by
  induction m with
  | nil => simp only [cellWrite]; split <;> simp_all [cellRead]
  | cons p t ih =>
    obtain ⟨a, b⟩ := p
    have ht := memWf_tail h
    simp only [cellWrite]
    split
    · split
      · next e => subst e; simp only [cellRead]; rw [if_neg (by omega), if_pos (by assumption)]
      · simp [cellRead]
    · split
      · split
        · next e g =>
          subst g; subst e
          simp only [memWf, Bool.and_eq_true] at h
          exact cellRead_above h.1.2 (Nat.le_refl _)
        · simp [cellRead]
      · simp only [cellRead]
        rw [if_neg (by omega), if_neg (by omega)]
        exact ih ht

theorem cellRead_cellWrite_other {m : List Host.Cell} (k j : Nat) (v : Byte) (h : memWf m = true) (hj : j ≠ k) :
    cellRead (cellWrite m k v) j = cellRead m j := by
  induction m with
  | nil =>
    simp only [cellWrite]
    split
    · rfl
    · simp only [cellRead]; rw [if_neg (by omega)]; simp
  | cons p t ih =>
    obtain ⟨a, b⟩ := p
    have ht := memWf_tail h
    simp only [memWf, Bool.and_eq_true] at h
    simp only [cellWrite]
    split
    · split
      · rfl
      · simp only [cellRead]
        rw [if_neg (by omega)]
        split
        · rw [if_neg (by omega), if_pos (by omega)]
        · rfl
    · split
      · next e =>
        subst e
        split
        · simp only [cellRead]
          rw [if_neg (by omega)]
          split
          · exact cellRead_above h.1.2 (by omega)
          · rfl
        · simp only [cellRead]
          simp only [Ne.symm hj, if_false]
      · simp only [cellRead]
        rw [ih ht]

/-- A byte outside the written ones is unchanged. -/
theorem cellRead_memWrite_outside {m : List Host.Cell} (k n v j : Nat) (h : memWf m = true) (hj : j < k ∨ k + n ≤ j) :
    cellRead (memWrite m k n v) j = cellRead m j := by
  induction n generalizing m k v with
  | zero => rfl
  | succ n ih =>
    simp only [memWrite]
    rw [ih _ _ (memWf_cellWrite _ _ h) (by omega), cellRead_cellWrite_other _ _ _ h (by omega)]

/-- Byte i of the written ones. -/
theorem cellRead_memWrite_inside {m : List Host.Cell} (k n v i : Nat) (h : memWf m = true) (hi : i < n) :
    cellRead (memWrite m k n v) (k + i) = BitVec.ofNat 8 (v / 256 ^ i) := by
  induction n generalizing m k v i with
  | zero => omega
  | succ n ih =>
    simp only [memWrite]
    cases i with
    | zero =>
      rw [cellRead_memWrite_outside _ _ _ _ (memWf_cellWrite _ _ h) (by omega), Nat.add_zero, cellRead_cellWrite_same _ _ h]
      simp
    | succ i =>
      rw [show k + (i + 1) = k + 1 + i by omega, ih _ _ _ (memWf_cellWrite _ _ h) (by omega), Nat.div_div_eq_div_mul, Nat.pow_succ, Nat.mul_comm]

theorem memRead_memWrite_same {m : List Host.Cell} (k n v : Nat) (h : memWf m = true) : memRead (memWrite m k n v) k n = v % 256 ^ n := by
  induction n generalizing m k v with
  | zero => simp [memRead, Nat.mod_one]
  | succ n ih =>
    simp only [memRead, memWrite]
    rw [cellRead_memWrite_outside _ _ _ _ (memWf_cellWrite _ _ h) (by omega), cellRead_cellWrite_same _ _ h, ih _ _ (memWf_cellWrite _ _ h)]
    rw [Nat.pow_succ, Nat.mul_comm (256 ^ n) 256, Nat.mod_mul, BitVec.toNat_ofNat]

/-- Storing to a die keeps the canonical form. -/
theorem memGood_writeMem {s : State} (d : Fin 4) (off n v : Nat) (h : s.memGood) : (writeMem s d off n v).memGood := memWf_memWrite _ _ _ h

end Sys2Proof.Machine
end

