-- ==== Sys2Proof/Laws/PerInstr.lean ====
section
/-! SUPPORT. One lemma per constructor of Instr: the decode tables of spec/03 R48 and R49 read an instruction's opcode and operand bits back
as that instruction. -/

namespace Sys2Proof.Laws.Fields

/-- The table of the instruction's slot, given its opcode and operand bits, answers the instruction. -/
def Statement (i : Instr) : Prop := i.wf = true → ∀ sl, i.slot = some sl → opcodeTable sl i.opcode i.operBits = some i

theorem of_slot {i : Instr} {sl : SlotId} (hs : i.slot = some sl) (h : opcodeTable sl i.opcode i.operBits = some i) : Statement i := by
  intro _ k hk
  rw [hs] at hk
  cases hk
  exact h


theorem br (o : JO) : Statement (.br o) := of_slot (sl := .c) rfl (congrArg (fun x => some (Instr.br x)) o.ofBits_bits)
theorem brc (o : BC) : Statement (.brc o) := of_slot (sl := .c) rfl (congrArg (fun x => some (Instr.brc x)) o.ofBits_bits)
theorem jmp (o : JR) : Statement (.jmp o) := of_slot (sl := .c) rfl (congrArg (fun x => some (Instr.jmp x)) o.ofBits_bits)
theorem call (o : JO) : Statement (.call o) := of_slot (sl := .c) rfl (congrArg (fun x => some (Instr.call x)) o.ofBits_bits)
theorem callr (o : JR) : Statement (.callr o) := of_slot (sl := .c) rfl (congrArg (fun x => some (Instr.callr x)) o.ofBits_bits)
theorem ret : Statement .ret := of_slot (sl := .c) rfl rfl
theorem loopi (o : LI) : Statement (.loopi o) := of_slot (sl := .c) rfl (congrArg (fun x => some (Instr.loopi x)) o.ofBits_bits)
theorem loop : Statement .loop := of_slot (sl := .c) rfl rfl
theorem suspend : Statement .suspend := of_slot (sl := .c) rfl rfl
theorem spawn (o : SR) : Statement (.spawn o) := of_slot (sl := .c) rfl (congrArg (fun x => some (Instr.spawn x)) o.ofBits_bits)
theorem rclaim (o : SR) : Statement (.rclaim o) := of_slot (sl := .c) rfl (congrArg (fun x => some (Instr.rclaim x)) o.ofBits_bits)
theorem yield : Statement .yield := of_slot (sl := .c) rfl rfl
theorem halt : Statement .halt := of_slot (sl := .c) rfl rfl
theorem trap (o : TC) : Statement (.trap o) := of_slot (sl := .c) rfl (congrArg (fun x => some (Instr.trap x)) o.ofBits_bits)
theorem tret : Statement .tret := of_slot (sl := .c) rfl rfl
theorem csrr (o : CR) : Statement (.csrr o) := of_slot (sl := .c) rfl (congrArg (fun x => some (Instr.csrr x)) o.ofBits_bits)
theorem csrw (o : CR) : Statement (.csrw o) := of_slot (sl := .c) rfl (congrArg (fun x => some (Instr.csrw x)) o.ofBits_bits)
theorem csrsb (o : CR) : Statement (.csrsb o) := of_slot (sl := .c) rfl (congrArg (fun x => some (Instr.csrsb x)) o.ofBits_bits)
theorem csrcb (o : CR) : Statement (.csrcb o) := of_slot (sl := .c) rfl (congrArg (fun x => some (Instr.csrcb x)) o.ofBits_bits)
theorem dnew (o : SY) : Statement (.dnew o) := of_slot (sl := .c) rfl (congrArg (fun x => some (Instr.dnew x)) o.ofBits_bits)
theorem dgrantRange_sel (o : SY) (w : (Instr.dgrantRange o).wf = true) : opcodeTable .c 0x21 o.bits = some (.dgrantRange o) := by
  have e : opcodeC 0x21 o.bits = (if (o.bits.extractLsb' 8 4).toNat = 0 then some (.dgrantRange (.ofBits o.bits)) else if (o.bits.extractLsb' 8 4).toNat = 1 then some (.dgrantCore (.ofBits o.bits)) else if (o.bits.extractLsb' 8 4).toNat = 2 then some (.dgrantVf (.ofBits o.bits)) else some (.dgrantBud (.ofBits o.bits))) := rfl
  simp [Instr.wf, Instr.legal, Instr.fieldsOk] at w
  simp [SY.fn_of_bits, SY.ofBits_bits, w] at e
  exact congrArg (fun x => Option.or x (opcodeScalar .c 0x21 o.bits)) e
theorem dgrantRange (o : SY) : Statement (.dgrantRange o) := by
  intro w k h
  cases h
  exact dgrantRange_sel o w
theorem dgrantCore_sel (o : SY) (w : (Instr.dgrantCore o).wf = true) : opcodeTable .c 0x21 o.bits = some (.dgrantCore o) := by
  have e : opcodeC 0x21 o.bits = (if (o.bits.extractLsb' 8 4).toNat = 0 then some (.dgrantRange (.ofBits o.bits)) else if (o.bits.extractLsb' 8 4).toNat = 1 then some (.dgrantCore (.ofBits o.bits)) else if (o.bits.extractLsb' 8 4).toNat = 2 then some (.dgrantVf (.ofBits o.bits)) else some (.dgrantBud (.ofBits o.bits))) := rfl
  simp [Instr.wf, Instr.legal, Instr.fieldsOk] at w
  simp [SY.fn_of_bits, SY.ofBits_bits, w] at e
  exact congrArg (fun x => Option.or x (opcodeScalar .c 0x21 o.bits)) e
theorem dgrantCore (o : SY) : Statement (.dgrantCore o) := by
  intro w k h
  cases h
  exact dgrantCore_sel o w
theorem dgrantVf_sel (o : SY) (w : (Instr.dgrantVf o).wf = true) : opcodeTable .c 0x21 o.bits = some (.dgrantVf o) := by
  have e : opcodeC 0x21 o.bits = (if (o.bits.extractLsb' 8 4).toNat = 0 then some (.dgrantRange (.ofBits o.bits)) else if (o.bits.extractLsb' 8 4).toNat = 1 then some (.dgrantCore (.ofBits o.bits)) else if (o.bits.extractLsb' 8 4).toNat = 2 then some (.dgrantVf (.ofBits o.bits)) else some (.dgrantBud (.ofBits o.bits))) := rfl
  simp [Instr.wf, Instr.legal, Instr.fieldsOk] at w
  simp [SY.fn_of_bits, SY.ofBits_bits, w] at e
  exact congrArg (fun x => Option.or x (opcodeScalar .c 0x21 o.bits)) e
theorem dgrantVf (o : SY) : Statement (.dgrantVf o) := by
  intro w k h
  cases h
  exact dgrantVf_sel o w
theorem dgrantBud_sel (o : SY) (w : (Instr.dgrantBud o).wf = true) : opcodeTable .c 0x21 o.bits = some (.dgrantBud o) := by
  have e : opcodeC 0x21 o.bits = (if (o.bits.extractLsb' 8 4).toNat = 0 then some (.dgrantRange (.ofBits o.bits)) else if (o.bits.extractLsb' 8 4).toNat = 1 then some (.dgrantCore (.ofBits o.bits)) else if (o.bits.extractLsb' 8 4).toNat = 2 then some (.dgrantVf (.ofBits o.bits)) else some (.dgrantBud (.ofBits o.bits))) := rfl
  simp [Instr.wf, Instr.legal, Instr.fieldsOk] at w
  simp [SY.fn_of_bits, SY.ofBits_bits, w] at e
  exact congrArg (fun x => Option.or x (opcodeScalar .c 0x21 o.bits)) e
theorem dgrantBud (o : SY) : Statement (.dgrantBud o) := by
  intro w k h
  cases h
  exact dgrantBud_sel o w
theorem drevokeRange_sel (o : SY) (w : (Instr.drevokeRange o).wf = true) : opcodeTable .c 0x22 o.bits = some (.drevokeRange o) := by
  have e : opcodeC 0x22 o.bits = (if (o.bits.extractLsb' 8 4).toNat = 0 then some (.drevokeRange (.ofBits o.bits)) else if (o.bits.extractLsb' 8 4).toNat = 1 then some (.drevokeCore (.ofBits o.bits)) else some (.drevokeVf (.ofBits o.bits))) := rfl
  simp [Instr.wf, Instr.legal, Instr.fieldsOk] at w
  simp [SY.fn_of_bits, SY.ofBits_bits, w] at e
  exact congrArg (fun x => Option.or x (opcodeScalar .c 0x22 o.bits)) e
theorem drevokeRange (o : SY) : Statement (.drevokeRange o) := by
  intro w k h
  cases h
  exact drevokeRange_sel o w
theorem drevokeCore_sel (o : SY) (w : (Instr.drevokeCore o).wf = true) : opcodeTable .c 0x22 o.bits = some (.drevokeCore o) := by
  have e : opcodeC 0x22 o.bits = (if (o.bits.extractLsb' 8 4).toNat = 0 then some (.drevokeRange (.ofBits o.bits)) else if (o.bits.extractLsb' 8 4).toNat = 1 then some (.drevokeCore (.ofBits o.bits)) else some (.drevokeVf (.ofBits o.bits))) := rfl
  simp [Instr.wf, Instr.legal, Instr.fieldsOk] at w
  simp [SY.fn_of_bits, SY.ofBits_bits, w] at e
  exact congrArg (fun x => Option.or x (opcodeScalar .c 0x22 o.bits)) e
theorem drevokeCore (o : SY) : Statement (.drevokeCore o) := by
  intro w k h
  cases h
  exact drevokeCore_sel o w
theorem drevokeVf_sel (o : SY) (w : (Instr.drevokeVf o).wf = true) : opcodeTable .c 0x22 o.bits = some (.drevokeVf o) := by
  have e : opcodeC 0x22 o.bits = (if (o.bits.extractLsb' 8 4).toNat = 0 then some (.drevokeRange (.ofBits o.bits)) else if (o.bits.extractLsb' 8 4).toNat = 1 then some (.drevokeCore (.ofBits o.bits)) else some (.drevokeVf (.ofBits o.bits))) := rfl
  simp [Instr.wf, Instr.legal, Instr.fieldsOk] at w
  simp [SY.fn_of_bits, SY.ofBits_bits, w] at e
  exact congrArg (fun x => Option.or x (opcodeScalar .c 0x22 o.bits)) e
theorem drevokeVf (o : SY) : Statement (.drevokeVf o) := by
  intro w k h
  cases h
  exact drevokeVf_sel o w
theorem dkill (o : SY) : Statement (.dkill o) := of_slot (sl := .c) rfl (congrArg (fun x => some (Instr.dkill x)) o.ofBits_bits)
theorem dpolicyTrap_sel (o : SY) (w : (Instr.dpolicyTrap o).wf = true) : opcodeTable .c 0x24 o.bits = some (.dpolicyTrap o) := by
  have e : opcodeC 0x24 o.bits = (if (o.bits.extractLsb' 8 4).toNat = 0 then some (.dpolicyTrap (.ofBits o.bits)) else if (o.bits.extractLsb' 8 4).toNat = 1 then some (.dpolicyFlags (.ofBits o.bits)) else if (o.bits.extractLsb' 8 4).toNat = 2 then some (.dpolicyEvq (.ofBits o.bits)) else if (o.bits.extractLsb' 8 4).toNat = 3 then some (.dpolicyDlog (.ofBits o.bits)) else if (o.bits.extractLsb' 8 4).toNat = 4 then some (.dpolicyScope (.ofBits o.bits)) else if (o.bits.extractLsb' 8 4).toNat = 5 then some (.dpolicyTbofs (.ofBits o.bits)) else some (.dpolicySpill (.ofBits o.bits))) := rfl
  simp [Instr.wf, Instr.legal, Instr.fieldsOk] at w
  simp [SY.fn_of_bits, SY.ofBits_bits, w] at e
  exact congrArg (fun x => Option.or x (opcodeScalar .c 0x24 o.bits)) e
theorem dpolicyTrap (o : SY) : Statement (.dpolicyTrap o) := by
  intro w k h
  cases h
  exact dpolicyTrap_sel o w
theorem dpolicyFlags_sel (o : SY) (w : (Instr.dpolicyFlags o).wf = true) : opcodeTable .c 0x24 o.bits = some (.dpolicyFlags o) := by
  have e : opcodeC 0x24 o.bits = (if (o.bits.extractLsb' 8 4).toNat = 0 then some (.dpolicyTrap (.ofBits o.bits)) else if (o.bits.extractLsb' 8 4).toNat = 1 then some (.dpolicyFlags (.ofBits o.bits)) else if (o.bits.extractLsb' 8 4).toNat = 2 then some (.dpolicyEvq (.ofBits o.bits)) else if (o.bits.extractLsb' 8 4).toNat = 3 then some (.dpolicyDlog (.ofBits o.bits)) else if (o.bits.extractLsb' 8 4).toNat = 4 then some (.dpolicyScope (.ofBits o.bits)) else if (o.bits.extractLsb' 8 4).toNat = 5 then some (.dpolicyTbofs (.ofBits o.bits)) else some (.dpolicySpill (.ofBits o.bits))) := rfl
  simp [Instr.wf, Instr.legal, Instr.fieldsOk] at w
  simp [SY.fn_of_bits, SY.ofBits_bits, w] at e
  exact congrArg (fun x => Option.or x (opcodeScalar .c 0x24 o.bits)) e
theorem dpolicyFlags (o : SY) : Statement (.dpolicyFlags o) := by
  intro w k h
  cases h
  exact dpolicyFlags_sel o w
theorem dpolicyEvq_sel (o : SY) (w : (Instr.dpolicyEvq o).wf = true) : opcodeTable .c 0x24 o.bits = some (.dpolicyEvq o) := by
  have e : opcodeC 0x24 o.bits = (if (o.bits.extractLsb' 8 4).toNat = 0 then some (.dpolicyTrap (.ofBits o.bits)) else if (o.bits.extractLsb' 8 4).toNat = 1 then some (.dpolicyFlags (.ofBits o.bits)) else if (o.bits.extractLsb' 8 4).toNat = 2 then some (.dpolicyEvq (.ofBits o.bits)) else if (o.bits.extractLsb' 8 4).toNat = 3 then some (.dpolicyDlog (.ofBits o.bits)) else if (o.bits.extractLsb' 8 4).toNat = 4 then some (.dpolicyScope (.ofBits o.bits)) else if (o.bits.extractLsb' 8 4).toNat = 5 then some (.dpolicyTbofs (.ofBits o.bits)) else some (.dpolicySpill (.ofBits o.bits))) := rfl
  simp [Instr.wf, Instr.legal, Instr.fieldsOk] at w
  simp [SY.fn_of_bits, SY.ofBits_bits, w] at e
  exact congrArg (fun x => Option.or x (opcodeScalar .c 0x24 o.bits)) e
theorem dpolicyEvq (o : SY) : Statement (.dpolicyEvq o) := by
  intro w k h
  cases h
  exact dpolicyEvq_sel o w
theorem dpolicyDlog_sel (o : SY) (w : (Instr.dpolicyDlog o).wf = true) : opcodeTable .c 0x24 o.bits = some (.dpolicyDlog o) := by
  have e : opcodeC 0x24 o.bits = (if (o.bits.extractLsb' 8 4).toNat = 0 then some (.dpolicyTrap (.ofBits o.bits)) else if (o.bits.extractLsb' 8 4).toNat = 1 then some (.dpolicyFlags (.ofBits o.bits)) else if (o.bits.extractLsb' 8 4).toNat = 2 then some (.dpolicyEvq (.ofBits o.bits)) else if (o.bits.extractLsb' 8 4).toNat = 3 then some (.dpolicyDlog (.ofBits o.bits)) else if (o.bits.extractLsb' 8 4).toNat = 4 then some (.dpolicyScope (.ofBits o.bits)) else if (o.bits.extractLsb' 8 4).toNat = 5 then some (.dpolicyTbofs (.ofBits o.bits)) else some (.dpolicySpill (.ofBits o.bits))) := rfl
  simp [Instr.wf, Instr.legal, Instr.fieldsOk] at w
  simp [SY.fn_of_bits, SY.ofBits_bits, w] at e
  exact congrArg (fun x => Option.or x (opcodeScalar .c 0x24 o.bits)) e
theorem dpolicyDlog (o : SY) : Statement (.dpolicyDlog o) := by
  intro w k h
  cases h
  exact dpolicyDlog_sel o w
theorem dpolicyScope_sel (o : SY) (w : (Instr.dpolicyScope o).wf = true) : opcodeTable .c 0x24 o.bits = some (.dpolicyScope o) := by
  have e : opcodeC 0x24 o.bits = (if (o.bits.extractLsb' 8 4).toNat = 0 then some (.dpolicyTrap (.ofBits o.bits)) else if (o.bits.extractLsb' 8 4).toNat = 1 then some (.dpolicyFlags (.ofBits o.bits)) else if (o.bits.extractLsb' 8 4).toNat = 2 then some (.dpolicyEvq (.ofBits o.bits)) else if (o.bits.extractLsb' 8 4).toNat = 3 then some (.dpolicyDlog (.ofBits o.bits)) else if (o.bits.extractLsb' 8 4).toNat = 4 then some (.dpolicyScope (.ofBits o.bits)) else if (o.bits.extractLsb' 8 4).toNat = 5 then some (.dpolicyTbofs (.ofBits o.bits)) else some (.dpolicySpill (.ofBits o.bits))) := rfl
  simp [Instr.wf, Instr.legal, Instr.fieldsOk] at w
  simp [SY.fn_of_bits, SY.ofBits_bits, w] at e
  exact congrArg (fun x => Option.or x (opcodeScalar .c 0x24 o.bits)) e
theorem dpolicyScope (o : SY) : Statement (.dpolicyScope o) := by
  intro w k h
  cases h
  exact dpolicyScope_sel o w
theorem dpolicyTbofs_sel (o : SY) (w : (Instr.dpolicyTbofs o).wf = true) : opcodeTable .c 0x24 o.bits = some (.dpolicyTbofs o) := by
  have e : opcodeC 0x24 o.bits = (if (o.bits.extractLsb' 8 4).toNat = 0 then some (.dpolicyTrap (.ofBits o.bits)) else if (o.bits.extractLsb' 8 4).toNat = 1 then some (.dpolicyFlags (.ofBits o.bits)) else if (o.bits.extractLsb' 8 4).toNat = 2 then some (.dpolicyEvq (.ofBits o.bits)) else if (o.bits.extractLsb' 8 4).toNat = 3 then some (.dpolicyDlog (.ofBits o.bits)) else if (o.bits.extractLsb' 8 4).toNat = 4 then some (.dpolicyScope (.ofBits o.bits)) else if (o.bits.extractLsb' 8 4).toNat = 5 then some (.dpolicyTbofs (.ofBits o.bits)) else some (.dpolicySpill (.ofBits o.bits))) := rfl
  simp [Instr.wf, Instr.legal, Instr.fieldsOk] at w
  simp [SY.fn_of_bits, SY.ofBits_bits, w] at e
  exact congrArg (fun x => Option.or x (opcodeScalar .c 0x24 o.bits)) e
theorem dpolicyTbofs (o : SY) : Statement (.dpolicyTbofs o) := by
  intro w k h
  cases h
  exact dpolicyTbofs_sel o w
theorem dpolicySpill_sel (o : SY) (w : (Instr.dpolicySpill o).wf = true) : opcodeTable .c 0x24 o.bits = some (.dpolicySpill o) := by
  have e : opcodeC 0x24 o.bits = (if (o.bits.extractLsb' 8 4).toNat = 0 then some (.dpolicyTrap (.ofBits o.bits)) else if (o.bits.extractLsb' 8 4).toNat = 1 then some (.dpolicyFlags (.ofBits o.bits)) else if (o.bits.extractLsb' 8 4).toNat = 2 then some (.dpolicyEvq (.ofBits o.bits)) else if (o.bits.extractLsb' 8 4).toNat = 3 then some (.dpolicyDlog (.ofBits o.bits)) else if (o.bits.extractLsb' 8 4).toNat = 4 then some (.dpolicyScope (.ofBits o.bits)) else if (o.bits.extractLsb' 8 4).toNat = 5 then some (.dpolicyTbofs (.ofBits o.bits)) else some (.dpolicySpill (.ofBits o.bits))) := rfl
  simp [Instr.wf, Instr.legal, Instr.fieldsOk] at w
  simp [SY.fn_of_bits, SY.ofBits_bits, w] at e
  exact congrArg (fun x => Option.or x (opcodeScalar .c 0x24 o.bits)) e
theorem dpolicySpill (o : SY) : Statement (.dpolicySpill o) := by
  intro w k h
  cases h
  exact dpolicySpill_sel o w
theorem dquery (o : SY) : Statement (.dquery o) := of_slot (sl := .c) rfl (congrArg (fun x => some (Instr.dquery x)) o.ofBits_bits)
theorem tlbinvAll_sel (o : SY) (w : (Instr.tlbinvAll o).wf = true) : opcodeTable .c 0x26 o.bits = some (.tlbinvAll o) := by
  have e : opcodeC 0x26 o.bits = (if (o.bits.extractLsb' 8 4).toNat = 0 then some (.tlbinvAll (.ofBits o.bits)) else if (o.bits.extractLsb' 8 4).toNat = 1 then some (.tlbinvVa (.ofBits o.bits)) else some (.tlbinvDom (.ofBits o.bits))) := rfl
  simp [Instr.wf, Instr.legal, Instr.fieldsOk] at w
  simp [SY.fn_of_bits, SY.ofBits_bits, w] at e
  exact congrArg (fun x => Option.or x (opcodeScalar .c 0x26 o.bits)) e
theorem tlbinvAll (o : SY) : Statement (.tlbinvAll o) := by
  intro w k h
  cases h
  exact tlbinvAll_sel o w
theorem tlbinvVa_sel (o : SY) (w : (Instr.tlbinvVa o).wf = true) : opcodeTable .c 0x26 o.bits = some (.tlbinvVa o) := by
  have e : opcodeC 0x26 o.bits = (if (o.bits.extractLsb' 8 4).toNat = 0 then some (.tlbinvAll (.ofBits o.bits)) else if (o.bits.extractLsb' 8 4).toNat = 1 then some (.tlbinvVa (.ofBits o.bits)) else some (.tlbinvDom (.ofBits o.bits))) := rfl
  simp [Instr.wf, Instr.legal, Instr.fieldsOk] at w
  simp [SY.fn_of_bits, SY.ofBits_bits, w] at e
  exact congrArg (fun x => Option.or x (opcodeScalar .c 0x26 o.bits)) e
theorem tlbinvVa (o : SY) : Statement (.tlbinvVa o) := by
  intro w k h
  cases h
  exact tlbinvVa_sel o w
theorem tlbinvDom_sel (o : SY) (w : (Instr.tlbinvDom o).wf = true) : opcodeTable .c 0x26 o.bits = some (.tlbinvDom o) := by
  have e : opcodeC 0x26 o.bits = (if (o.bits.extractLsb' 8 4).toNat = 0 then some (.tlbinvAll (.ofBits o.bits)) else if (o.bits.extractLsb' 8 4).toNat = 1 then some (.tlbinvVa (.ofBits o.bits)) else some (.tlbinvDom (.ofBits o.bits))) := rfl
  simp [Instr.wf, Instr.legal, Instr.fieldsOk] at w
  simp [SY.fn_of_bits, SY.ofBits_bits, w] at e
  exact congrArg (fun x => Option.or x (opcodeScalar .c 0x26 o.bits)) e
theorem tlbinvDom (o : SY) : Statement (.tlbinvDom o) := by
  intro w k h
  cases h
  exact tlbinvDom_sel o w
theorem rtload_sel (o : SY) (w : (Instr.rtload o).wf = true) : opcodeTable .c 0x27 o.bits = some (.rtload o) := by
  have e : opcodeC 0x27 o.bits = (if (o.bits.extractLsb' 8 4).toNat = 0 then some (.rtload (.ofBits o.bits)) else some (.rtloadClr (.ofBits o.bits))) := rfl
  simp [Instr.wf, Instr.legal, Instr.fieldsOk] at w
  simp [SY.fn_of_bits, SY.ofBits_bits, w] at e
  exact congrArg (fun x => Option.or x (opcodeScalar .c 0x27 o.bits)) e
theorem rtload (o : SY) : Statement (.rtload o) := by
  intro w k h
  cases h
  exact rtload_sel o w
theorem rtloadClr_sel (o : SY) (w : (Instr.rtloadClr o).wf = true) : opcodeTable .c 0x27 o.bits = some (.rtloadClr o) := by
  have e : opcodeC 0x27 o.bits = (if (o.bits.extractLsb' 8 4).toNat = 0 then some (.rtload (.ofBits o.bits)) else some (.rtloadClr (.ofBits o.bits))) := rfl
  simp [Instr.wf, Instr.legal, Instr.fieldsOk] at w
  simp [SY.fn_of_bits, SY.ofBits_bits, w] at e
  exact congrArg (fun x => Option.or x (opcodeScalar .c 0x27 o.bits)) e
theorem rtloadClr (o : SY) : Statement (.rtloadClr o) := by
  intro w k h
  cases h
  exact rtloadClr_sel o w
theorem evpostOwn_sel (o : SY) (w : (Instr.evpostOwn o).wf = true) : opcodeTable .c 0x28 o.bits = some (.evpostOwn o) := by
  have e : opcodeC 0x28 o.bits = (if (o.bits.extractLsb' 8 4).toNat = 0 then some (.evpostOwn (.ofBits o.bits)) else if (o.bits.extractLsb' 8 4).toNat = 1 then some (.evpostPar (.ofBits o.bits)) else some (.evpostChild (.ofBits o.bits))) := rfl
  simp [Instr.wf, Instr.legal, Instr.fieldsOk] at w
  simp [SY.fn_of_bits, SY.ofBits_bits, w] at e
  exact congrArg (fun x => Option.or x (opcodeScalar .c 0x28 o.bits)) e
theorem evpostOwn (o : SY) : Statement (.evpostOwn o) := by
  intro w k h
  cases h
  exact evpostOwn_sel o w
theorem evpostPar_sel (o : SY) (w : (Instr.evpostPar o).wf = true) : opcodeTable .c 0x28 o.bits = some (.evpostPar o) := by
  have e : opcodeC 0x28 o.bits = (if (o.bits.extractLsb' 8 4).toNat = 0 then some (.evpostOwn (.ofBits o.bits)) else if (o.bits.extractLsb' 8 4).toNat = 1 then some (.evpostPar (.ofBits o.bits)) else some (.evpostChild (.ofBits o.bits))) := rfl
  simp [Instr.wf, Instr.legal, Instr.fieldsOk] at w
  simp [SY.fn_of_bits, SY.ofBits_bits, w] at e
  exact congrArg (fun x => Option.or x (opcodeScalar .c 0x28 o.bits)) e
theorem evpostPar (o : SY) : Statement (.evpostPar o) := by
  intro w k h
  cases h
  exact evpostPar_sel o w
theorem evpostChild_sel (o : SY) (w : (Instr.evpostChild o).wf = true) : opcodeTable .c 0x28 o.bits = some (.evpostChild o) := by
  have e : opcodeC 0x28 o.bits = (if (o.bits.extractLsb' 8 4).toNat = 0 then some (.evpostOwn (.ofBits o.bits)) else if (o.bits.extractLsb' 8 4).toNat = 1 then some (.evpostPar (.ofBits o.bits)) else some (.evpostChild (.ofBits o.bits))) := rfl
  simp [Instr.wf, Instr.legal, Instr.fieldsOk] at w
  simp [SY.fn_of_bits, SY.ofBits_bits, w] at e
  exact congrArg (fun x => Option.or x (opcodeScalar .c 0x28 o.bits)) e
theorem evpostChild (o : SY) : Statement (.evpostChild o) := by
  intro w k h
  cases h
  exact evpostChild_sel o w
theorem pgstateBegin_sel (o : SY) (w : (Instr.pgstateBegin o).wf = true) : opcodeTable .c 0x29 o.bits = some (.pgstateBegin o) := by
  have e : opcodeC 0x29 o.bits = (if (o.bits.extractLsb' 8 4).toNat = 0 then some (.pgstateBegin (.ofBits o.bits)) else some (.pgstateEnd (.ofBits o.bits))) := rfl
  simp [Instr.wf, Instr.legal, Instr.fieldsOk] at w
  simp [SY.fn_of_bits, SY.ofBits_bits, w] at e
  exact congrArg (fun x => Option.or x (opcodeScalar .c 0x29 o.bits)) e
theorem pgstateBegin (o : SY) : Statement (.pgstateBegin o) := by
  intro w k h
  cases h
  exact pgstateBegin_sel o w
theorem pgstateEnd_sel (o : SY) (w : (Instr.pgstateEnd o).wf = true) : opcodeTable .c 0x29 o.bits = some (.pgstateEnd o) := by
  have e : opcodeC 0x29 o.bits = (if (o.bits.extractLsb' 8 4).toNat = 0 then some (.pgstateBegin (.ofBits o.bits)) else some (.pgstateEnd (.ofBits o.bits))) := rfl
  simp [Instr.wf, Instr.legal, Instr.fieldsOk] at w
  simp [SY.fn_of_bits, SY.ofBits_bits, w] at e
  exact congrArg (fun x => Option.or x (opcodeScalar .c 0x29 o.bits)) e
theorem pgstateEnd (o : SY) : Statement (.pgstateEnd o) := by
  intro w k h
  cases h
  exact pgstateEnd_sel o w
theorem pand (o : PR) : Statement (.pand o) := of_slot (sl := .c) rfl (congrArg (fun x => some (Instr.pand x)) o.ofBits_bits)
theorem por (o : PR) : Statement (.por o) := of_slot (sl := .c) rfl (congrArg (fun x => some (Instr.por x)) o.ofBits_bits)
theorem pxor (o : PR) : Statement (.pxor o) := of_slot (sl := .c) rfl (congrArg (fun x => some (Instr.pxor x)) o.ofBits_bits)
theorem pnot (o : PR) : Statement (.pnot o) := of_slot (sl := .c) rfl (congrArg (fun x => some (Instr.pnot x)) o.ofBits_bits)
theorem psetn (o : PR) : Statement (.psetn o) := of_slot (sl := .c) rfl (congrArg (fun x => some (Instr.psetn x)) o.ofBits_bits)
theorem pcnt (o : PR) : Statement (.pcnt o) := of_slot (sl := .c) rfl (congrArg (fun x => some (Instr.pcnt x)) o.ofBits_bits)
theorem pfirst (o : PR) : Statement (.pfirst o) := of_slot (sl := .c) rfl (congrArg (fun x => some (Instr.pfirst x)) o.ofBits_bits)
theorem add (sl : CS) (o : RR) : Statement (.add sl o) := by
  cases sl
  · exact of_slot (sl := .c) rfl (congrArg (fun x => some (Instr.add .c x)) o.ofBits_bits)
  · exact of_slot (sl := .s) rfl (congrArg (fun x => some (Instr.add .s x)) o.ofBits_bits)
theorem addi (sl : CS) (o : RI) : Statement (.addi sl o) := by
  cases sl
  · exact of_slot (sl := .c) rfl (congrArg (fun x => some (Instr.addi .c x)) o.ofBits_bits)
  · exact of_slot (sl := .s) rfl (congrArg (fun x => some (Instr.addi .s x)) o.ofBits_bits)
theorem sub (sl : CS) (o : RR) : Statement (.sub sl o) := by
  cases sl
  · exact of_slot (sl := .c) rfl (congrArg (fun x => some (Instr.sub .c x)) o.ofBits_bits)
  · exact of_slot (sl := .s) rfl (congrArg (fun x => some (Instr.sub .s x)) o.ofBits_bits)
theorem mul (sl : CS) (o : RR) : Statement (.mul sl o) := by
  cases sl
  · exact of_slot (sl := .c) rfl (congrArg (fun x => some (Instr.mul .c x)) o.ofBits_bits)
  · exact of_slot (sl := .s) rfl (congrArg (fun x => some (Instr.mul .s x)) o.ofBits_bits)
theorem mulh (sl : CS) (o : RR) : Statement (.mulh sl o) := by
  cases sl
  · exact of_slot (sl := .c) rfl (congrArg (fun x => some (Instr.mulh .c x)) o.ofBits_bits)
  · exact of_slot (sl := .s) rfl (congrArg (fun x => some (Instr.mulh .s x)) o.ofBits_bits)
theorem mulhu (sl : CS) (o : RR) : Statement (.mulhu sl o) := by
  cases sl
  · exact of_slot (sl := .c) rfl (congrArg (fun x => some (Instr.mulhu .c x)) o.ofBits_bits)
  · exact of_slot (sl := .s) rfl (congrArg (fun x => some (Instr.mulhu .s x)) o.ofBits_bits)
theorem div (sl : CS) (o : RR) : Statement (.div sl o) := by
  cases sl
  · exact of_slot (sl := .c) rfl (congrArg (fun x => some (Instr.div .c x)) o.ofBits_bits)
  · exact of_slot (sl := .s) rfl (congrArg (fun x => some (Instr.div .s x)) o.ofBits_bits)
theorem divu (sl : CS) (o : RR) : Statement (.divu sl o) := by
  cases sl
  · exact of_slot (sl := .c) rfl (congrArg (fun x => some (Instr.divu .c x)) o.ofBits_bits)
  · exact of_slot (sl := .s) rfl (congrArg (fun x => some (Instr.divu .s x)) o.ofBits_bits)
theorem rem (sl : CS) (o : RR) : Statement (.rem sl o) := by
  cases sl
  · exact of_slot (sl := .c) rfl (congrArg (fun x => some (Instr.rem .c x)) o.ofBits_bits)
  · exact of_slot (sl := .s) rfl (congrArg (fun x => some (Instr.rem .s x)) o.ofBits_bits)
theorem remu (sl : CS) (o : RR) : Statement (.remu sl o) := by
  cases sl
  · exact of_slot (sl := .c) rfl (congrArg (fun x => some (Instr.remu .c x)) o.ofBits_bits)
  · exact of_slot (sl := .s) rfl (congrArg (fun x => some (Instr.remu .s x)) o.ofBits_bits)
theorem and (sl : CS) (o : RR) : Statement (.and sl o) := by
  cases sl
  · exact of_slot (sl := .c) rfl (congrArg (fun x => some (Instr.and .c x)) o.ofBits_bits)
  · exact of_slot (sl := .s) rfl (congrArg (fun x => some (Instr.and .s x)) o.ofBits_bits)
theorem andi (sl : CS) (o : RI) : Statement (.andi sl o) := by
  cases sl
  · exact of_slot (sl := .c) rfl (congrArg (fun x => some (Instr.andi .c x)) o.ofBits_bits)
  · exact of_slot (sl := .s) rfl (congrArg (fun x => some (Instr.andi .s x)) o.ofBits_bits)
theorem or (sl : CS) (o : RR) : Statement (.or sl o) := by
  cases sl
  · exact of_slot (sl := .c) rfl (congrArg (fun x => some (Instr.or .c x)) o.ofBits_bits)
  · exact of_slot (sl := .s) rfl (congrArg (fun x => some (Instr.or .s x)) o.ofBits_bits)
theorem ori (sl : CS) (o : RI) : Statement (.ori sl o) := by
  cases sl
  · exact of_slot (sl := .c) rfl (congrArg (fun x => some (Instr.ori .c x)) o.ofBits_bits)
  · exact of_slot (sl := .s) rfl (congrArg (fun x => some (Instr.ori .s x)) o.ofBits_bits)
theorem xor (sl : CS) (o : RR) : Statement (.xor sl o) := by
  cases sl
  · exact of_slot (sl := .c) rfl (congrArg (fun x => some (Instr.xor .c x)) o.ofBits_bits)
  · exact of_slot (sl := .s) rfl (congrArg (fun x => some (Instr.xor .s x)) o.ofBits_bits)
theorem xori (sl : CS) (o : RI) : Statement (.xori sl o) := by
  cases sl
  · exact of_slot (sl := .c) rfl (congrArg (fun x => some (Instr.xori .c x)) o.ofBits_bits)
  · exact of_slot (sl := .s) rfl (congrArg (fun x => some (Instr.xori .s x)) o.ofBits_bits)
theorem shl (sl : CS) (o : RR) : Statement (.shl sl o) := by
  cases sl
  · exact of_slot (sl := .c) rfl (congrArg (fun x => some (Instr.shl .c x)) o.ofBits_bits)
  · exact of_slot (sl := .s) rfl (congrArg (fun x => some (Instr.shl .s x)) o.ofBits_bits)
theorem shli (sl : CS) (o : RI) : Statement (.shli sl o) := by
  cases sl
  · exact of_slot (sl := .c) rfl (congrArg (fun x => some (Instr.shli .c x)) o.ofBits_bits)
  · exact of_slot (sl := .s) rfl (congrArg (fun x => some (Instr.shli .s x)) o.ofBits_bits)
theorem shr (sl : CS) (o : RR) : Statement (.shr sl o) := by
  cases sl
  · exact of_slot (sl := .c) rfl (congrArg (fun x => some (Instr.shr .c x)) o.ofBits_bits)
  · exact of_slot (sl := .s) rfl (congrArg (fun x => some (Instr.shr .s x)) o.ofBits_bits)
theorem shri (sl : CS) (o : RI) : Statement (.shri sl o) := by
  cases sl
  · exact of_slot (sl := .c) rfl (congrArg (fun x => some (Instr.shri .c x)) o.ofBits_bits)
  · exact of_slot (sl := .s) rfl (congrArg (fun x => some (Instr.shri .s x)) o.ofBits_bits)
theorem sar (sl : CS) (o : RR) : Statement (.sar sl o) := by
  cases sl
  · exact of_slot (sl := .c) rfl (congrArg (fun x => some (Instr.sar .c x)) o.ofBits_bits)
  · exact of_slot (sl := .s) rfl (congrArg (fun x => some (Instr.sar .s x)) o.ofBits_bits)
theorem sari (sl : CS) (o : RI) : Statement (.sari sl o) := by
  cases sl
  · exact of_slot (sl := .c) rfl (congrArg (fun x => some (Instr.sari .c x)) o.ofBits_bits)
  · exact of_slot (sl := .s) rfl (congrArg (fun x => some (Instr.sari .s x)) o.ofBits_bits)
theorem ror (sl : CS) (o : RR) : Statement (.ror sl o) := by
  cases sl
  · exact of_slot (sl := .c) rfl (congrArg (fun x => some (Instr.ror .c x)) o.ofBits_bits)
  · exact of_slot (sl := .s) rfl (congrArg (fun x => some (Instr.ror .s x)) o.ofBits_bits)
theorem min (sl : CS) (o : RR) : Statement (.min sl o) := by
  cases sl
  · exact of_slot (sl := .c) rfl (congrArg (fun x => some (Instr.min .c x)) o.ofBits_bits)
  · exact of_slot (sl := .s) rfl (congrArg (fun x => some (Instr.min .s x)) o.ofBits_bits)
theorem minu (sl : CS) (o : RR) : Statement (.minu sl o) := by
  cases sl
  · exact of_slot (sl := .c) rfl (congrArg (fun x => some (Instr.minu .c x)) o.ofBits_bits)
  · exact of_slot (sl := .s) rfl (congrArg (fun x => some (Instr.minu .s x)) o.ofBits_bits)
theorem max (sl : CS) (o : RR) : Statement (.max sl o) := by
  cases sl
  · exact of_slot (sl := .c) rfl (congrArg (fun x => some (Instr.max .c x)) o.ofBits_bits)
  · exact of_slot (sl := .s) rfl (congrArg (fun x => some (Instr.max .s x)) o.ofBits_bits)
theorem maxu (sl : CS) (o : RR) : Statement (.maxu sl o) := by
  cases sl
  · exact of_slot (sl := .c) rfl (congrArg (fun x => some (Instr.maxu .c x)) o.ofBits_bits)
  · exact of_slot (sl := .s) rfl (congrArg (fun x => some (Instr.maxu .s x)) o.ofBits_bits)
theorem clz (sl : CS) (o : RR) : Statement (.clz sl o) := by
  cases sl
  · exact of_slot (sl := .c) rfl (congrArg (fun x => some (Instr.clz .c x)) o.ofBits_bits)
  · exact of_slot (sl := .s) rfl (congrArg (fun x => some (Instr.clz .s x)) o.ofBits_bits)
theorem ctz (sl : CS) (o : RR) : Statement (.ctz sl o) := by
  cases sl
  · exact of_slot (sl := .c) rfl (congrArg (fun x => some (Instr.ctz .c x)) o.ofBits_bits)
  · exact of_slot (sl := .s) rfl (congrArg (fun x => some (Instr.ctz .s x)) o.ofBits_bits)
theorem popc (sl : CS) (o : RR) : Statement (.popc sl o) := by
  cases sl
  · exact of_slot (sl := .c) rfl (congrArg (fun x => some (Instr.popc .c x)) o.ofBits_bits)
  · exact of_slot (sl := .s) rfl (congrArg (fun x => some (Instr.popc .s x)) o.ofBits_bits)
theorem slt (sl : CS) (o : RR) : Statement (.slt sl o) := by
  cases sl
  · exact of_slot (sl := .c) rfl (congrArg (fun x => some (Instr.slt .c x)) o.ofBits_bits)
  · exact of_slot (sl := .s) rfl (congrArg (fun x => some (Instr.slt .s x)) o.ofBits_bits)
theorem sltu (sl : CS) (o : RR) : Statement (.sltu sl o) := by
  cases sl
  · exact of_slot (sl := .c) rfl (congrArg (fun x => some (Instr.sltu .c x)) o.ofBits_bits)
  · exact of_slot (sl := .s) rfl (congrArg (fun x => some (Instr.sltu .s x)) o.ofBits_bits)
theorem sel (sl : CS) (o : RR) : Statement (.sel sl o) := by
  cases sl
  · exact of_slot (sl := .c) rfl (congrArg (fun x => some (Instr.sel .c x)) o.ofBits_bits)
  · exact of_slot (sl := .s) rfl (congrArg (fun x => some (Instr.sel .s x)) o.ofBits_bits)
theorem movi (sl : CS) (o : MI) : Statement (.movi sl o) := by
  cases sl
  · exact of_slot (sl := .c) rfl (congrArg (fun x => some (Instr.movi .c x)) o.ofBits_bits)
  · exact of_slot (sl := .s) rfl (congrArg (fun x => some (Instr.movi .s x)) o.ofBits_bits)
theorem movk (sl : CS) (o : MK) : Statement (.movk sl o) := by
  cases sl
  · exact of_slot (sl := .c) rfl (congrArg (fun x => some (Instr.movk .c x)) o.ofBits_bits)
  · exact of_slot (sl := .s) rfl (congrArg (fun x => some (Instr.movk .s x)) o.ofBits_bits)
theorem sext (sl : CS) (o : RI) : Statement (.sext sl o) := by
  cases sl
  · exact of_slot (sl := .c) rfl (congrArg (fun x => some (Instr.sext .c x)) o.ofBits_bits)
  · exact of_slot (sl := .s) rfl (congrArg (fun x => some (Instr.sext .s x)) o.ofBits_bits)
theorem sfadd (sl : CS) (o : RR) : Statement (.sfadd sl o) := by
  cases sl
  · exact of_slot (sl := .c) rfl (congrArg (fun x => some (Instr.sfadd .c x)) o.ofBits_bits)
  · exact of_slot (sl := .s) rfl (congrArg (fun x => some (Instr.sfadd .s x)) o.ofBits_bits)
theorem sfsub (sl : CS) (o : RR) : Statement (.sfsub sl o) := by
  cases sl
  · exact of_slot (sl := .c) rfl (congrArg (fun x => some (Instr.sfsub .c x)) o.ofBits_bits)
  · exact of_slot (sl := .s) rfl (congrArg (fun x => some (Instr.sfsub .s x)) o.ofBits_bits)
theorem sfmul (sl : CS) (o : RR) : Statement (.sfmul sl o) := by
  cases sl
  · exact of_slot (sl := .c) rfl (congrArg (fun x => some (Instr.sfmul .c x)) o.ofBits_bits)
  · exact of_slot (sl := .s) rfl (congrArg (fun x => some (Instr.sfmul .s x)) o.ofBits_bits)
theorem sffma (sl : CS) (o : RR) : Statement (.sffma sl o) := by
  cases sl
  · exact of_slot (sl := .c) rfl (congrArg (fun x => some (Instr.sffma .c x)) o.ofBits_bits)
  · exact of_slot (sl := .s) rfl (congrArg (fun x => some (Instr.sffma .s x)) o.ofBits_bits)
theorem sfmin (sl : CS) (o : RR) : Statement (.sfmin sl o) := by
  cases sl
  · exact of_slot (sl := .c) rfl (congrArg (fun x => some (Instr.sfmin .c x)) o.ofBits_bits)
  · exact of_slot (sl := .s) rfl (congrArg (fun x => some (Instr.sfmin .s x)) o.ofBits_bits)
theorem sfmax (sl : CS) (o : RR) : Statement (.sfmax sl o) := by
  cases sl
  · exact of_slot (sl := .c) rfl (congrArg (fun x => some (Instr.sfmax .c x)) o.ofBits_bits)
  · exact of_slot (sl := .s) rfl (congrArg (fun x => some (Instr.sfmax .s x)) o.ofBits_bits)
theorem sfcmp (sl : CS) (o : RR) : Statement (.sfcmp sl o) := by
  cases sl
  · exact of_slot (sl := .c) rfl (congrArg (fun x => some (Instr.sfcmp .c x)) o.ofBits_bits)
  · exact of_slot (sl := .s) rfl (congrArg (fun x => some (Instr.sfcmp .s x)) o.ofBits_bits)
theorem sfcvt (sl : CS) (o : RR) : Statement (.sfcvt sl o) := by
  cases sl
  · exact of_slot (sl := .c) rfl (congrArg (fun x => some (Instr.sfcvt .c x)) o.ofBits_bits)
  · exact of_slot (sl := .s) rfl (congrArg (fun x => some (Instr.sfcvt .s x)) o.ofBits_bits)
theorem ldB (o : LS) : Statement (.ldB o) := of_slot (sl := .s) rfl (congrArg (fun x => some (Instr.ldB x)) o.ofBits_bits)
theorem ldBu (o : LS) : Statement (.ldBu o) := of_slot (sl := .s) rfl (congrArg (fun x => some (Instr.ldBu x)) o.ofBits_bits)
theorem ldH (o : LS) : Statement (.ldH o) := of_slot (sl := .s) rfl (congrArg (fun x => some (Instr.ldH x)) o.ofBits_bits)
theorem ldHu (o : LS) : Statement (.ldHu o) := of_slot (sl := .s) rfl (congrArg (fun x => some (Instr.ldHu x)) o.ofBits_bits)
theorem ldW (o : LS) : Statement (.ldW o) := of_slot (sl := .s) rfl (congrArg (fun x => some (Instr.ldW x)) o.ofBits_bits)
theorem ldWu (o : LS) : Statement (.ldWu o) := of_slot (sl := .s) rfl (congrArg (fun x => some (Instr.ldWu x)) o.ofBits_bits)
theorem ldD (o : LS) : Statement (.ldD o) := of_slot (sl := .s) rfl (congrArg (fun x => some (Instr.ldD x)) o.ofBits_bits)
theorem stB (o : LS) : Statement (.stB o) := of_slot (sl := .s) rfl (congrArg (fun x => some (Instr.stB x)) o.ofBits_bits)
theorem stH (o : LS) : Statement (.stH o) := of_slot (sl := .s) rfl (congrArg (fun x => some (Instr.stH x)) o.ofBits_bits)
theorem stW (o : LS) : Statement (.stW o) := of_slot (sl := .s) rfl (congrArg (fun x => some (Instr.stW x)) o.ofBits_bits)
theorem stD (o : LS) : Statement (.stD o) := of_slot (sl := .s) rfl (congrArg (fun x => some (Instr.stD x)) o.ofBits_bits)
theorem ataddW (o : AT) : Statement (.ataddW o) := of_slot (sl := .s) rfl (congrArg (fun x => some (Instr.ataddW x)) o.ofBits_bits)
theorem ataddD (o : AT) : Statement (.ataddD o) := of_slot (sl := .s) rfl (congrArg (fun x => some (Instr.ataddD x)) o.ofBits_bits)
theorem atminW (o : AT) : Statement (.atminW o) := of_slot (sl := .s) rfl (congrArg (fun x => some (Instr.atminW x)) o.ofBits_bits)
theorem atminD (o : AT) : Statement (.atminD o) := of_slot (sl := .s) rfl (congrArg (fun x => some (Instr.atminD x)) o.ofBits_bits)
theorem atmaxW (o : AT) : Statement (.atmaxW o) := of_slot (sl := .s) rfl (congrArg (fun x => some (Instr.atmaxW x)) o.ofBits_bits)
theorem atmaxD (o : AT) : Statement (.atmaxD o) := of_slot (sl := .s) rfl (congrArg (fun x => some (Instr.atmaxD x)) o.ofBits_bits)
theorem atandW (o : AT) : Statement (.atandW o) := of_slot (sl := .s) rfl (congrArg (fun x => some (Instr.atandW x)) o.ofBits_bits)
theorem atandD (o : AT) : Statement (.atandD o) := of_slot (sl := .s) rfl (congrArg (fun x => some (Instr.atandD x)) o.ofBits_bits)
theorem atorW (o : AT) : Statement (.atorW o) := of_slot (sl := .s) rfl (congrArg (fun x => some (Instr.atorW x)) o.ofBits_bits)
theorem atorD (o : AT) : Statement (.atorD o) := of_slot (sl := .s) rfl (congrArg (fun x => some (Instr.atorD x)) o.ofBits_bits)
theorem atxorW (o : AT) : Statement (.atxorW o) := of_slot (sl := .s) rfl (congrArg (fun x => some (Instr.atxorW x)) o.ofBits_bits)
theorem atxorD (o : AT) : Statement (.atxorD o) := of_slot (sl := .s) rfl (congrArg (fun x => some (Instr.atxorD x)) o.ofBits_bits)
theorem atswpW (o : AT) : Statement (.atswpW o) := of_slot (sl := .s) rfl (congrArg (fun x => some (Instr.atswpW x)) o.ofBits_bits)
theorem atswpD (o : AT) : Statement (.atswpD o) := of_slot (sl := .s) rfl (congrArg (fun x => some (Instr.atswpD x)) o.ofBits_bits)
theorem atcasW (o : AT) : Statement (.atcasW o) := of_slot (sl := .s) rfl (congrArg (fun x => some (Instr.atcasW x)) o.ofBits_bits)
theorem atcasD (o : AT) : Statement (.atcasD o) := of_slot (sl := .s) rfl (congrArg (fun x => some (Instr.atcasD x)) o.ofBits_bits)
theorem vldt (o : VT) : Statement (.vldt o) := of_slot (sl := .s) rfl (congrArg (fun x => some (Instr.vldt x)) o.ofBits_bits)
theorem vstt (o : VT) : Statement (.vstt o) := of_slot (sl := .s) rfl (congrArg (fun x => some (Instr.vstt x)) o.ofBits_bits)
theorem vldts (o : VT) : Statement (.vldts o) := of_slot (sl := .s) rfl (congrArg (fun x => some (Instr.vldts x)) o.ofBits_bits)
theorem vgtht (o : VT) : Statement (.vgtht o) := of_slot (sl := .s) rfl (congrArg (fun x => some (Instr.vgtht x)) o.ofBits_bits)
theorem vins (o : VT) : Statement (.vins o) := of_slot (sl := .s) rfl (congrArg (fun x => some (Instr.vins x)) o.ofBits_bits)
theorem vext (o : VT) : Statement (.vext o) := of_slot (sl := .s) rfl (congrArg (fun x => some (Instr.vext x)) o.ofBits_bits)
theorem vadd (sl : VW) (o : VE) : Statement (.vadd sl o) := by
  cases sl
  · exact of_slot (sl := .v) rfl (congrArg (fun x => some (Instr.vadd .v x)) o.ofBits_bits)
  · exact of_slot (sl := .w) rfl (congrArg (fun x => some (Instr.vadd .w x)) o.ofBits_bits)
theorem vsub (sl : VW) (o : VE) : Statement (.vsub sl o) := by
  cases sl
  · exact of_slot (sl := .v) rfl (congrArg (fun x => some (Instr.vsub .v x)) o.ofBits_bits)
  · exact of_slot (sl := .w) rfl (congrArg (fun x => some (Instr.vsub .w x)) o.ofBits_bits)
theorem vmul (sl : VW) (o : VE) : Statement (.vmul sl o) := by
  cases sl
  · exact of_slot (sl := .v) rfl (congrArg (fun x => some (Instr.vmul .v x)) o.ofBits_bits)
  · exact of_slot (sl := .w) rfl (congrArg (fun x => some (Instr.vmul .w x)) o.ofBits_bits)
theorem vfma (sl : VW) (o : VE) : Statement (.vfma sl o) := by
  cases sl
  · exact of_slot (sl := .v) rfl (congrArg (fun x => some (Instr.vfma .v x)) o.ofBits_bits)
  · exact of_slot (sl := .w) rfl (congrArg (fun x => some (Instr.vfma .w x)) o.ofBits_bits)
theorem vfms (sl : VW) (o : VE) : Statement (.vfms sl o) := by
  cases sl
  · exact of_slot (sl := .v) rfl (congrArg (fun x => some (Instr.vfms .v x)) o.ofBits_bits)
  · exact of_slot (sl := .w) rfl (congrArg (fun x => some (Instr.vfms .w x)) o.ofBits_bits)
theorem vmin (sl : VW) (o : VE) : Statement (.vmin sl o) := by
  cases sl
  · exact of_slot (sl := .v) rfl (congrArg (fun x => some (Instr.vmin .v x)) o.ofBits_bits)
  · exact of_slot (sl := .w) rfl (congrArg (fun x => some (Instr.vmin .w x)) o.ofBits_bits)
theorem vmax (sl : VW) (o : VE) : Statement (.vmax sl o) := by
  cases sl
  · exact of_slot (sl := .v) rfl (congrArg (fun x => some (Instr.vmax .v x)) o.ofBits_bits)
  · exact of_slot (sl := .w) rfl (congrArg (fun x => some (Instr.vmax .w x)) o.ofBits_bits)
theorem vabs (sl : VW) (o : VE) : Statement (.vabs sl o) := by
  cases sl
  · exact of_slot (sl := .v) rfl (congrArg (fun x => some (Instr.vabs .v x)) o.ofBits_bits)
  · exact of_slot (sl := .w) rfl (congrArg (fun x => some (Instr.vabs .w x)) o.ofBits_bits)
theorem vneg (sl : VW) (o : VE) : Statement (.vneg sl o) := by
  cases sl
  · exact of_slot (sl := .v) rfl (congrArg (fun x => some (Instr.vneg .v x)) o.ofBits_bits)
  · exact of_slot (sl := .w) rfl (congrArg (fun x => some (Instr.vneg .w x)) o.ofBits_bits)
theorem vand (sl : VW) (o : VE) : Statement (.vand sl o) := by
  cases sl
  · exact of_slot (sl := .v) rfl (congrArg (fun x => some (Instr.vand .v x)) o.ofBits_bits)
  · exact of_slot (sl := .w) rfl (congrArg (fun x => some (Instr.vand .w x)) o.ofBits_bits)
theorem vor (sl : VW) (o : VE) : Statement (.vor sl o) := by
  cases sl
  · exact of_slot (sl := .v) rfl (congrArg (fun x => some (Instr.vor .v x)) o.ofBits_bits)
  · exact of_slot (sl := .w) rfl (congrArg (fun x => some (Instr.vor .w x)) o.ofBits_bits)
theorem vxor (sl : VW) (o : VE) : Statement (.vxor sl o) := by
  cases sl
  · exact of_slot (sl := .v) rfl (congrArg (fun x => some (Instr.vxor .v x)) o.ofBits_bits)
  · exact of_slot (sl := .w) rfl (congrArg (fun x => some (Instr.vxor .w x)) o.ofBits_bits)
theorem vnot (sl : VW) (o : VE) : Statement (.vnot sl o) := by
  cases sl
  · exact of_slot (sl := .v) rfl (congrArg (fun x => some (Instr.vnot .v x)) o.ofBits_bits)
  · exact of_slot (sl := .w) rfl (congrArg (fun x => some (Instr.vnot .w x)) o.ofBits_bits)
theorem vshl (sl : VW) (o : VE) : Statement (.vshl sl o) := by
  cases sl
  · exact of_slot (sl := .v) rfl (congrArg (fun x => some (Instr.vshl .v x)) o.ofBits_bits)
  · exact of_slot (sl := .w) rfl (congrArg (fun x => some (Instr.vshl .w x)) o.ofBits_bits)
theorem vshr (sl : VW) (o : VE) : Statement (.vshr sl o) := by
  cases sl
  · exact of_slot (sl := .v) rfl (congrArg (fun x => some (Instr.vshr .v x)) o.ofBits_bits)
  · exact of_slot (sl := .w) rfl (congrArg (fun x => some (Instr.vshr .w x)) o.ofBits_bits)
theorem vsar (sl : VW) (o : VE) : Statement (.vsar sl o) := by
  cases sl
  · exact of_slot (sl := .v) rfl (congrArg (fun x => some (Instr.vsar .v x)) o.ofBits_bits)
  · exact of_slot (sl := .w) rfl (congrArg (fun x => some (Instr.vsar .w x)) o.ofBits_bits)
theorem vcmp (sl : VW) (o : VE) : Statement (.vcmp sl o) := by
  cases sl
  · exact of_slot (sl := .v) rfl (congrArg (fun x => some (Instr.vcmp .v x)) o.ofBits_bits)
  · exact of_slot (sl := .w) rfl (congrArg (fun x => some (Instr.vcmp .w x)) o.ofBits_bits)
theorem vsel (sl : VW) (o : VE) : Statement (.vsel sl o) := by
  cases sl
  · exact of_slot (sl := .v) rfl (congrArg (fun x => some (Instr.vsel .v x)) o.ofBits_bits)
  · exact of_slot (sl := .w) rfl (congrArg (fun x => some (Instr.vsel .w x)) o.ofBits_bits)
theorem vcvt (sl : VW) (o : VE) : Statement (.vcvt sl o) := by
  cases sl
  · exact of_slot (sl := .v) rfl (congrArg (fun x => some (Instr.vcvt .v x)) o.ofBits_bits)
  · exact of_slot (sl := .w) rfl (congrArg (fun x => some (Instr.vcvt .w x)) o.ofBits_bits)
theorem vmov (sl : VW) (o : VE) : Statement (.vmov sl o) := by
  cases sl
  · exact of_slot (sl := .v) rfl (congrArg (fun x => some (Instr.vmov .v x)) o.ofBits_bits)
  · exact of_slot (sl := .w) rfl (congrArg (fun x => some (Instr.vmov .w x)) o.ofBits_bits)
theorem vsplat (sl : VW) (o : VE) : Statement (.vsplat sl o) := by
  cases sl
  · exact of_slot (sl := .v) rfl (congrArg (fun x => some (Instr.vsplat .v x)) o.ofBits_bits)
  · exact of_slot (sl := .w) rfl (congrArg (fun x => some (Instr.vsplat .w x)) o.ofBits_bits)
theorem vsplati (sl : VW) (o : VE) : Statement (.vsplati sl o) := by
  cases sl
  · exact of_slot (sl := .v) rfl (congrArg (fun x => some (Instr.vsplati .v x)) o.ofBits_bits)
  · exact of_slot (sl := .w) rfl (congrArg (fun x => some (Instr.vsplati .w x)) o.ofBits_bits)
theorem viota (sl : VW) (o : VE) : Statement (.viota sl o) := by
  cases sl
  · exact of_slot (sl := .v) rfl (congrArg (fun x => some (Instr.viota .v x)) o.ofBits_bits)
  · exact of_slot (sl := .w) rfl (congrArg (fun x => some (Instr.viota .w x)) o.ofBits_bits)
theorem vreds (sl : VW) (o : VE) : Statement (.vreds sl o) := by
  cases sl
  · exact of_slot (sl := .v) rfl (congrArg (fun x => some (Instr.vreds .v x)) o.ofBits_bits)
  · exact of_slot (sl := .w) rfl (congrArg (fun x => some (Instr.vreds .w x)) o.ofBits_bits)
theorem vredm (sl : VW) (o : VE) : Statement (.vredm sl o) := by
  cases sl
  · exact of_slot (sl := .v) rfl (congrArg (fun x => some (Instr.vredm .v x)) o.ofBits_bits)
  · exact of_slot (sl := .w) rfl (congrArg (fun x => some (Instr.vredm .w x)) o.ofBits_bits)
theorem vscan (sl : VW) (o : VE) : Statement (.vscan sl o) := by
  cases sl
  · exact of_slot (sl := .v) rfl (congrArg (fun x => some (Instr.vscan .v x)) o.ofBits_bits)
  · exact of_slot (sl := .w) rfl (congrArg (fun x => some (Instr.vscan .w x)) o.ofBits_bits)
theorem vclmp (sl : VW) (o : VE) : Statement (.vclmp sl o) := by
  cases sl
  · exact of_slot (sl := .v) rfl (congrArg (fun x => some (Instr.vclmp .v x)) o.ofBits_bits)
  · exact of_slot (sl := .w) rfl (congrArg (fun x => some (Instr.vclmp .w x)) o.ofBits_bits)
theorem vrcp (o : VE) : Statement (.vrcp o) := of_slot (sl := .w) rfl (congrArg (fun x => some (Instr.vrcp x)) o.ofBits_bits)
theorem vrsq (o : VE) : Statement (.vrsq o) := of_slot (sl := .w) rfl (congrArg (fun x => some (Instr.vrsq x)) o.ofBits_bits)
theorem vsqrt (o : VE) : Statement (.vsqrt o) := of_slot (sl := .w) rfl (congrArg (fun x => some (Instr.vsqrt x)) o.ofBits_bits)
theorem vexp2 (o : VE) : Statement (.vexp2 o) := of_slot (sl := .w) rfl (congrArg (fun x => some (Instr.vexp2 x)) o.ofBits_bits)
theorem vlog2 (o : VE) : Statement (.vlog2 o) := of_slot (sl := .w) rfl (congrArg (fun x => some (Instr.vlog2 x)) o.ofBits_bits)
theorem vtanh (o : VE) : Statement (.vtanh o) := of_slot (sl := .w) rfl (congrArg (fun x => some (Instr.vtanh x)) o.ofBits_bits)
theorem xperm_sel (o : XB) (w : (Instr.xperm o).wf = true) : opcodeTable .x 0x01 o.bits = some (.xperm o) := by
  have e : opcodeX 0x01 o.bits = (if (o.bits.extractLsb' 0 1).toNat = 0 then some (.xperm (.ofBits o.bits)) else some (.xpermScat (.ofBits o.bits))) := rfl
  simp [Instr.wf, Instr.legal, Instr.fieldsOk] at w
  simp [XB.sel_of_bits, XB.ofBits_bits, w] at e
  exact e
theorem xperm (o : XB) : Statement (.xperm o) := by
  intro w k h
  cases h
  exact xperm_sel o w
theorem xpermScat_sel (o : XB) (w : (Instr.xpermScat o).wf = true) : opcodeTable .x 0x01 o.bits = some (.xpermScat o) := by
  have e : opcodeX 0x01 o.bits = (if (o.bits.extractLsb' 0 1).toNat = 0 then some (.xperm (.ofBits o.bits)) else some (.xpermScat (.ofBits o.bits))) := rfl
  simp [Instr.wf, Instr.legal, Instr.fieldsOk] at w
  simp [XB.sel_of_bits, XB.ofBits_bits, w] at e
  exact e
theorem xpermScat (o : XB) : Statement (.xpermScat o) := by
  intro w k h
  cases h
  exact xpermScat_sel o w
theorem xrot (o : XB) : Statement (.xrot o) := of_slot (sl := .x) rfl (congrArg (fun x => some (Instr.xrot x)) o.ofBits_bits)
theorem xzip (o : XB) : Statement (.xzip o) := of_slot (sl := .x) rfl (congrArg (fun x => some (Instr.xzip x)) o.ofBits_bits)
theorem xunzip (o : XB) : Statement (.xunzip o) := of_slot (sl := .x) rfl (congrArg (fun x => some (Instr.xunzip x)) o.ofBits_bits)
theorem xbcst (o : XB) : Statement (.xbcst o) := of_slot (sl := .x) rfl (congrArg (fun x => some (Instr.xbcst x)) o.ofBits_bits)
theorem xcmpr (o : XB) : Statement (.xcmpr o) := of_slot (sl := .x) rfl (congrArg (fun x => some (Instr.xcmpr x)) o.ofBits_bits)
theorem xexpd (o : XB) : Statement (.xexpd o) := of_slot (sl := .x) rfl (congrArg (fun x => some (Instr.xexpd x)) o.ofBits_bits)
theorem talloc (o : TA) : Statement (.talloc o) := of_slot (sl := .t) rfl (congrArg (fun x => some (Instr.talloc x)) o.ofBits_bits)
theorem tfree (o : TX) : Statement (.tfree o) := of_slot (sl := .t) rfl (congrArg (fun x => some (Instr.tfree x)) o.ofBits_bits)
theorem tpark (o : TX) : Statement (.tpark o) := of_slot (sl := .t) rfl (congrArg (fun x => some (Instr.tpark x)) o.ofBits_bits)
theorem twake (o : TX) : Statement (.twake o) := of_slot (sl := .t) rfl (congrArg (fun x => some (Instr.twake x)) o.ofBits_bits)
theorem tload (o : TM) : Statement (.tload o) := of_slot (sl := .t) rfl (congrArg (fun x => some (Instr.tload x)) o.ofBits_bits)
theorem tstore (o : TM) : Statement (.tstore o) := of_slot (sl := .t) rfl (congrArg (fun x => some (Instr.tstore x)) o.ofBits_bits)
theorem tfill (o : TX) : Statement (.tfill o) := of_slot (sl := .t) rfl (congrArg (fun x => some (Instr.tfill x)) o.ofBits_bits)
theorem tcopy (o : TX) : Statement (.tcopy o) := of_slot (sl := .t) rfl (congrArg (fun x => some (Instr.tcopy x)) o.ofBits_bits)
theorem ttrans (o : TX) : Statement (.ttrans o) := of_slot (sl := .t) rfl (congrArg (fun x => some (Instr.ttrans x)) o.ofBits_bits)
theorem tcvt (o : TX) : Statement (.tcvt o) := of_slot (sl := .t) rfl (congrArg (fun x => some (Instr.tcvt x)) o.ofBits_bits)
theorem tplane (o : TX) : Statement (.tplane o) := of_slot (sl := .t) rfl (congrArg (fun x => some (Instr.tplane x)) o.ofBits_bits)
theorem tscale_sel (o : TX) (w : (Instr.tscale o).wf = true) : opcodeTable .t 0x0C o.bits = some (.tscale o) := by
  have e : opcodeT 0x0C o.bits = (if (o.bits.extractLsb' 7 2).toNat = 0 then some (.tscale (.ofBits o.bits)) else if (o.bits.extractLsb' 7 2).toNat = 1 then some (.tscaleBs (.ofBits o.bits)) else some (.tscaleNobs (.ofBits o.bits))) := rfl
  simp [Instr.wf, Instr.legal, Instr.fieldsOk] at w
  have q : o.fn.extractLsb' 7 2 = 0 := w.2
  simp [TX.sel_of_bits, TX.ofBits_bits, q] at e
  exact e
theorem tscale (o : TX) : Statement (.tscale o) := by
  intro w k h
  cases h
  exact tscale_sel o w
theorem tscaleBs_sel (o : TX) (w : (Instr.tscaleBs o).wf = true) : opcodeTable .t 0x0C o.bits = some (.tscaleBs o) := by
  have e : opcodeT 0x0C o.bits = (if (o.bits.extractLsb' 7 2).toNat = 0 then some (.tscale (.ofBits o.bits)) else if (o.bits.extractLsb' 7 2).toNat = 1 then some (.tscaleBs (.ofBits o.bits)) else some (.tscaleNobs (.ofBits o.bits))) := rfl
  simp [Instr.wf, Instr.legal, Instr.fieldsOk] at w
  simp [TX.sel_of_bits, TX.ofBits_bits, w] at e
  exact e
theorem tscaleBs (o : TX) : Statement (.tscaleBs o) := by
  intro w k h
  cases h
  exact tscaleBs_sel o w
theorem tscaleNobs_sel (o : TX) (w : (Instr.tscaleNobs o).wf = true) : opcodeTable .t 0x0C o.bits = some (.tscaleNobs o) := by
  have e : opcodeT 0x0C o.bits = (if (o.bits.extractLsb' 7 2).toNat = 0 then some (.tscale (.ofBits o.bits)) else if (o.bits.extractLsb' 7 2).toNat = 1 then some (.tscaleBs (.ofBits o.bits)) else some (.tscaleNobs (.ofBits o.bits))) := rfl
  simp [Instr.wf, Instr.legal, Instr.fieldsOk] at w
  simp [TX.sel_of_bits, TX.ofBits_bits, w] at e
  exact e
theorem tscaleNobs (o : TX) : Statement (.tscaleNobs o) := by
  intro w k h
  cases h
  exact tscaleNobs_sel o w
theorem tsqld (o : TX) : Statement (.tsqld o) := of_slot (sl := .t) rfl (congrArg (fun x => some (Instr.tsqld x)) o.ofBits_bits)
theorem mma (o : MM) : Statement (.mma o) := of_slot (sl := .t) rfl (congrArg (fun x => some (Instr.mma x)) o.ofBits_bits)
theorem aclr (o : TQ) : Statement (.aclr o) := of_slot (sl := .t) rfl (congrArg (fun x => some (Instr.aclr x)) o.ofBits_bits)
theorem asetq (o : TQ) : Statement (.asetq o) := of_slot (sl := .t) rfl (congrArg (fun x => some (Instr.asetq x)) o.ofBits_bits)
theorem acvt (o : TX) : Statement (.acvt o) := of_slot (sl := .t) rfl (congrArg (fun x => some (Instr.acvt x)) o.ofBits_bits)
theorem aaddt (o : TX) : Statement (.aaddt o) := of_slot (sl := .t) rfl (congrArg (fun x => some (Instr.aaddt x)) o.ofBits_bits)
theorem achk (o : TX) : Statement (.achk o) := of_slot (sl := .t) rfl (congrArg (fun x => some (Instr.achk x)) o.ofBits_bits)
theorem afix (o : TX) : Statement (.afix o) := of_slot (sl := .t) rfl (congrArg (fun x => some (Instr.afix x)) o.ofBits_bits)
theorem tckpt (o : TM) : Statement (.tckpt o) := of_slot (sl := .t) rfl (congrArg (fun x => some (Instr.tckpt x)) o.ofBits_bits)
theorem fwait (o : YF) : Statement (.fwait o) := of_slot (sl := .y) rfl (congrArg (fun x => some (Instr.fwait x)) o.ofBits_bits)
theorem fpost (o : YF) : Statement (.fpost o) := of_slot (sl := .y) rfl (congrArg (fun x => some (Instr.fpost x)) o.ofBits_bits)
theorem fpostr (o : YF) : Statement (.fpostr o) := of_slot (sl := .y) rfl (congrArg (fun x => some (Instr.fpostr x)) o.ofBits_bits)
theorem fset (o : YF) : Statement (.fset o) := of_slot (sl := .y) rfl (congrArg (fun x => some (Instr.fset x)) o.ofBits_bits)
theorem frd (o : YF) : Statement (.frd o) := of_slot (sl := .y) rfl (congrArg (fun x => some (Instr.frd x)) o.ofBits_bits)
theorem bar (o : YF) : Statement (.bar o) := of_slot (sl := .y) rfl (congrArg (fun x => some (Instr.bar x)) o.ofBits_bits)
theorem fence (o : YF) : Statement (.fence o) := of_slot (sl := .y) rfl (congrArg (fun x => some (Instr.fence x)) o.ofBits_bits)
theorem tmwait_sel (o : YF) (w : (Instr.tmwait o).wf = true) : opcodeTable .y 0x08 o.bits = some (.tmwait o) := by
  have e : opcodeY 0x08 o.bits = (if (o.bits.extractLsb' 16 1).toNat = 0 then some (.tmwait (.ofBits o.bits)) else some (.tmwaitRel (.ofBits o.bits))) := rfl
  simp [Instr.wf, Instr.legal, Instr.fieldsOk] at w
  simp [YF.rt_of_bits, YF.ofBits_bits, w] at e
  exact e
theorem tmwait (o : YF) : Statement (.tmwait o) := by
  intro w k h
  cases h
  exact tmwait_sel o w
theorem tmwaitRel_sel (o : YF) (w : (Instr.tmwaitRel o).wf = true) : opcodeTable .y 0x08 o.bits = some (.tmwaitRel o) := by
  have e : opcodeY 0x08 o.bits = (if (o.bits.extractLsb' 16 1).toNat = 0 then some (.tmwait (.ofBits o.bits)) else some (.tmwaitRel (.ofBits o.bits))) := rfl
  simp [Instr.wf, Instr.legal, Instr.fieldsOk] at w
  simp [YF.rt_of_bits, YF.ofBits_bits, w] at e
  exact e
theorem tmwaitRel (o : YF) : Statement (.tmwaitRel o) := by
  intro w k h
  cases h
  exact tmwaitRel_sel o w
theorem issueChoice (c : CoreId) : Statement (.issueChoice c) := fun _ _ h => nomatch h
theorem trapDelivery (x : CtxId) : Statement (.trapDelivery x) := fun _ _ h => nomatch h
theorem watchdog (x : CtxId) : Statement (.watchdog x) := fun _ _ h => nomatch h
theorem suspendRecordWrite (x : CtxId) : Statement (.suspendRecordWrite x) := fun _ _ h => nomatch h
theorem strandDone (x : CtxId) : Statement (.strandDone x) := fun _ _ h => nomatch h
theorem gangAdmission (d : Fin 4) : Statement (.gangAdmission d) := fun _ _ h => nomatch h
theorem continuationTakeUp (x : CtxId) : Statement (.continuationTakeUp x) := fun _ _ h => nomatch h
theorem entryStart (x : CtxId) (n : Nat) : Statement (.entryStart x n) := fun _ _ h => nomatch h
theorem tileEntryComplete (x : CtxId) (n : Nat) : Statement (.tileEntryComplete x n) := fun _ _ h => nomatch h
theorem mmaComplete (x : CtxId) (n : Nat) : Statement (.mmaComplete x n) := fun _ _ h => nomatch h
theorem holdRelease (x : CtxId) (n : Nat) : Statement (.holdRelease x n) := fun _ _ h => nomatch h
theorem copyStep (c : CoreId) : Statement (.copyStep c) := fun _ _ h => nomatch h
theorem energyRefill : Statement .energyRefill := fun _ _ h => nomatch h
theorem bandwidthRefill (d : Fin 4) : Statement (.bandwidthRefill d) := fun _ _ h => nomatch h
theorem deadlineMiss (x : CtxId) (n : Nat) : Statement (.deadlineMiss x n) := fun _ _ h => nomatch h
theorem fwaitSatisfied (x : CtxId) : Statement (.fwaitSatisfied x) := fun _ _ h => nomatch h
theorem fwaitPoll (x : CtxId) : Statement (.fwaitPoll x) := fun _ _ h => nomatch h
theorem tmwaitExpiry (x : CtxId) : Statement (.tmwaitExpiry x) := fun _ _ h => nomatch h
theorem fenceComplete (x : CtxId) : Statement (.fenceComplete x) := fun _ _ h => nomatch h
theorem pageWalk (c : CoreId) (dom : BitVec 12) (va : BitVec 48) (acc : Access) : Statement (.pageWalk c dom va acc) := fun _ _ h => nomatch h
theorem migrationCopyComplete (n : Nat) : Statement (.migrationCopyComplete n) := fun _ _ h => nomatch h
theorem mirrorCopyComplete (d : Fin 4) : Statement (.mirrorCopyComplete d) := fun _ _ h => nomatch h
theorem scrub (d : Fin 4) (line : BitVec 29) : Statement (.scrub d line) := fun _ _ h => nomatch h
theorem bankIdleOff (x : CtxId) (b : Fin 8) : Statement (.bankIdleOff x b) := fun _ _ h => nomatch h
theorem bankRetention (x : CtxId) (b : Fin 8) : Statement (.bankRetention x b) := fun _ _ h => nomatch h
theorem bankKillOff (x : CtxId) (b : Fin 8) : Statement (.bankKillOff x b) := fun _ _ h => nomatch h
theorem bankWakeDone (x : CtxId) (b : Fin 8) : Statement (.bankWakeDone x b) := fun _ _ h => nomatch h
theorem spadClearDone (c : CoreId) (b : Fin 32) : Statement (.spadClearDone c b) := fun _ _ h => nomatch h
theorem spadWakeDone (c : CoreId) (b : Fin 32) : Statement (.spadWakeDone c b) := fun _ _ h => nomatch h
theorem bankFailed (c : CoreId) (b : Fin 34) : Statement (.bankFailed c b) := fun _ _ h => nomatch h
theorem suspensionRequest (x : CtxId) : Statement (.suspensionRequest x) := fun _ _ h => nomatch h
theorem loopDrain (x : CtxId) : Statement (.loopDrain x) := fun _ _ h => nomatch h
theorem immediatePreemption (x : CtxId) : Statement (.immediatePreemption x) := fun _ _ h => nomatch h
theorem preemptEscalation (x : CtxId) : Statement (.preemptEscalation x) := fun _ _ h => nomatch h
theorem contextSaveComplete (x : CtxId) : Statement (.contextSaveComplete x) := fun _ _ h => nomatch h
theorem restore (x : CtxId) : Statement (.restore x) := fun _ _ h => nomatch h
theorem opSettleDone (c : CoreId) : Statement (.opSettleDone c) := fun _ _ h => nomatch h
theorem thermalThrottleStep (d : Fin 4) (h : Heat) : Statement (.thermalThrottleStep d h) := fun _ _ h => nomatch h
theorem slackReport (d : Fin 4) (r : SlackOp) : Statement (.slackReport d r) := fun _ _ h => nomatch h
theorem msgRead (f : FlowId) : Statement (.msgRead f) := fun _ _ h => nomatch h
theorem msgWrite (f : FlowId) : Statement (.msgWrite f) := fun _ _ h => nomatch h
theorem msgAtomic (f : FlowId) : Statement (.msgAtomic f) := fun _ _ h => nomatch h
theorem msgFlagPost (f : FlowId) : Statement (.msgFlagPost f) := fun _ _ h => nomatch h
theorem msgForwardedAccess (f : FlowId) : Statement (.msgForwardedAccess f) := fun _ _ h => nomatch h
theorem msgMovedMarker (f : FlowId) : Statement (.msgMovedMarker f) := fun _ _ h => nomatch h
theorem msgRangeSteal (f : FlowId) : Statement (.msgRangeSteal f) := fun _ _ h => nomatch h
theorem msgReadData (f : FlowId) : Statement (.msgReadData f) := fun _ _ h => nomatch h
theorem msgWriteDone (f : FlowId) : Statement (.msgWriteDone f) := fun _ _ h => nomatch h
theorem msgAtomicResult (f : FlowId) : Statement (.msgAtomicResult f) := fun _ _ h => nomatch h
theorem msgLostOrError (f : FlowId) : Statement (.msgLostOrError f) := fun _ _ h => nomatch h
theorem msgMirrorWrite (f : FlowId) : Statement (.msgMirrorWrite f) := fun _ _ h => nomatch h
theorem msgCheckpointEpoch (f : FlowId) : Statement (.msgCheckpointEpoch f) := fun _ _ h => nomatch h
theorem msgHeartbeat (f : FlowId) : Statement (.msgHeartbeat f) := fun _ _ h => nomatch h
theorem msgConfiguration (f : FlowId) : Statement (.msgConfiguration f) := fun _ _ h => nomatch h
theorem msgServiceLevel (f : FlowId) : Statement (.msgServiceLevel f) := fun _ _ h => nomatch h
theorem msgTimebase (f : FlowId) : Statement (.msgTimebase f) := fun _ _ h => nomatch h
theorem ackTimeout (f : FlowId) : Statement (.ackTimeout f) := fun _ _ h => nomatch h
theorem replayTimeout (f : FlowId) : Statement (.replayTimeout f) := fun _ _ h => nomatch h
theorem timebaseExchange (d : Fin 4) : Statement (.timebaseExchange d) := fun _ _ h => nomatch h
theorem heartbeatSend (d : Fin 4) : Statement (.heartbeatSend d) := fun _ _ h => nomatch h
theorem heartbeatLoss (d j : Fin 4) : Statement (.heartbeatLoss d j) := fun _ _ h => nomatch h
theorem railFault (d : Fin 4) (reports : Bool) : Statement (.railFault d reports) := fun _ _ h => nomatch h
theorem clockFault (d : Fin 4) (reports : Bool) : Statement (.clockFault d reports) := fun _ _ h => nomatch h
theorem lockstepMismatch (d : Fin 4) (reports : Bool) : Statement (.lockstepMismatch d reports) := fun _ _ h => nomatch h
theorem junctionOvertemp (d : Fin 4) : Statement (.junctionOvertemp d) := fun _ _ h => nomatch h
theorem restoreAndRelaunch : Statement .restoreAndRelaunch := fun _ _ h => nomatch h
theorem reunion (d : Fin 4) : Statement (.reunion d) := fun _ _ h => nomatch h
theorem rebuild (d : Fin 4) : Statement (.rebuild d) := fun _ _ h => nomatch h
theorem selfTestStart : Statement .selfTestStart := fun _ _ h => nomatch h
theorem selfTestEnd (d : Fin 4) (pass : Bool) : Statement (.selfTestEnd d pass) := fun _ _ h => nomatch h
theorem selfTestTimeout (d : Fin 4) : Statement (.selfTestTimeout d) := fun _ _ h => nomatch h
theorem frameCheckpoint (ts : Nat) : Statement (.frameCheckpoint ts) := fun _ _ h => nomatch h
theorem earlyCheckpoint (ts : Nat) : Statement (.earlyCheckpoint ts) := fun _ _ h => nomatch h
theorem coldStart (b : BootInput) : Statement (.coldStart b) := fun _ _ h => nomatch h
theorem warmReset (d : Fin 4) (b : BootInput) : Statement (.warmReset d b) := fun _ _ h => nomatch h
theorem bootTimeout : Statement .bootTimeout := fun _ _ h => nomatch h
theorem startComplete (parts : List PartEntry) : Statement (.startComplete parts) := fun _ _ h => nomatch h
theorem linkTraining (d : Fin 4) : Statement (.linkTraining d) := fun _ _ h => nomatch h
theorem sqbaseWrite (vf : Fin 1024) (v : BitVec 64) : Statement (.sqbaseWrite vf v) := fun _ _ h => nomatch h
theorem sqcfgWrite (vf : Fin 1024) (v : BitVec 64) : Statement (.sqcfgWrite vf v) := fun _ _ h => nomatch h
theorem sqtailWrite (vf : Fin 1024) (v : BitVec 64) : Statement (.sqtailWrite vf v) := fun _ _ h => nomatch h
theorem sqstatWrite (vf : Fin 1024) (v : BitVec 64) : Statement (.sqstatWrite vf v) := fun _ _ h => nomatch h
theorem submissionService (vf : Fin 1024) (q : BitVec 512) : Statement (.submissionService vf q) := fun _ _ h => nomatch h
theorem releaseWrite (v : BitVec 64) (size : Nat) : Statement (.releaseWrite v size) := fun _ _ h => nomatch h
theorem errcntWrite (d : Fin 4) (k : Fin 18) (v : BitVec 32) (size : Nat) : Statement (.errcntWrite d k v size) := fun _ _ h => nomatch h
theorem registerWrite (fn : HostFn) (off : BitVec 16) (v : BitVec 64) : Statement (.registerWrite fn off v) := fun _ _ h => nomatch h
theorem unsupportedRequest (tag : Nat) : Statement (.unsupportedRequest tag) := fun _ _ h => nomatch h
theorem hostCompletion (tag : Nat) (err : Bool) (data : BitVec 512) : Statement (.hostCompletion tag err data) := fun _ _ h => nomatch h
theorem softError (e : SoftErr) : Statement (.softError e) := fun _ _ h => nomatch h
theorem relaunchRetry : Statement .relaunchRetry := fun _ _ h => nomatch h
theorem selfTestReinitialisationDone (d : Fin 4) : Statement (.selfTestReinitialisationDone d) := fun _ _ h => nomatch h
theorem taskSetRegistration (ts : TaskSetReg) : Statement (.taskSetRegistration ts) := fun _ _ h => nomatch h
theorem failedLane (d : Fin 4) : Statement (.failedLane d) := fun _ _ h => nomatch h

end Sys2Proof.Laws.Fields
end

