-- ==== Sys2Proof/Laws/Vector.lean ====
section
/-! SUPPORT. The commit of a bundle of one vector instruction: source reads, the destination's bank and liveness, the merge of elements, and what
`ElementWise` and `Crossed` ask. -/

namespace Sys2Proof.Machine

theorem bankPart_oneBit (k : BitVec 5) (b : Fin 8) : bankPart (oneBit 32 k.toNat) b = decide (b = bankOf k) := by
  revert b; revert k; decide

theorem bankPart_or (x y : BitVec 32) (b : Fin 8) : bankPart (x ||| y) b = (bankPart x b || bankPart y b) := by
  have e : ∀ z : BitVec 32, ((z >>> (4 * b.val)) &&& 15 != 0) = !decide ((z >>> (4 * b.val)) &&& 15 = 0) := by intro z; rfl
  simp only [bankPart, BitVec.ushiftRight_or_distrib]
  have : ∀ p q : BitVec 32, ((p ||| q) &&& 15 != 0) = ((p &&& 15 != 0) || (q &&& 15 != 0)) := by
    intro p q
    have h : (p ||| q) &&& 15 = (p &&& 15) ||| (q &&& 15) := by
      apply BitVec.eq_of_getLsbD_eq; intro j hj; simp [Bool.and_or_distrib_right]
    rw [h]
    by_cases h1 : p &&& 15 = 0
    · rw [h1]; simp
    · have h2 : ¬ ((p &&& 15) ||| (q &&& 15)) = 0 := by
        intro hh
        apply h1
        apply BitVec.eq_of_getLsbD_eq; intro j hj
        have := congrArg (fun z : BitVec 32 => z.getLsbD j) hh
        simp only [BitVec.getLsbD_or, BitVec.getLsbD_zero, Bool.or_eq_false_iff, BitVec.ofNat_eq_ofNat] at this ⊢
        exact this.1
      have a1 : (p &&& 15 != 0) = true := by simpa using h1
      have a2 : ((p &&& 15 ||| q &&& 15) != 0) = true := by simpa using h2
      rw [a1, a2]; rfl
  exact this _ _

/-- A kill that reads only full banks empties no bank in retention. -/
def Ctx.KillsFull (c : Ctx) (kl : BitVec 32) : Prop := ∀ b : Fin 8, c.vbank[b.val].st = .retention → bankPart kl b = false

theorem bankPart_kill (x kl : BitVec 32) (b : Fin 8) (h : bankPart kl b = false) : bankPart (x &&& ~~~kl) b = bankPart x b := by
  simp only [bankPart] at *
  have h0 : (kl >>> (4 * b.val)) &&& 15 = 0 := by simpa using h
  have : (x &&& ~~~kl) >>> (4 * b.val) &&& 15 = x >>> (4 * b.val) &&& 15 := by
    apply BitVec.eq_of_getLsbD_eq; intro j hj
    have := congrArg (fun z : BitVec 32 => z.getLsbD j) h0
    simp only [BitVec.getLsbD_and, BitVec.getLsbD_ushiftRight, BitVec.ofNat_eq_ofNat, BitVec.getLsbD_zero, BitVec.getLsbD_not] at this ⊢
    by_cases hk : 4 * b.val + j < 32
    · cases hx : x.getLsbD (4 * b.val + j) <;> cases hkk : kl.getLsbD (4 * b.val + j) <;> simp_all
    · have : x.getLsbD (4 * b.val + j) = false := BitVec.getLsbD_of_ge _ _ (by omega)
      simp [this]
  rw [this]

/-- The banks after a bundle that reads full banks and writes register k. -/
theorem banksAfter_write (f : Frame) (c : Ctx) (cyc : Nat) (k : BitVec 5) (hw : f.wrv = oneBit 32 k.toNat) (hl : f.pre.livev = c.livev)
    (hk : c.KillsFull f.killv) (hc : f.csrv = 0) :
    noLast (banksAfter f c (liveAfterV f) cyc) = noLast (c.vbank.set (bankOf k).val ((c.bank k).written cyc)) := by
  apply Vector.ext
  intro b hb
  have hpart : bankPart f.wrv ⟨b, hb⟩ = decide ((⟨b, hb⟩ : Fin 8) = bankOf k) := by rw [hw]; exact bankPart_oneBit k _
  have hlive : liveAfterV f = (c.livev &&& ~~~f.killv) ||| oneBit 32 k.toNat := by
    simp only [liveAfterV, hl, hw, hc]; simp [and_ones32]
  simp only [noLast, Vector.getElem_map, banksAfter, Vector.getElem_ofFn, hpart, Vector.getElem_set]
  by_cases h : (⟨b, hb⟩ : Fin 8) = bankOf k
  · have hv : (bankOf k).val = b := by rw [← h]
    have hbk : c.bank k = c.vbank[b] := by simp only [Ctx.bank, hv]
    have ho : bankPart (f.wrv ||| f.readv) ⟨b, hb⟩ = true := by rw [bankPart_or, hpart]; simp [h]
    simp only [h, decide_true, Bool.true_and, hv, if_true, hbk, VBank.written]
    rw [h] at ho
    simp only [ho, if_true]
    cases hst : (c.vbank[b]).st <;> simp [hst]
  · have hv : ¬ (bankOf k).val = b := by
      intro e; apply h; exact Fin.ext e.symm
    simp only [h, decide_false, Bool.false_and, Bool.false_eq_true, if_false, hv]
    have hkill : (c.vbank[b].st == .retention && bankPart f.pre.livev ⟨b, hb⟩ && !bankPart (liveAfterV f) ⟨b, hb⟩) = false := by
      cases hst : c.vbank[b].st <;> try rfl
      have h1 := hk ⟨b, hb⟩ hst
      have h2 : bankPart (liveAfterV f) ⟨b, hb⟩ = bankPart c.livev ⟨b, hb⟩ := by
        rw [hlive, bankPart_or, bankPart_oneBit, bankPart_kill _ _ _ h1]; simp [h]
      rw [h2, hl]; simp
    rw [hkill]
    split <;> rfl

/-- A slot that writes physical register k and reads full banks alone. `g` is what else it changes in its context. -/
theorem asSlot_vector {i : Instr} {eff : State → State} {s : State} {g : Ctx → Ctx} {f : Frame} {k : BitVec 5} (hc : s.Calm)
    (hu : eff (begun i s) = ((begun i s).onCtx g).onFrame fun _ => f)
    (hpre : f.pre = (openFrame i s).pre) (hbits : f.bits = encodeBundle i) (hq : f.faults = [] ∧ f.stall = false ∧ f.entry = none ∧ f.ask = none)
    (hs : f.stores = [] ∧ f.storing = false ∧ f.acquire = false) (he : f.endsRegion = false) (hw : f.flushBefore = false ∧ f.flushAfter = false)
    (hk : f.wrv = oneBit 32 k.toNat ∧ f.killp = 0 ∧ f.wrp = 0 ∧ f.csrv = 0 ∧ f.csrp = 0) (ha : f.after = .next) (hkill : s.ctx.KillsFull f.killv)
    (hg : ∀ n, (g (s.ctx.landFlags n)).plain = (g s.ctx).plain ∧ (g (s.ctx.landFlags n)).fpc = (s.ctx.landFlags n).fpc ∧
      (g (s.ctx.landFlags n)).flight = (s.ctx.landFlags n).flight ∧ (g (s.ctx.landFlags n)).region = s.ctx.region)
    (hsg : (g s.ctx).fpc = s.ctx.fpc ∧ (g s.ctx).flight = s.ctx.flight ∧ (g s.ctx).region = s.ctx.region)
    (ho : ∀ n, (g (s.ctx.landFlags n)).occ = s.ctx.occ ∧ (g (s.ctx.landFlags n)).livev = s.ctx.livev ∧
      (g (s.ctx.landFlags n)).livep = s.ctx.livep ∧ (g (s.ctx.landFlags n)).vbank = s.ctx.vbank)
    (hsb : (g s.ctx).vbank = s.ctx.vbank ∧ (g s.ctx).livep = s.ctx.livep) :
    ∃ t, asSlot i eff s = .next t ∧
      Commits (s.onCtx fun c => { g c with livev := (s.ctx.livev &&& ~~~f.killv) ||| oneBit 32 k.toNat, flight := s.ctx.flight ++ f.flight, vbank := s.ctx.vbank.set (bankOf k).val ((s.ctx.bank k).written s.coreCyc) }) t (s.ctx.pc + 1) := by
  obtain ⟨k1, k2, k3, k4, k5⟩ := hk
  have hu' : eff (begun i s) = { s with ctx := g (openFrame i s).pre, frame := some f } := by
    rw [hu, begun_eq]; rfl
  have hb := regionBreak_calm i s f hc hpre hs.2.1 hs.2.2
  obtain ⟨t, ht, h⟩ := asSlot_done i eff s _ f (s.ctx.pc + 1) hc hu' rfl hpre hbits hq (fun h => by rw [he] at h; cases h)
    (fun h => by rw [hw.1, hw.2] at h; cases h) hb (ho _).1 (.inl ⟨ha, rfl⟩)
  have hl : f.pre.livev = s.ctx.livev := by rw [hpre]; rfl
  have hlp : f.pre.livep = s.ctx.livep := by rw [hpre]; rfl
  obtain ⟨h1, h2, h3, h4⟩ := hg (s.ctx.issueCyc (coreAt s s.cur.core).cyc (reads i))
  obtain ⟨o1, o2, o3, o4⟩ := ho (s.ctx.issueCyc (coreAt s s.cur.core).cyc (reads i))
  have hlive : liveAfterV f = (s.ctx.livev &&& ~~~f.killv) ||| oneBit 32 k.toNat := by
    simp only [liveAfterV, hl, k1, k4]; simp [and_ones32]
  have hliveP : liveAfterP f = s.ctx.livep ||| 1 := by rw [liveAfterP_none _ k2 k3 k5, hlp]
  have hbank : noLast (banksAfter f (g (openFrame i s).pre) (liveAfterV f) s.coreCyc) =
      noLast (s.ctx.vbank.set (bankOf k).val ((s.ctx.bank k).written s.coreCyc)) := by
    have e : (g (openFrame i s).pre).vbank = s.ctx.vbank := o4
    have e2 : (g (openFrame i s).pre).bank k = s.ctx.bank k := by simp only [Ctx.bank, e]
    have := banksAfter_write f (g (openFrame i s).pre) s.coreCyc k k1 (hl.trans o2.symm) (by intro b hb; rw [e] at hb; exact hkill b hb) k4
    rw [this, e, e2]
  have hfl : (f.flushBefore || f.flushAfter) = false := by rw [hw.1, hw.2]; rfl
  refine ⟨t, ht, h.congr rfl ?_ ?_ ?_ ?_⟩
  · show (Ctx.flushIf _ (f.flushBefore || f.flushAfter)).plain = _
    rw [hfl]
    show ({ (g (openFrame i s).pre).plain with livev := liveAfterV f, livep := liveAfterP f ||| 1, vbank := noLast (banksAfter f (g (openFrame i s).pre) (liveAfterV f) s.coreCyc) } : Ctx) =
      { (g s.ctx).plain with livev := (s.ctx.livev &&& ~~~f.killv) ||| oneBit 32 k.toNat, livep := (g s.ctx).livep ||| 1, vbank := noLast (s.ctx.vbank.set (bankOf k).val ((s.ctx.bank k).written s.coreCyc)) }
    have h1' : (g (openFrame i s).pre).plain = (g s.ctx).plain := h1
    have e1 : s.ctx.livep ||| 1 ||| 1 = s.ctx.livep ||| 1 := by simp [BitVec.or_assoc]
    rw [hbank, hliveP, h1', hlive, hsb.2, e1]
  · show (Ctx.flushIf _ (f.flushBefore || f.flushAfter)).fpc.setWidth 9 = (g s.ctx).fpc.setWidth 9
    rw [hfl]
    show (g (s.ctx.landFlags _)).fpc.setWidth 9 = _
    rw [h2, hsg.1]; exact landFlags_low _ _
  · show (Ctx.flushIf _ (f.flushBefore || f.flushAfter)).landAll.fpc = _
    rw [hfl]
    have h2' : (g (openFrame i s).pre).fpc = (openFrame i s).pre.fpc := h2
    have h3' : (g (openFrame i s).pre).flight = (openFrame i s).pre.flight := h3
    have hl := openFrame_landAll i s
    simp only [Ctx.landAll, Ctx.accrue] at hl
    show (Ctx.landAll { g (openFrame i s).pre with flight := (g (openFrame i s).pre).flight ++ f.flight }).fpc =
      (Ctx.landAll { g s.ctx with flight := s.ctx.flight ++ f.flight }).fpc
    simp only [Ctx.landAll, Ctx.accrue, h2', h3', hsg.1, List.foldl_append]
    rw [foldFlags_init f.flight, foldFlags_init f.flight (s.ctx.flight.foldl _ _)]
    simp only [BitVec.setWidth_or, BitVec.shiftLeft_or_distrib, ← BitVec.or_assoc, hl]
  · show (Ctx.flushIf _ (f.flushBefore || f.flushAfter)).buffered = (g s.ctx).buffered
    rw [hfl]
    have : (g (openFrame i s).pre).region = s.ctx.region := h4
    simp only [Ctx.flushIf, Ctx.closed, Ctx.buffered, hs.1, List.append_nil, this, hsg.2.2, Option.isSome_some, if_true, if_false, Bool.false_eq_true]

/-! ### Reads of sources, element by element results -/

/-- The state of slots that have read vector sources: what they read and the last-use marks stand in the frame. -/
def afterReads (i : Instr) (s : State) (rd kl : BitVec 32) : State := (begun i s).onFrame fun f => { f with readv := rd, killv := kl }

theorem afterReads_src (i : Instr) (s : State) (rd kl : BitVec 32) : (afterReads i s rd kl).src = (openFrame i s).pre := by
  rw [afterReads, begun_eq]; rfl

theorem begun_reads (i : Instr) (s : State) : begun i s = afterReads i s 0 0 := by rw [afterReads, begun_eq]; rfl

theorem afterReads_useV {i : Instr} {s : State} {rd kl : BitVec 32} {n : BitVec 5} (sl : SlotId) (h : s.ctx.Readable n) :
    (afterReads i s rd kl).useV sl n false = afterReads i s (rd ||| oneBit 32 (physV s.ctx.vrb n).toNat) kl := by
  obtain ⟨h1, h2, h3⟩ := h
  have hp : ((afterReads i s rd kl).src.vpar.find? fun p => p.1.val == (physV (afterReads i s rd kl).src.vrb n).toNat) = none := by
    rw [afterReads_src, List.find?_eq_none]
    intro q hq
    have := h2 q hq
    have e : (openFrame i s).pre.vrb = s.ctx.vrb := rfl
    rw [e]
    simpa using this
  have hl : bitOn (afterReads i s rd kl).src.livev (physV (afterReads i s rd kl).src.vrb n).toNat = true := by rw [afterReads_src]; exact h1
  have hb : ((afterReads i s rd kl).src.bank (physV (afterReads i s rd kl).src.vrb n)).st = .full := by rw [afterReads_src]; exact h3
  simp only [State.useV, hl, hp, hb, Bool.not_true, Bool.false_eq_true, if_false]
  rw [afterReads_src]
  simp only [afterReads, begun_eq, State.onFrame, Option.map_some]
  rfl

theorem afterReads_killV {i : Instr} {s : State} {rd kl : BitVec 32} {n : BitVec 5} (m : BitVec 1) :
    (afterReads i s rd kl).killV n m = afterReads i s rd (if m = 1 then kl ||| oneBit 32 (physV s.ctx.vrb n).toNat else kl) := by
  by_cases h : m = 1
  · simp only [State.killV, h, beq_self_eq_true, if_true, afterReads_src]
    simp only [afterReads, begun_eq, State.onFrame, Option.map_some]
    rfl
  · have hb : (m == 1) = false := by simpa using h
    simp only [State.killV, h, hb, if_false, Bool.false_eq_true]

theorem fold_or_zero (l : List Nat) (act : Nat → Bool) (g : Nat → Fl) (h : ∀ j ∈ l, act j = true → g j = 0) :
    l.foldl (fun x j => if act j then x ||| g j else x) 0 = 0 := by
  rw [fold_or]
  induction l with
  | nil => simp
  | cons k t ih =>
    have ih' := ih fun j hj => h j (List.mem_cons_of_mem _ hj)
    rw [List.foldr_cons]
    by_cases hk : act k = true
    · rw [if_pos hk, h k List.mem_cons_self hk]
      simpa using ih'
    · rw [if_neg hk]; exact ih'

theorem find_range {n : Nat} {p : Nat → Bool} {k : Nat} (h : (List.range n).find? p = some k) : k < n ∧ p k = true ∧ ∀ j, j < k → p j = false := by
  rw [List.find?_range_eq_some] at h
  exact ⟨by simpa using h.2.1, h.1, fun j hj => by simpa using h.2.2 j hj⟩

theorem elementWise_done {i : Instr} {s : State} {sl : SlotId} {o : VE} {w n lat : Nat} {drop : Ctx → Ctx} {f : Nat → Res} {eff : State → State}
    {rd kl : BitVec 32} (hc : s.Calm) (hx : exec i s = asSlot i eff s) (hw : w * n ≤ VE.bits_ o)
    (he : eff (begun i s) = (afterReads i s rd kl).veDone sl lat o w n (s.ctx.p o.pg) (mergeElems (s.ctx.p o.pg) (o.z == 1) w n (s.oldV o.vd).toNat f))
    (hd : ∀ c : Ctx, c.vrb = s.ctx.vrb → drop c = { c with livev := c.livev &&& ~~~kl }) (hk : s.ctx.KillsFull kl) : ElementWise i s sl o w n drop f := by
  have hW : VE.bits_ o ≤ 1024 := by unfold VE.bits_; split; omega; split <;> omega
  generalize hm : mergeElems (s.ctx.p o.pg) (o.z == 1) w n (s.oldV o.vd).toNat f = r at he
  have hr := merge_parts (List.range n) (fun j => (s.ctx.p o.pg).getLsbD (j * (w / 8))) f fun j => if o.z == 1 then 0 else elemAt (s.oldV o.vd).toNat w j
  have hr' : r = _ := hm.symm.trans hr
  have hold : (afterReads i s rd kl).oldV o.vd = s.oldV o.vd := by
    simp only [State.oldV, afterReads_src]
    rw [State.src, hc.1]; rfl
  generalize hv : putLow (s.oldV o.vd) (VE.bits_ o) (packElems w r.elems) = v
  have hfl : r.fl = (List.range n).foldl (fun a j => if (s.ctx.p o.pg).getLsbD (j * (w / 8)) then a ||| (f j).fl else a) 0 := by rw [hr']
  refine ⟨?_, ?_⟩
  · intro h0
    rw [← hfl] at h0
    refine ⟨v, ?_, ?_, ?_⟩
    · have hcase : ∃ fs : List Flight, fs.foldl (fun a p => a ||| p.fl) 0 = r.fl ∧
          eff (begun i s) = ((begun i s).onCtx fun c => { c with vreg := c.vreg.set (physV s.ctx.vrb o.vd).toNat v (physV s.ctx.vrb o.vd).isLt, vpar := c.vpar.filter fun p => !(p.1.val == (physV s.ctx.vrb o.vd).toNat && (!s.ctx.vLive o.vd || VE.wrote o w n (s.ctx.p o.pg) p.2.val)) }).onFrame
            fun _ => { openFrame i s with readv := rd, killv := kl, wrv := oneBit 32 (physV s.ctx.vrb o.vd).toNat, flight := fs } := by
        rw [he, State.veDone, hold, hv]
        unfold State.fpDone
        have hen : (State.src ((afterReads i s rd kl).setV o.vd (VE.wrote o w n (s.ctx.p o.pg)) v)).en = s.ctx.en := by
          simp only [afterReads, begun_eq, State.setV, State.onFrame]; rfl
        rw [hen, h0]
        have hz : ∀ x : BitVec 32, x = 0 ||| x := by intro x; simp
        have hset : (afterReads i s rd kl).setV o.vd (VE.wrote o w n (s.ctx.p o.pg)) v = ((begun i s).onCtx fun c => { c with vreg := c.vreg.set (physV s.ctx.vrb o.vd).toNat v (physV s.ctx.vrb o.vd).isLt, vpar := c.vpar.filter fun p => !(p.1.val == (physV s.ctx.vrb o.vd).toNat && (!s.ctx.vLive o.vd || VE.wrote o w n (s.ctx.p o.pg) p.2.val)) }).onFrame
            fun _ => { openFrame i s with readv := rd, killv := kl, wrv := oneBit 32 (physV s.ctx.vrb o.vd).toNat } := by
          rw [hz (oneBit 32 (physV s.ctx.vrb o.vd).toNat)]
          simp only [afterReads, begun_eq, State.setV, State.onFrame, State.src]
          rfl
        rw [hset]
        by_cases hf0 : r.fl = 0
        · refine ⟨[], hf0.symm, ?_⟩
          simp only [hf0, beq_self_eq_true, bne_self_eq_false, if_true, if_false, Bool.false_eq_true]
          rfl
        · refine ⟨[⟨(openFrame i s).cyc + lat, (openFrame i s).pre.phys (.v o.vd), r.fl⟩], by simp, ?_⟩
          have hb : (r.fl == 0) = false := by simpa using hf0
          simp only [hb, bne_self_eq_false, if_false, Bool.false_eq_true]
          simp only [begun_eq, State.onFrame, State.onCtx, Option.map_some]
          rfl
      obtain ⟨fs, hfs, hu⟩ := hcase
      obtain ⟨t, ht, h⟩ := asSlot_vector (k := physV s.ctx.vrb o.vd) hc hu rfl rfl ⟨rfl, rfl, rfl, rfl⟩ ⟨rfl, rfl, rfl⟩ rfl ⟨rfl, rfl⟩ ⟨rfl, rfl, rfl, rfl, rfl⟩ rfl hk
        (fun n => ⟨rfl, rfl, rfl, rfl⟩) ⟨rfl, rfl, rfl⟩ (fun n => ⟨rfl, rfl, rfl, rfl⟩) ⟨rfl, rfl⟩
      refine ⟨t, hx ▸ ht, h.congr rfl ?_ ?_ ?_ ?_⟩
      all_goals simp only [State.flagged, State.onCtx, hd s.ctx rfl]
      · rfl
      · exact (accrue_low _ _).symm
      · simp only [Ctx.giveV, Ctx.landAll, Ctx.accrue, List.foldl_append]
        rw [foldFlags_init fs, hfs, hfl]
        simp only [BitVec.setWidth_or, BitVec.shiftLeft_or_distrib]
        ac_rfl
      · rfl
    · intro j hj
      have hwj : w * (j + 1) ≤ VE.bits_ o := Nat.le_trans (Nat.mul_le_mul_left _ hj) hw
      rw [← hv, elemAt_putLow _ _ _ _ _ hW hwj, elemAt_packElems, hr']
      simp only [List.getD_eq_getElem?_getD, List.getElem?_map, List.getElem?_range hj, Option.map_some, Option.getD_some]
      split
      · rfl
      · by_cases hz : o.z = 1
        · simp [hz]
        · have hz' : (o.z == 1) = false := by simpa using hz
          simp only [hz, hz', if_false, Bool.false_eq_true, elemAt, Nat.mod_mod]
    · rw [← hv]
      exact ⟨fun k h1 h2 => putLow_zero _ _ _ _ hW k (by rw [hr']; simpa [Nat.mul_comm] using h1) h2, putLow_high _ _ _ hW⟩
  · intro h0
    rw [← hfl] at h0
    have hen : (State.src ((afterReads i s rd kl).setV o.vd (VE.wrote o w n (s.ctx.p o.pg)) v)).en = s.ctx.en := by
      simp only [afterReads, begun_eq, State.setV, State.onFrame]; rfl
    have hlow : r.low = (List.range n).find? fun j => (s.ctx.p o.pg).getLsbD (j * (w / 8)) && (f j).fl != 0 := by rw [hr']
    cases hl : r.low with
    | none =>
      exfalso
      rw [hlow, List.find?_eq_none] at hl
      apply h0
      rw [hfl, fold_or_zero]
      · simp
      · intro j hj ha
        have := hl j hj
        simpa [ha] using this
    | some low =>
      rw [hlow] at hl
      obtain ⟨l1, l2, l3⟩ := find_range hl
      simp only [Bool.and_eq_true, bne_iff_ne, ne_eq] at l2
      refine ⟨low, l1, l2.1, l2.2, fun j hj ha => ?_, ?_⟩
      · have := l3 j hj
        simpa [ha] using this
      · have hu : eff (begun i s) = ((afterReads i s rd kl).setV o.vd (VE.wrote o w n (s.ctx.p o.pg)) v).raise sl (precise cFpException [r.fl.setWidth 64, BitVec.ofNat 64 low]) := by
          rw [he, State.veDone, hold, hv]
          unfold State.fpDone
          rw [hen, if_pos (by simpa using h0), hlow, hl]
        rw [← hfl]
        unfold Traps
        rw [hx]
        refine asSlot_traps (f := { openFrame i s with readv := rd, killv := kl, wrv := 0 ||| oneBit 32 (physV s.ctx.vrb o.vd).toNat, faults := [⟨sl, { precise cFpException [r.fl.setWidth 64, BitVec.ofNat 64 low] with mask := slotBit sl }⟩] })
          hc ?_ rfl rfl ⟨rfl, rfl, rfl⟩ ⟨rfl, rfl⟩ (by intro _ h; cases h)
        rw [hu]
        simp only [afterReads, begun_eq, State.setV, State.onFrame, State.src, State.raise, Option.map_some]
        rfl

end Sys2Proof.Machine
end

