-- ==== Sys2Proof/Tests/Slice0.lean ====
section
/-! SUPPORT. Tests: decoding of words of the spec, ill-formed terms, witnesses for the hypotheses of the statements, single steps. -/

namespace Sys2Proof.Machine.Tests

set_option Elab.async false

/-! ### Decoding: one word per family, from the spec's tables of encodings (spec/03, 06, 07, 09, 10, 11, 12, 13, 14: their sections "Encodings") -/

/-- A slot value at its slot's place in a bundle with a zero header. -/
def placed (w slot : Nat) : Nat := w * 2 ^ (40 * slot)

theorem test_decode_scalar : decodeTableWord 80 (placed 0x4018440000 1) = some (.add .c ⟨3, 1, 2, 0, 0, 0⟩) := by decide +kernel
theorem test_decode_control : decodeTableWord 80 (placed 0x02200FFFF8 1) = some (.brc ⟨4, 0, 1, -8⟩) := by decide +kernel
theorem test_decode_system : decodeTableWord 80 (placed 0x224C14C710 1) = none ∧ decodeTableWord 80 (placed 0x22114C7100 1) = some (.drevokeCore ⟨2, 5, 6, 7, 1⟩) := by
  decide +kernel
theorem test_decode_predicate : decodeTableWord 80 (placed 0x342002C000 1) = some (.psetn ⟨2, 0, 0, 5, 2⟩) := by decide +kernel
theorem test_decode_load : decodeTableWord 120 (placed 0x812080000C 2) = some (.ldBu ⟨4, 2, 3, 0⟩) := by decide +kernel
theorem test_decode_store : decodeTableWord 120 (placed 0x8B48C00042 2) = some (.stD ⟨9, 3, 16, 2⟩) := by decide +kernel
theorem test_decode_atomic : decodeTableWord 120 (placed 0x90190A0200 2) = some (.ataddW ⟨3, 4, 5, 0, 1, 0⟩) := by decide +kernel
theorem test_decode_vector_tile : decodeTableWord 120 (placed 0xA12880001C 2) = some (.vstt ⟨5, 2, 0, 0, 0, 3, 1⟩) := by decide +kernel
theorem test_decode_vector : decodeTableWord 160 (placed 0x1152485022 3) = some (.vcmp .v ⟨2, 2, 9, 4, 5, 0, 0, 0, 1, 0, 2⟩) := by decide +kernel
theorem test_decode_special : decodeTableWord 200 (placed 0x1FED2A0040 4) = some (.vexp2 ⟨7, 1, 20, 21, 0, 0, 0, 1, 0, 0, 0⟩) := by decide +kernel
theorem test_decode_crossbar : decodeTableWord 240 (placed 0x0190950001 5) = some (.xpermScat ⟨2, 8, 9, 10, 0, 1⟩) := by decide +kernel
theorem test_decode_tile : decodeTableWord 280 (placed 0x0A20C100C0 6) = some (.tcvt ⟨4, 3, 0, 1, 0, 0, 0, 0xC0⟩) := by decide +kernel
theorem test_decode_transfer : decodeTableWord 280 (placed 0x0512493432 6) = some (.tload ⟨2, 9, 4, 1, 6, 1, 50⟩) := by decide +kernel
theorem test_decode_matrix : decodeTableWord 280 (placed 0x100A15CA30 6) = some (.mma ⟨1, 8, 10, 1, 1, 1, 0, 2, 1, 3⟩) := by decide +kernel
theorem test_decode_sync : decodeTableWord 320 (placed 0x0301418701 7) = some (.fpostr ⟨0, 5, 0, 1, 2, 7, 1⟩) := by decide +kernel
/-- The example with a header: RM is bit 0 (spec/03 R46; spec/18). -/
theorem test_decode_header : (Header.ofBits 1).rm = true ∧ decodeTableWord 120 (placed 0xA4A01C0C48 2 + 1) = some (.vins ⟨20, 0, 14, 0, 3, 9, 0⟩) := by decide +kernel
/-- Opcode 0xFF names no instruction; `loop` has no operand bits; two V and W instructions of full width claim eight lane groups (R48, R55, R56). -/
theorem test_decode_refuses : decodeTableWord 80 (placed 0xFF00000000 1) = none ∧ decodeTableWord 80 (placed 0x0800000001 1) = none ∧
    decodeBundle (BitVec.ofNat 320 (placed 0x01F4228060 3 + placed 0x01F4228060 4)) = .illegal .illegalBundle 0x0C := by decide +kernel

/-! ### Well-formedness: each check refuses a term -/

/-- An operand field that an instruction does not use must be zero (R50). -/
theorem test_wf_unused_field : (Instr.add .c ⟨3, 1, 2, 1, 0, 0⟩).wf = false ∧ (Instr.add .c ⟨3, 1, 2, 0, 0, 0⟩).wf = true := by decide
theorem test_wf_reserved_condition : (Instr.brc ⟨0, 0, 6, 0⟩).wf = false ∧ (Instr.brc ⟨0, 0, 5, 0⟩).wf = true := by decide
theorem test_wf_unused_csr : (Instr.csrr ⟨1, 0, 0x008⟩).wf = false ∧ (Instr.csrr ⟨1, 0, 0x007⟩).wf = true := by decide
theorem test_wf_reserved_order : (Instr.stD ⟨0, 0, 0, 1⟩).wf = false ∧ (Instr.ldD ⟨0, 0, 0, 2⟩).wf = false := by decide
theorem test_wf_fp_shift : (Instr.vshl .v ⟨7, 2, 0, 0, 0, 0, 0, 0, 0, 0, 0⟩).wf = false ∧ (Instr.vshl .v ⟨2, 2, 0, 0, 0, 0, 0, 0, 0, 0, 0⟩).wf = true := by decide
theorem test_wf_system_function : (Instr.dgrantCore ⟨0, 0, 0, 0, 0⟩).wf = false ∧ (Instr.dgrantCore ⟨0, 0, 0, 0, 1⟩).wf = true := by decide
theorem test_wf_unused_predicate_field : (Instr.pand ⟨1, 0, 2, 3, 0⟩).wf = false ∧ (Instr.pand ⟨1, 0, 2, 0, 0⟩).wf = true := by decide

/-! ### States that meet the hypotheses of the statements -/

/-- A context with a strand, every vector register live, every vector bank at full power, S[k] = 64k, p1 with every other bit. -/
def strand : Ctx :=
  { Ctx.reset with
    occ := .strand, pc := 40, livev := BitVec.allOnes 32, livep := 0xFFFF
    vbank := Vector.replicate 8 ⟨.full, 0, 0, 0⟩
    sreg := Vector.ofFn fun k => BitVec.ofNat 64 (64 * k.val)
    preg := Vector.ofFn fun k => if k.val = 1 then 0x55555555555555555555555555555555 else BitVec.allOnes 128 }

/-- A TLB entry for page 0 of the root domain: die 0's memory from its first byte, every permission. -/
def page0 : Tlb := ⟨0, 0, 0, 0, true, true, true, 0, 0, 0, 0, false, true, 0⟩

/-- The machine after reset with such a strand in slot 0 of core 0, the page in the core's TLB, its timebase at 5000. -/
def ready : State :=
  let s := { State.reset with ctx := strand }
  modDie (modCore s ⟨0, 0⟩ fun k => { k with tlb := [page0] }) 0 fun y => { y with tb := 5000 }

/-- With `S[k] = v`. -/
def withS (k : BitVec 5) (v : Word) (s : State) : State := s.setS k v

/-- With the focused context changed. -/
def on (f : Ctx → Ctx) : State := ready.onCtx f

theorem ready_calm : ready.Calm := by unfold State.Calm; decide +kernel
theorem ready_clear : ready.Clear := by unfold State.Clear State.Calm; decide +kernel
theorem ready_supervisor : (on fun c => { c with priv := true }).Supervisor := by unfold State.Supervisor State.Calm; decide +kernel
theorem ready_maps (va : BitVec 48) (acc : Access) (h : va = 64 ∨ va = 128 ∨ va = 0) : Maps ready va acc page0 (.mem 0 va.toNat) := by
  rcases h with rfl | rfl | rfl <;> cases acc <;> exact ⟨by decide +kernel, by decide +kernel, by decide +kernel, by decide +kernel, rfl, by decide +kernel⟩

/-! ### One witness per statement: its hypotheses together, and those of its clauses at boundary values -/

theorem witness_ScalarArithmetic : ready.Calm := ready_calm
theorem witness_ScalarShifts : ready.Calm := ready_calm
theorem witness_ScalarMultiply : ready.Calm := ready_calm
/-- A zero divisor (S[0] = 0), the overflow, and an ordinary division. -/
theorem witness_ScalarDivide : ready.Calm ∧ ready.ctx.s 0 = 0 ∧ ready.ctx.s 1 ≠ 0 ∧
    (let s := withS 1 0x8000000000000000 (withS 2 0xFFFFFFFFFFFFFFFF ready)
     s.Calm ∧ (s.ctx.s 1).toInt = -(2 ^ 63) ∧ (s.ctx.s 2).toInt = -1) := by
  unfold State.Calm; decide +kernel
theorem witness_ScalarCounts : ready.Calm := ready_calm
theorem witness_ScalarConstants : ready.Calm := ready_calm
/-- Nothing enabled; then Invalid enabled (FPC bit 4) with an infinity minus an infinity. -/
theorem witness_FloatArithmetic : ready.Calm ∧ (0x10 : Fl) &&& ready.ctx.en = 0 ∧
    (let s := withS 1 0x7F800000 ((on fun c => { c with fpc := 0x1F0 }).onCtx fun c => { c with eff := ⟨0x1F0, false⟩ })
     let v := Val.add false (Fmt.fp32.decode ((s.ctx.s 1).toNat % 2 ^ 32)) (Fmt.fp32.decode ((s.ctx.s 1).toNat % 2 ^ 32)).neg
     s.Calm ∧ v.fl &&& s.ctx.en ≠ 0) := by
  unfold State.Calm; decide +kernel
/-- A NaN with a number, two NaNs, an equality, an order; an enabled flag. -/
theorem witness_FloatSelectCompareConvert : ready.Calm ∧
    (let s := withS 1 0x7FC00000 (withS 2 0x3F800000 (withS 3 0x80000000 (withS 4 0 ready)))
     let v (n : BitVec 5) := Fmt.fp32.decode ((s.ctx.s n).toNat % 2 ^ 32)
     s.Calm ∧ (v 1).isNan = true ∧ (v 2).isNan = false ∧ (v 2).cmp (v 2) = some .eq ∧ (v 3).cmp (v 4) = some .eq ∧ (v 3).isZero = true ∧
       (v 3).sign = true ∧ (v 4).sign = false ∧ (v 4).cmp (v 2) = some .lt) := by
  unfold State.Calm; decide +kernel
theorem witness_PredicateLogic : ready.Calm := ready_calm
/-- A target at each end of the range and outside it; a condition that holds (equal registers) and one that does not. -/
theorem witness_BranchesAndCalls : ready.Calm ∧ (ready.ctx.pc.toNat : Int) + (-40 : BitVec 27).toInt = 0 ∧
    (ready.ctx.pc.toNat : Int) + (-41 : BitVec 27).toInt < 0 ∧ ready.ctx.s 1 = ready.ctx.s 1 ∧ ready.ctx.s 1 ≠ ready.ctx.s 2 ∧
    (on fun c => { c with pc := 0xFFFFFFFFFF }).Calm ∧ ¬ ((on fun c => { c with pc := 0xFFFFFFFFFF }).ctx.pc.toNat : Int) + 1 < 2 ^ 40 := by
  unfold State.Calm; decide +kernel
theorem witness_HardwareLoops : ready.Calm ∧ ready.ctx.draining = false ∧ ready.ctx.lc = 0 ∧ ready.ctx.esc = 0 ∧
    ((on fun c => { c with lc := 1 }).Calm ∧ (on fun c => { c with lc := 1 }).ctx.lc ≠ 0) ∧
    ((on fun c => { c with esc := 15 }).Calm ∧ (on fun c => { c with esc := 15 }).ctx.esc ≠ 0) ∧
    ((on fun c => { c with draining := true }).Calm ∧ (on fun c => { c with draining := true }).ctx.win = [] ∧
      (on fun c => { c with draining := true }).ctx.buffered = []) := by
  unfold State.Calm; decide +kernel
theorem witness_TrapEntry :
    let s := on fun c => { c with te := true, trp := 128, tvb := 7 }
    s.memGood ∧ Delivery.p ≠ .b ∧ s.ctx.te = true ∧ s.ctx.win = [] ∧ s.ctx.region.stores = [] ∧ (0x20 : BitVec 8) ≠ cDirtyLogFull ∧
      Maps s s.ctx.trp .write page0 (.mem 0 128) ∧ page0.pl ≠ 3 ∧ serves s 0 = true ∧ 128 % 64 = 0 ∧ 128 + 128 ≤ 2 ^ 35 ∧
      (∀ k, k < 16 → pageMoves s s.ctx.dom (s.ctx.trp + BitVec.ofNat 48 (8 * k)) = false) ∧ storesOut s s.cur = false := by
  refine ⟨by unfold State.memGood; decide +kernel, by decide, by decide +kernel, by decide +kernel, by decide +kernel, by decide, ?_, by decide, by decide +kernel, by decide, by decide, by decide +kernel, by decide +kernel⟩
  exact ⟨by decide +kernel, by decide +kernel, by decide +kernel, by decide +kernel, rfl, by decide +kernel⟩
theorem witness_TrapRecordHeader : (TrapAt.plain 40 40 41).entry = none ∧ (precise cPermission [0]).del ≠ .d := by decide
theorem witness_TrapInstructionAndReturn :
    let s := on fun c => { c with te := false }
    (ready.ctx.win = [] ∧ ready.ctx.buffered = []) ∧ (s.Calm ∧ s.ctx.te = false ∧ s.ctx.occ = .strand ∧ s.ctx.win = [] ∧ s.ctx.buffered = []) ∧ ready.Calm ∧ ready.ctx.te = true := by
  unfold State.Calm; decide +kernel
/-- Live state; none; a demand for suspension of grade 0. -/
theorem witness_SuspendYieldHalt :
    let s := on fun c => { c with te := true }
    let q := on fun c => { c with te := true, livev := 0, livep := 1 }
    let y := on fun c => { c with te := true, livev := 0, livep := 1, preq := some ⟨0, 0⟩ }
    (s.Calm ∧ s.ctx.te = true ∧ s.ctx.occ = .strand ∧ s.ctx.win = [] ∧ s.ctx.buffered = [] ∧ s.ctx.livev ≠ 0) ∧
    (q.Calm ∧ q.ctx.livev = 0 ∧ q.ctx.livep ||| 1 = 1 ∧ liveBits q.ctx.hmap = 0 ∧ recordWaits q q.cur q.ctx.dom q.ctx.pri = false) ∧
    (y.Calm ∧ y.ctx.preq = some ⟨0, 0⟩) := by
  unfold State.Calm; decide +kernel
theorem witness_CsrRead : ready.Calm ∧ ready.ctx.dom = 0 ∧
    (let s := putDom ready { Dom.root with cores := [⟨⟨0, 0⟩, 2, 5⟩] }
     s.Calm ∧ (virtOf s s.ctx.dom s.cur.core).isSome = true) := by
  unfold State.Calm; decide +kernel
/-- S[1] = 64 has a bit outside VRB and PRB; S[0] = 0 has none. -/
theorem witness_CsrWriteRegisters : ready.Calm ∧ ready.ctx.draining = false ∧ ready.ctx.buffered = [] ∧ ready.ctx.trp.toNat % 128 = 0 ∧
    ready.ctx.s 1 &&& ~~~0xF ≠ 0 ∧ ready.ctx.s 0 &&& ~~~0xF = 0 ∧ (∀ b : Fin 8, ready.ctx.vbank[b.val].st ≠ .retention) ∧ (ready.ctx.s 1).toNat < 2 ^ 16 := by
  unfold State.Calm; decide +kernel
theorem witness_CsrWriteControl : ready.Calm ∧ ready.ctx.win = [] ∧ ready.ctx.buffered = [] ∧
    ((withS 1 0x3FFD ready).ctx.s 1).toNat < 2 ^ 14 ∧ ((withS 1 0x3FFD ready).ctx.s 1).toNat % 8 < 6 ∧ 2 ^ 14 ≤ ((withS 1 0x4000 ready).ctx.s 1).toNat ∧
    6 ≤ ((withS 1 6 ready).ctx.s 1).toNat % 8 ∧
    (withS 1 0xC5 ready).ctx.s 1 &&& ~~~0xC5 = 0 ∧ ((withS 1 0xC5 ready).ctx.s 1).getLsbD 6 = true ∧
    (domAt (putDom (withS 1 0xC5 ready) { Dom.root with rallow := false }) 0).rallow = false ∧ (withS 1 2 ready).ctx.s 1 &&& ~~~0xC5 ≠ 0 ∧
    (withS 1 0x80 ready).ctx.s 1 = 0x80 := by
  unfold State.Calm; decide +kernel
theorem ready_readable (n : BitVec 5) : ready.ctx.Readable n := by revert n; unfold Ctx.Readable; decide +kernel
theorem witness_VectorArithmetic : ready.Calm ∧ ready.ctx.Readable 4 ∧ ready.ctx.Readable 31 := ⟨ready_calm, ready_readable _, ready_readable _⟩
theorem witness_IntegerElements : 0 < 8 := by decide
theorem witness_VectorLogicAndMoves : ready.Calm ∧ ready.ctx.Readable 4 := ⟨ready_calm, ready_readable _⟩
/-- Nothing enabled; Invalid enabled with signalling NaNs in an active element of V[4]. -/
theorem witness_VectorCompareSelectConvert : ready.Calm ∧ ready.ctx.Readable 4 ∧
    (let s := on fun c => { c with fpc := 0x1F0, eff := ⟨0x1F0, false⟩, vreg := Vector.replicate 32 0x7F800001 }
     s.Calm ∧ s.ctx.Readable 4 ∧ ((Ty.fp .fp32).compare 1 s.ctx.ftz (elemAt (s.ctx.v 4).toNat 32 0) 0).fl &&& s.ctx.en ≠ 0) := by
  refine ⟨ready_calm, ready_readable _, ?_⟩
  unfold State.Calm Ctx.Readable; decide +kernel
theorem witness_VectorReductions : ready.Calm ∧ ready.ctx.Readable 4 := ⟨ready_calm, ready_readable _⟩
theorem witness_VectorSpecialFunctions : ready.Calm ∧ ready.ctx.Readable 4 ∧ Ty.ofCode 7 = .fp .fp32 ∧ Ty.ofCode 5 = .fp .bf16 :=
  ⟨ready_calm, ready_readable _, by decide, by decide⟩
/-- A dead register; a register in a bank in retention. -/
theorem witness_DeadVectorSource :
    let s := on fun c => { c with livev := 0 }
    let q := on fun c => { c with vbank := Vector.replicate 8 ⟨.retention, 0, 0, 0⟩ }
    (s.Calm ∧ s.ctx.vLive 4 = false) ∧ (q.Calm ∧ q.ctx.vLive 4 = true ∧ q.ctx.vpar = [] ∧ (q.ctx.bank (physV q.ctx.vrb 4)).st = .retention ∧ q.ctx.win = []) := by
  unfold State.Calm; decide +kernel
/-- With V[4] zero every lane scatters to element 0: a collision; with p1 of one bit none. -/
theorem witness_CrossbarMoves : ready.Calm ∧ ready.ctx.Readable 4 ∧ elemAt (ready.ctx.v 4).toNat 8 0 % 128 = 0 ∧ elemAt (ready.ctx.v 4).toNat 8 1 % 128 = 0 ∧
    (ready.ctx.p 2).getLsbD 0 = true ∧ (ready.ctx.p 2).getLsbD 1 = true ∧
    (let s := on fun c => { c with preg := Vector.replicate 16 1 }
     s.Calm ∧ ((List.range 128).filter fun j => (s.ctx.p 2).getLsbD j).length ≤ 1) := by
  refine ⟨ready_calm, ready_readable _, ?_⟩
  unfold State.Calm; decide +kernel
/-- A tile of 2 rows of 32 elements of 32 bits in own handle 2. -/
def tile2 : Tile :=
  { tid := 7, dom := 0, grp := 0, ix := 0, slot := some 0, handle := 2, st := .live, lvl := .s, fmt := 4, rows := 2, cols := 32, plane := false, bs := false
    dense := true, pitch := 0, run := 0, rot := 0, banks := [], aslot := none, unit0 := 0, units := 1, data := [1, 2], pois := 0, acc := none, since := 0 }

/-- With tiles in the core and their handles in the map. -/
def holding (l : List Tile) (s : State) : State :=
  (modCore s ⟨0, 0⟩ fun k => { k with tiles := l, nextTid := 20 }).onCtx fun c =>
    { c with hmap := l.foldl (fun m t => if h : t.handle.val < 24 then m.set t.handle.val (some t.tid) h else m) c.hmap }

theorem witness_VectorTileAccess :
    let s := holding [tile2] ready
    s.Calm ∧ s.tileOf 2 = some (.own 7, tile2) ∧ tile2.st ≠ .discarded ∧ tile2.plane = false ∧ tile2.pois = 0 ∧
      tileBusy s.ctx (.own 7) = false ∧ tileReady (coreAt s s.cur.core) tile2 = true ∧
      (s.ctx.s 0).toNat % 4 = 0 ∧ (s.ctx.s 0).toNat + 1 < tile2.rows ∧ (s.ctx.s 1).toNat < tile2.rb ∧ tile2.lvl ≠ .a ∧ s.ctx.buffered = [] ∧
      s.ctx.livev = BitVec.allOnes 32 := by
  unfold State.Calm; decide +kernel

theorem ready_clean : Clean ready 0 64 := by unfold Clean; decide +kernel
/-- An access without an order and one with: S[1] = 64, an offset of 0 and of 64. -/
theorem witness_Loads : ready.Calm ∧ ready.ctx.win = [] ∧ Maps ready 64 .read page0 (.mem 0 64) ∧ Clean ready 0 64 ∧ ready.ctx.buffered = [] ∧
    storesOut ready ready.cur = false ∧ ready.ctx.region.stores = [] ∧
    3 ≤ ceilScope (domAt ready ready.ctx.dom).ceil ∧ ((ready.ctx.s 1).toNat : Int) + (0 : BitVec 20).toInt = (64 : BitVec 48).toNat ∧
    ((ready.ctx.s 2).toNat : Int) + (-64 : BitVec 20).toInt = (64 : BitVec 48).toNat ∧ (64 : BitVec 48).toNat % 8 = 0 :=
  ⟨ready_calm, by decide +kernel, ready_maps _ _ (.inl rfl), ready_clean, by decide +kernel⟩
theorem witness_Stores : ready.Calm ∧ ready.ctx.win = [] ∧ Maps ready 64 .write page0 (.mem 0 64) ∧ ready.ctx.buffered.length < 16 ∧
    3 ≤ ceilScope (domAt ready ready.ctx.dom).ceil ∧ ((ready.ctx.s 1).toNat : Int) + (0 : BitVec 20).toInt = (64 : BitVec 48).toNat :=
  ⟨ready_calm, by decide +kernel, ready_maps _ _ (.inl rfl), by decide +kernel⟩
/-- Two buffered stores that overlap. -/
theorem witness_BufferedStores :
    let s := on fun c => { c with region := { c.region with shadow := some c.shadowOf, stores := [⟨64, 8, 0x1122334455667788, ⟨0, 64⟩, false, false⟩, ⟨66, 2, 0xAABB, ⟨0, 66⟩, false, true⟩] } }
    s.memGood ∧ (∀ g, g ∈ s.ctx.region.stores → g.loc.leaf.extractLsb' 4 2 ≠ 3 ∧ storeHeld s s.cur.core.die s.ctx.dom g = false ∧
      ∃ d off, g.place s = .mem d off ∧ serves s d = true ∧ tabGet? s.latent (lineKey d off) = none) ∧ storesOut s s.cur = false := by
  refine ⟨by unfold State.memGood; decide +kernel, fun g h => ?_, by decide +kernel⟩
  rcases List.mem_cons.1 h with rfl | h
  · exact ⟨by decide, by decide +kernel, 0, 64, rfl, by decide +kernel, by decide +kernel⟩
  · rw [List.mem_singleton.1 h]; exact ⟨by decide, by decide +kernel, 0, 66, rfl, by decide +kernel, by decide +kernel⟩
theorem witness_Atomics : ready.Calm ∧ ready.memGood ∧ ready.ctx.win = [] ∧ ready.ctx.region.stores = [] ∧ Maps ready 64 .atomic page0 (.mem 0 64) ∧ Clean ready 0 64 ∧
    page0.pl ≠ 3 ∧ serves ready 0 = true ∧ storesOut ready ready.cur = false ∧ (3 : BitVec 3).toNat ≤ ceilScope (domAt ready ready.ctx.dom).ceil ∧ (ready.ctx.s 1).toNat = (64 : BitVec 48).toNat ∧
    (64 : BitVec 48).toNat % (64 / 8) = 0 :=
  ⟨ready_calm, by unfold State.memGood; decide +kernel, by decide +kernel, by decide +kernel, ready_maps _ _ (.inl rfl), ready_clean, by decide +kernel⟩

/-- A page of host memory. -/
def pageHost : Tlb := { page0 with ppn := 0x40000000 }
/-- Misaligned, outside 48 bits, without the permission, discarded, in host memory. -/
theorem witness_AccessFaults : ready.Calm ∧ ready.ctx.buffered.length < 16 ∧ ((ready.ctx.s 1).toNat : Int) + (1 : BitVec 20).toInt = 65 ∧ (65 : Int) % 2 ≠ 0 ∧
    ((ready.ctx.s 0).toNat : Int) + (-8 : BitVec 20).toInt < 0 ∧ ((-8 : Int) % 8 = 0) ∧
    2 ^ 48 ≤ ((withS 1 0x1000000000000 ready).ctx.s 1).toNat ∧
    (let s := modCore ready ⟨0, 0⟩ fun k => { k with tlb := [{ page0 with r := false, w := false }] }
     s.Calm ∧ tlbFind (coreAt s s.cur.core).tlb s.ctx.dom 64 .read = some { page0 with r := false, w := false } ∧ ({ page0 with r := false, w := false } : Tlb).allows .read = false) ∧
    (let s := modCore ready ⟨0, 0⟩ fun k => { k with tlb := [{ page0 with st := 1 }] }
     s.Calm ∧ tlbFind (coreAt s s.cur.core).tlb s.ctx.dom 64 .write = some { page0 with st := 1 } ∧ ({ page0 with st := 1 } : Tlb).allows .write = true) ∧
    (let s := modCore ready ⟨0, 0⟩ fun k => { k with tlb := [pageHost] }
     s.Calm ∧ ∃ h, Maps s 64 .atomic pageHost (.host h)) := by
  refine ⟨ready_calm, by decide +kernel, by decide +kernel, by decide +kernel, by decide +kernel, by decide +kernel, by decide +kernel, by unfold State.Calm; decide +kernel, by unfold State.Calm; decide +kernel,
    by unfold State.Calm; decide +kernel, 64, by decide +kernel, by decide +kernel, by decide +kernel, by decide +kernel, rfl, by decide +kernel⟩

/-- The state with a program placed at the program counter: page tables of two pointers and a leaf, in domain 1. -/
def running : State := State.reset.withFetchWord 80 (placed 0x4018440000 1)

theorem placed_at {x : Except PlaceErr Place} {q : Place} (h : (match x with
    | .ok p => decide (p = q)
    | .error _ => false) = true) : x = .ok q := by
  cases x with
  | ok p => exact congrArg _ (of_decide_eq_true h)
  | error e => cases h

/-- A write and a fetch through the tables of that state. -/
theorem witness_PageWalk (acc : Access) : running.memGood ∧
    (∃ t, stage2 running 1 0x100000 = some t ∧ t.r = true ∧ placeOf running 0 0 (t.pa.extractLsb' 35 2) t.pa = .ok (.mem 0 0x100000)) ∧
    (∃ t, stage2 running 1 0x102000 = some t ∧ t.r = true ∧ placeOf running 0 0 (t.pa.extractLsb' 35 2) t.pa = .ok (.mem 0 0x102000)) ∧
    (∃ t, stage2 running 1 0x104000 = some t ∧ t.r = true ∧ placeOf running 0 0 (t.pa.extractLsb' 35 2) t.pa = .ok (.mem 0 0x104000)) ∧
    BitVec.ofNat 64 (devRead8 running (.mem 0 0x100000)) = 0x102001 ∧ BitVec.ofNat 64 (devRead8 running (.mem 0 0x102000)) = 0x104001 ∧
    BitVec.ofNat 64 (devRead8 running (.mem 0 0x104000)) = 0x14000F ∧ (domAt running 1).ptroot = 0x100000 ∧
    (0x102001 : Word).extractLsb' 1 12 = 0 ∧ (0x102001 : Word).extractLsb' 52 12 = 0 ∧ ((0x102001 : Word).extractLsb' 13 39 ++ (0 : BitVec 13) : BitVec 52) = 0x102000 ∧
    ((0x104001 : Word).extractLsb' 13 39 ++ (0 : BitVec 13) : BitVec 52) = 0x104000 ∧
    (0x14000F : Word).getLsbD 0 = true ∧ (0x14000F : Word).extractLsb' 1 3 ≠ 0 ∧ (0x14000F : Word).extractLsb' 52 12 = 0 ∧ (0x14000F : Word).extractLsb' 15 3 = 0 ∧
    (0x14000F : Word).getLsbD 1 = true ∧ (0x14000F : Word).extractLsb' 4 2 = 0 ∧
    (∃ g, stage2 running 1 0x140000 = some g ∧ placeOf running ((0x14000F : Word).extractLsb' 8 2) ((0x14000F : Word).extractLsb' 12 2) ((0x14000F : Word).extractLsb' 10 2) g.pa = .ok (.mem 0 0x140000) ∧
      (match acc with
        | .fetch => ((0x14000F : Word).getLsbD 3 && g.x) = true
        | .read => ((0x14000F : Word).getLsbD 1 && g.r) = true
        | .write => ((0x14000F : Word).getLsbD 2 && g.w) = true
        | .atomic => ((0x14000F : Word).getLsbD 1 && g.r && (0x14000F : Word).getLsbD 2 && g.w) = true)) ∧
    (domAt running 1).dlog = false ∧ (domAt? running 1).isSome = true ∧ (virtOf running 1 running.cur.core).isSome = true := by
  refine ⟨by unfold State.memGood; decide +kernel, ⟨_, rfl, by decide +kernel, placed_at (by decide +kernel)⟩, ⟨_, rfl, by decide +kernel, placed_at (by decide +kernel)⟩, ⟨_, rfl, by decide +kernel, placed_at (by decide +kernel)⟩,
    by decide +kernel, by decide +kernel, by decide +kernel, by decide +kernel, by decide, by decide, by decide, by decide, by decide, by decide, by decide, by decide, by decide, by decide,
    ⟨_, rfl, placed_at (by decide +kernel), by cases acc <;> decide +kernel⟩, by decide +kernel, by decide +kernel, by decide +kernel⟩

/-! ### Tiles and the window -/

def tileOf_ (tid : Nat) (h : Fin 32) (lvl : Lvl) (fmt : BitVec 4) (rows cols : Nat) (plane : Bool) : Tile :=
  { tile2 with tid := tid, handle := h, lvl := lvl, fmt := fmt, rows := rows, cols := cols, plane := plane, data := List.replicate rows 0
               acc := if lvl == .a then some (Acc.clear 0) else none }

/-- An accumulator, two operands of MMA, a tile of scales, a tile of statistics. -/
def tiled : State := holding [tileOf_ 1 1 .a 9 32 32 false, tileOf_ 2 2 .s 1 32 32 true, tileOf_ 3 3 .s 1 32 32 false, tileOf_ 4 4 .s 2 1 512 false,
  tileOf_ 5 5 .s 4 3 32 false, tileOf_ 6 6 .s 1 32 32 false, tileOf_ 7 7 .s 5 32 32 false] ready

/-- A copy between equal shapes, a dead handle, a transposition, a plane change, a conversion's formats, an accumulator, statistics. -/
theorem witness_TileTransforms : tiled.Clear ∧ (tiled.opnd 3).dead = false ∧ (tiled.opnd 6).ok2 (tiled.opnd 3) (fun t u => t.fmt == u.fmt && t.rows == u.rows && t.cols == u.cols && t.rows == u.cols && t.plane == u.plane) = true ∧
    (tiled.opnd 2).ok2 (tiled.opnd 3) (fun t u => t.fmt == u.fmt && t.plane != u.plane) = true ∧
    (tiled.opnd 7).ok2 (tiled.opnd 3) (fun t u => t.fmt != u.fmt && t.rows == u.rows) = true ∧ (tiled.opnd 7).ok (fun t => t.fmt == 5) = true ∧
    (tiled.opnd 8).dead = true ∧ (tiled.opnd 1).ok (fun t => t.lvl == .a) = true ∧ (tiled.opnd 5).ok (fun t => t.fmt == 4 && t.rows == 3) = true ∧
    (Instr.tcopy ⟨6, 3, 0, 0, 0, 0, 0, 0⟩).wf = true ∧ (Instr.tfree ⟨3, 0, 0, 0, 0, 0, 0, 0⟩).wf = true := by
  unfold State.Clear State.Calm; decide +kernel
/-- MMA with its checks met and EBUD 1, and EBUD 0; a scale queue that one entry just fills, and one that is full. -/
theorem witness_MatrixIssue :
    let s := tiled.onCtx fun c => { c with ebud := 1 }
    let q (n : Nat) := tiled.onCtx fun c => { c with scq := List.replicate n ⟨0, false⟩ }
    s.Clear ∧ s.ctx.ebud ≠ 0 ∧ tiled.ctx.ebud = 0 ∧ (Instr.mma ⟨1, 2, 3, 0, 0, 0, 0, 0, 0, 0⟩).wf = true ∧
      (s.opnd 1).ok (fun t => t.lvl == .a) = true ∧ (s.opnd 2).ok (fun t => t.plane && t.rows == 32 && t.cols % 32 == 0 && t.fmt != 4 && t.fmt != 9) = true ∧
      (s.opnd 3).ok (fun t => !t.plane && t.cols == 32) = true ∧ (s.opnd 2).ok2 (s.opnd 3) (fun t u => t.cols == u.rows) = true ∧
      (s.opnd 9).dead = true ∧ (s.opnd 2).ok (fun t => t.lvl == .a) = false ∧ (s.opnd 3).ok (fun t => t.plane) = false ∧
      (q 511).Clear ∧ (q 511).ctx.scq.length + 1 ≤ 512 ∧ (q 512).Clear ∧ 512 < (q 512).ctx.scq.length + 1 ∧ (Instr.tsqld ⟨0, 4, 0, 0, 0, 0, 0, 0⟩).wf = true ∧
      ((q 511).opnd 4).dead = false ∧ ((q 511).opnd 4).ok (fun u => u.fmt == 2 && !u.plane && u.lvl != .a && decide (((q 511).ctx.s 0).toNat + 1 ≤ u.rows * u.cols)) = true := by
  unfold State.Clear State.Calm; decide +kernel
/-- Room for one unit and for one accumulator; no allotment; a live handle; a shape of more than 32 banks. -/
theorem witness_TileAllocation :
    let s := (on fun c => { c with sAllot := 1, aAllot := 1 })
    s.Clear ∧ (Instr.talloc ⟨23, 0, 1, 31, 31, 0⟩).wf = true ∧ (23 : BitVec 5).toNat < 24 ∧ tileBanks 1 32 32 false ≤ 1 ∧ usedBanks s + tileBanks 1 32 32 false ≤ s.ctx.sAllot ∧
      usedATiles s + 1 ≤ s.ctx.aAllot ∧ s.refOf 23 = none ∧ tableUsed (coreAt s s.cur.core) < 128 ∧ ready.Clear ∧ ¬ usedBanks ready + tileBanks 1 32 32 false ≤ ready.ctx.sAllot ∧
      tiled.Clear ∧ 32 < tileBanks 4 512 512 false ∧ ∃ u, tiled.opnd 3 = .tile u ∧ u.st ≠ .discarded := by
  unfold State.Clear State.Calm
  dsimp only
  repeat' apply And.intro
  all_goals first | decide +kernel | exact ⟨_, rfl, by decide⟩
/-- The record of a window of 32 by 32 bytes in a row-major object of 32 by 32. -/
def record32 : VReg := 0x11 + (32 + 32 * 2 ^ 32) * 2 ^ 128 + 32 * 2 ^ 256 + (32 + 32 * 2 ^ 16) * 2 ^ 576
/-- A record whose checks pass, one for another shape, one with a reserved bit, a dead record register. -/
theorem witness_TileTransfers :
    let s := tiled.onCtx fun c => { c with vreg := Vector.ofFn fun k => if k.val = 9 then record32 else if k.val = 10 then record32 + 2 ^ 576 else record32 + 2 ^ 1023 }
    s.Clear ∧ (Instr.tload ⟨3, 9, 1, 0, 0, 0, 0⟩).wf = true ∧ s.ctx.Readable 9 ∧ recordReserved (s.ctx.v 9) = false ∧
      (firstBad (transferChecks 5 (recordOf (s.ctx.v 9)) (s.ctx.s 1) (s.opnd 3))).isNone = true ∧
      s.ctx.Readable 10 ∧ recordReserved (s.ctx.v 10) = false ∧ (firstBad (transferChecks 5 (recordOf (s.ctx.v 10)) (s.ctx.s 1) (s.opnd 3))).isSome = true ∧
      s.ctx.Readable 11 ∧ recordReserved (s.ctx.v 11) = true ∧ (firstBad (transferChecks 5 (recordOf (s.ctx.v 11)) (s.ctx.s 1) (s.opnd 3))).isNone = true ∧
      (s.onCtx fun c => { c with livev := 0 }).ctx.vLive 9 = false := by
  unfold State.Clear State.Calm Ctx.Readable
  dsimp only
  refine ⟨?_, ?_, ?_, ?_, ?_, ?_, ?_, ?_, ?_, ?_, ?_, ?_⟩ <;> decide +kernel
/-- The word at `64 + 8 * k` of page 0 is described. -/
def spot (s : State) (k : Nat) : Bool :=
  tlbFind (coreAt s s.cur.core).tlb s.ctx.dom (BitVec.ofNat 48 (64 + 8 * k)) .read == some page0 &&
    (match placeOf s 0 0 0 (page0.ppn ++ (BitVec.ofNat 48 (64 + 8 * k)).extractLsb' 0 18) with
      | .ok p => decide (p = .mem 0 (64 + 8 * k))
      | .error _ => false) && !homeAwaited s s.cur.core.die (.mem 0 (64 + 8 * k)) && (tabGet? s.latent (lineKey 0 (64 + 8 * k))).isNone && !linePoisoned s (lineKey 0 (64 + 8 * k))

def spots (n : Nat) : List Place := (List.range n).map fun k => .mem 0 (64 + 8 * k)

theorem describes_of {s : State} {n : Nat} (m : s.mem = []) (h : n ≤ 4096) (q : ∀ k : Nat, k < n → spot s k = true) :
    Describes s 64 n (spots n) (List.replicate n 0) := by
  refine ⟨by decide, ?_, by simp [spots], by simp, fun k hk => ⟨page0, 0, 64 + 8 * k, ?_, ?_, ?_, ?_⟩⟩
  · have : (64 : Word).toNat = 64 := by decide
    omega
  · simp [spots, hk]
  · have := q k hk
    unfold spot at this
    simp only [Bool.and_eq_true, beq_iff_eq, Bool.not_eq_true'] at this
    exact ⟨this.1.1.1.1, by decide, by decide, by decide, placed_at this.1.1.1.2, this.1.1.2⟩
  · have := q k hk
    unfold spot at this
    simp only [Bool.and_eq_true, Bool.not_eq_true', Option.isNone_iff_eq_none] at this
    exact ⟨this.1.2, this.2⟩
  · rw [List.getElem?_replicate_of_lt hk, m]
    rfl

def supervisor : State := on fun c => { c with priv := true }
theorem supervisor_describes {n : Nat} (h : n ≤ 2138) : Describes supervisor 64 n (spots n) (List.replicate n 0) :=
  describes_of (by decide +kernel) (by omega) fun k hk => by
    have := (by decide +kernel : (List.range 2138).all (spot supervisor) = true)
    exact List.all_eq_true.1 this k (List.mem_range.2 (by omega))

/-- A launch with a group of one strand. -/
def launchedWith (rng : Bool) (shares : List Share) : State :=
  let l : Launch := ⟨3, (Vector.replicate 16 0).set 2 (if rng then 2 ^ 31 else 0), 64, 0, shares, none, none, Vector.replicate 4 .met, [], 0⟩
  let g : Group := ⟨0, 3, 0, 0, Vector.replicate 16 0, [.resident ⟨⟨0, 0⟩, 0⟩], Vector.replicate 4 ⟨0, false⟩, Vector.replicate 8 none⟩
  { modDie ready 0 fun y => { y with groups := [g] } with launches := [l] }
def launched : State := launchedWith false []
/-- A chunk of the own share; an inherited one; none left; the victim of a steal. -/
theorem witness_LaunchInstructions_claims : (∀ l ∈ [[Share.mk 0 0 1 [] [] [] []], [Share.mk 0 0 0 [] [] [7] []], [Share.mk 0 0 0 [] [] [] []], [Share.mk 0 0 0 [] [] [] [], Share.mk 1 0 2 [] [] [] []]],
      let s := launchedWith true l
      s.Calm ∧ s.ctx.occ = .strand ∧ ((groupAt s s.ctx.grp).bind fun g => launchAt s g.launch).any (fun k => lRng k.record && k.shares == l) = true) ∧
    shareDry 0 [Share.mk 0 0 1 [] [] [] []] = false ∧ (claim 0 0 0 [Share.mk 0 0 1 [] [] [] []]).1 = some 0 ∧
    shareDry 0 [Share.mk 0 0 0 [] [] [7] []] = false ∧ (claim 0 0 0 [Share.mk 0 0 0 [] [] [7] []]).1 = some 7 ∧
    victimOf [Share.mk 0 0 0 [] [] [] []] = none ∧ (claim 0 0 0 [Share.mk 0 0 0 [] [] [] []]).1 = none ∧
    (let l := [Share.mk 0 0 0 [] [] [] [], Share.mk 1 0 2 [] [] [] []]
     shareDry 0 l = true ∧ (victimOf l).any (fun v => v.die == 1) = true) := by
  unfold State.Calm; decide +kernel
theorem witness_LaunchInstructions : ready.Calm ∧ ready.ctx.win = [] ∧ ready.ctx.region.stores = [] ∧ (ready.ctx.s 1).toNat % 64 = 0 ∧ (ready.ctx.s 1).toNat < 2 ^ 48 ∧
    (ready.ctx.s 1).toNat + 64 < 2 ^ 48 ∧ storesOut ready ready.cur = false ∧ tabGet? ready.latent (lineKey 0 64) = none ∧ tabGet? ready.latent (lineKey 0 128) = none ∧
    Maps ready ((ready.ctx.s 1).setWidth 48) .read page0 (.mem 0 64) ∧ Maps ready ((ready.ctx.s 1).setWidth 48 + 64) .read page0 (.mem 0 128) ∧
    ((withS 1 65 ready).ctx.s 1).toNat % 64 ≠ 0 ∧ 2 ^ 48 ≤ ((withS 1 0x1000000000000 ready).ctx.s 1).toNat ∧ ready.ctx.occ = .strand ∧ (groupAt ready ready.ctx.grp).isNone = true ∧
    (launched.Calm ∧ (groupAt launched launched.ctx.grp).isSome = true ∧ (launchAt launched 3).any (fun l => !lRng l.record) = true) ∧
    (on fun c => { c with occ := .refl 1 0 }).Calm :=
  ⟨ready_calm, by decide +kernel, by decide +kernel, by decide +kernel, by decide +kernel, by decide +kernel, by decide +kernel, by decide +kernel, by decide +kernel, ready_maps _ _ (.inl (by decide +kernel)), ready_maps _ _ (.inr (.inl (by decide +kernel))),
    by decide +kernel, by decide +kernel, by decide +kernel, by decide +kernel, by unfold State.Calm; decide +kernel, by unfold State.Calm; decide +kernel⟩

/-- The own core, and a core that the domain does not hold. -/
theorem witness_FlagOperations : ready.Calm ∧ ready.ctx.win = [] ∧ ready.ctx.region.stores = [] ∧ storesOut ready ready.cur = false ∧ serves ready ready.cur.core.die = true ∧
    2 ≤ ceilScope (domAt ready ready.ctx.dom).ceil ∧ physOf ready ready.ctx.dom 0 0 = none := by
  unfold State.Calm; decide +kernel
/-- A fence within and beyond the ceiling, with narrowing and with the trap; a barrier; a met and an unmet flag; a time past and to come. -/
theorem witness_WaitOperations : ready.Calm ∧ ready.ctx.win = [] ∧ ready.ctx.region.stores = [] ∧ storesOut ready ready.cur = false ∧ (3 : BitVec 5).toNat ≤ ceilScope (domAt ready ready.ctx.dom).ceil ∧
    (let s := putDom ready { Dom.root with ceil := 1, cmode := true }
     let q := putDom ready { Dom.root with ceil := 1, cmode := false }
     s.Calm ∧ ceilScope (domAt s s.ctx.dom).ceil < 3 ∧ (domAt s s.ctx.dom).cmode = true ∧ q.Calm ∧ ceilScope (domAt q q.ctx.dom).ceil < 3 ∧ (domAt q q.ctx.dom).cmode = false) ∧
    (launched.Calm ∧ launched.ctx.occ = .strand ∧ (groupAt launched launched.ctx.grp).isSome = true) ∧
    (flagVal ready ⟨⟨0, 0⟩, 0⟩).toNat < (64 : BitVec 32).toNat ∧ (0 : BitVec 32).toNat ≤ (flagVal ready ⟨⟨0, 0⟩, 0⟩).toNat ∧ (coreAt ready ⟨0, 0⟩).watches.length < 64 ∧
    (ready.ctx.s 1).toNat ≤ (dieAt ready 0).tb.toNat ∧ (dieAt ready 0).tb.toNat < (ready.ctx.s 1 + BitVec.ofNat 64 (1000 * 5)).toNat := by
  unfold State.Calm; decide +kernel
theorem witness_SystemPrivilege : ready.Calm ∧ ready.ctx.priv = false := by unfold State.Calm; decide +kernel

/-- A child of the root, one that dies, and a grandchild. -/
def family : State :=
  let s := putDom supervisor { Dom.root with id := 0, cores := [⟨⟨0, 0⟩, 0, 0⟩], comp := [⟨0, 0, 64, true, true, true⟩] }
  putDom (putDom (putDom s { Dom.root with id := 1, depth := 1, eshare := 1 }) { Dom.root with id := 2, depth := 1, eshare := 1, dying := true }) { Dom.root with id := 3, depth := 2, eshare := 1, parent := 1 }
def familyAt (w : Word) : State := withS 5 w family
/-- With a descriptor's words at 64 in page 0. -/
def worded (l : List Word) (s : State) : State := { s with mem := l.zipIdx.foldl (fun m p => memWrite m (64 + 8 * p.2) 8 p.1.toNat) s.mem }
theorem family_describes {n : Nat} (h : n ≤ 64) : Describes family 64 n (spots n) (List.replicate n 0) :=
  describes_of (by decide +kernel) (by omega) fun k hk => (by decide +kernel : ∀ j : Fin 64, spot family j.val = true) ⟨k, by omega⟩
theorem family_targets : family.Supervisor ∧ accessesOut family [1, 3] family.nextTag = false ∧ (domAt? family 9).isNone = true ∧ isDescendant family 0 1 = true ∧ isDescendant family 0 9 = false ∧
    (domAt? family 2).any (fun x => x.id != 0 && x.parent == family.ctx.dom && x.dying) = true ∧ (domAt? family 3).any (fun x => x.id == 3 && x.parent != family.ctx.dom) = true ∧
    (family.ctx.s 1 = 64) := by
  unfold State.Supervisor State.Calm; decide +kernel
theorem family_child (w : Word) (h : w = 1) : ∃ x, OwnChild family w x ∧ x.id = w.setWidth 12 := by
  subst h
  exact ⟨{ Dom.root with id := 1, depth := 1, eshare := 1 }, ⟨by decide +kernel, by decide, by decide +kernel, by decide⟩, by decide⟩
theorem witness_DomainCreation : family.Supervisor ∧ Describes family 64 8 (spots 8) (List.replicate 8 0) ∧ Describes family 64 4 (spots 4) (List.replicate 4 0) ∧
    freeDomain family = some 4 ∧ (∃ x, OwnChild family 1 x) ∧ (domAt family 0).depth ≠ 8 ∧ ¬ 32 ≤ (children family 0).length :=
  ⟨family_targets.1, family_describes (by decide), family_describes (by decide), by decide +kernel, (family_child 1 rfl).imp fun _ h => h.1, by decide +kernel, by decide +kernel⟩
theorem witness_DomainRevocation : family.Supervisor ∧ accessesOut family ((1 : BitVec 12) :: descendants family 1) family.nextTag = false ∧ Describes family 64 4 (spots 4) (List.replicate 4 0) ∧
    (∃ x, OwnChild family 1 x ∧ x.id = (1 : Word).setWidth 12) ∧ isDescendant family 0 3 = true ∧ descendants family 1 = [3] :=
  ⟨family_targets.1, by decide +kernel, family_describes (by decide), family_child 1 rfl, by decide +kernel, by decide +kernel⟩
theorem witness_DomainRevocation_acts : Untouched (sysOpen (.dkill ⟨3, 5, 1, 0, 0⟩) (familyAt 1)) (killDomain (sysOpen (.dkill ⟨3, 5, 1, 0, 0⟩) (familyAt 1)) 0 1) ∧
    Untouched (sysOpen (.drevokeCore ⟨3, 5, 1, 0, 1⟩) (familyAt 1)) (invalidateAll (sysOpen (.drevokeCore ⟨3, 5, 1, 0, 1⟩) (familyAt 1)) [1, 3]) := by
  unfold Untouched; decide +kernel
theorem witness_DomainPolicy : family.Supervisor ∧ (∃ x, OwnChild family 1 x) ∧ (domAt? family 9).isNone = true :=
  ⟨family_targets.1, (family_child 1 rfl).imp fun _ h => h.1, family_targets.2.2.1⟩
theorem witness_TlbAndEvents : family.Supervisor ∧ Describes family 64 6 (spots 6) (List.replicate 6 0) ∧ accessesOut family [0] family.nextTag = false ∧ isDescendant family 0 1 = true ∧
    isDescendant family 0 9 = false ∧ family.ctx.dom = 0 :=
  ⟨family_targets.1, family_describes (by decide), by decide +kernel, family_targets.2.2.2.1, family_targets.2.2.2.2.1, by decide +kernel⟩
/-- The image of a header of zeros; a supervisor in domain 1 of the placed program: the leaf of its page, valid and (made so) migrating. -/
theorem witness_RulesAndPages :
    let s := running.onCtx fun c => { c with priv := true }
    let q := { s with mem := memWrite s.mem 0x104000 8 0x14002F }
    ready.Calm ∧ (supervisor.ctx.s 1).toNat % 64 = 0 ∧ Describes supervisor 64 1 (spots 1) [0] ∧ Describes supervisor 64 (imageWords 0) (spots (imageWords 0)) (List.replicate (imageWords 0) 0) ∧ imageCount 0 = 0 ∧ (withS 1 65 supervisor).ctx.s 1 = 65 ∧
      s.Supervisor ∧ accessesOut s [] s.nextTag = false ∧ (leafOf s 0).any (fun r => r.2.1.extractLsb' 4 2 == 0) = true ∧ (leafOf s 0x80000).isNone = true ∧
      (leafOf q 0).any (fun r => r.2.1.extractLsb' 4 2 == 2) = true ∧ newLeafBad 3 0x14000F = false ∧
      compCovers q 1 5 (pageGranules 3) false true false = true := by
  refine ⟨ready_calm, by decide +kernel, supervisor_describes (by decide), supervisor_describes (by decide), by decide, by decide +kernel, ?_⟩
  unfold State.Supervisor State.Calm; decide +kernel
/-! ### Events -/

def here : CtxId := ⟨⟨0, 0⟩, 0⟩
/-- The root domain holds core 0 of die 0; a group of one strand waits there; slot 1 is free. -/
def offered : State :=
  let s := putDom ready { Dom.root with cores := [⟨⟨0, 0⟩, 0, 0⟩] }
  (submit s 0 ((Vector.replicate 16 0).set 2 0x100000101) 64 none none).1

theorem witness_SchedulerEvents :
    (ready.frame = none ∧ ready.turn = false ∧ ready.second = none ∧ serves ready 0 = true ∧ ((residents ready ⟨0, 0⟩).any fun y => (ctxAt ready y).ready) = true) ∧
    (let s := putDom (on fun c => { c with wdc := 65536 }) { Dom.root with lim := { Dom.root.lim with wdlim := 1 } }
     (ctxAt s here).Stands ∧ (ctxAt s here).due = none ∧ (limitsOf s 0).wdlim.toNat * 65536 ≠ 0 ∧ (limitsOf s 0).wdlim.toNat * 65536 ≤ (ctxAt s here).wdc.toNat) ∧
    (let s := on fun c => { c with due := some ⟨cWatchdog, .x, 0, 0, []⟩ }
     s.Between here ∧ (ctxAt s here).saving = none ∧ (ctxAt s here).wait = .none ∧ (ctxAt s here).reply = [] ∧ (ctxAt s here).due.isSome = true) ∧
    (let s := on fun c => { c with wait := .suspend }
     let c := ctxAt s here
     c.wait = .suspend ∧ c.saving = none ∧ c.win = [] ∧ c.posts = [] ∧ storesOut s here = false) ∧
    (let s := on fun c => { c with wait := .halt }
     let c := ctxAt (duePosts s here) here
     (ctxAt s here).wait = .halt ∧ c.saving = none ∧ c.win = [] ∧ c.posts = [] ∧ storesOut (duePosts s here) here = false ∧ c.occ = .strand) ∧
    ((admission offered 0).isSome = true ∧ takeUpAt offered 0 0 = false ∧ restoreAt offered 0 0 = false) ∧
    (admission ready 0).isNone = true ∧ ready.energyAt < (tbOf ready (keyDie ready)).toNat / 1024 ∧ (dieAt ready 0).refillAt < (tbOf ready 0).toNat / 1024 := by
  unfold Ctx.Stands State.Between; decide +kernel

/-- A strand suspended by its record, and one saved, on a die whose slot 1 of core 0 is free. -/
theorem witness_SchedulerEvents_resume :
    let s := modDie (putDom ready { Dom.root with cores := [⟨⟨0, 0⟩, 0, 0⟩] }) 0 fun y => { y with contq := [⟨contRecord ready.ctx, 0, 0, false⟩] }
    (takeUpChoice s ⟨⟨0, 0⟩, 1⟩).isSome = true ∧ noAdmissionAbove s 0 (recLevel (contRecord ready.ctx)) = true ∧ restoreAt s 0 (recLevel (contRecord ready.ctx)) = false ∧ contReserved (contRecord ready.ctx) = false := by
  decide +kernel
theorem witness_SchedulerEvents_restore :
    let s := modDie (putDom ready { Dom.root with cores := [⟨⟨0, 0⟩, 0, 0⟩] }) 0 fun y => { y with saved := [⟨[], ready.ctx, ⟨0, 0⟩, 0, false⟩] }
    (restoreChoice s ⟨⟨0, 0⟩, 1⟩).any (fun v => noAdmissionAbove s 0 v.base.pri) = true := by
  decide +kernel

/-- An entry of opcode `op` on tile 3 (destination) and 6 (source), at state `st`. -/
def entry (op : Nat) (st : EntrySt) : Entry :=
  { n := 0, pc := 0, fpc := 0, rwp := false, slot := BitVec.ofNat 40 (op * 2 ^ 32), sval := 5, lay := Lay.zero, st := st, owed := none, inh := false, rule := none, orig := []
    phia := 0, phib := 0, folda := false, foldb := false, marka := none, markb := none, spread := false, dl := some 0, late := false, prog := 0, at_ := 0, shut := false, queued := false, bparked := false, paid := 0, charged := false
    td := some (.own 3), ta := some (.own 6), tb := some (.own 2), frees := [], drawn := [], fl := 0, gid := 0, pieces := [], xpois := 0 }
def tentry : Entry := entry 8 .pending
/-- An owed fault at a fence; a drain that is over; an aligned load from host memory; the answer to its request; a page's move. -/
theorem witness_WaitAndSaveEvents_outside :
    (let s := tiled.onCtx fun c => { c with te := true, wait := .fence, win := [{ tentry with st := .parked, owed := some ⟨cPermission, .d, 0, 0, []⟩ }] }
     let k := ctxAt s here
     k.wait = .fence ∧ k.saving = none ∧ k.te = true ∧ owedList k ≠ []) ∧
    (let s := on fun c => { c with wait := .drain [1] 5 true }
     (ctxAt s here).wait = .drain [1] 5 true ∧ accessesOut s [1] 5 = false) ∧
    (let s := modCore ready ⟨0, 0⟩ fun k => { k with tlb := [pageHost] }
     s.Calm ∧ s.ctx.win = [] ∧ Maps s 64 .read pageHost (.host 64) ∧ storeStalls s s.cur (some (placeHome (.host 64))) = false ∧
       ((s.ctx.s 1).toNat : Int) + (0 : BitVec 20).toInt = (64 : BitVec 48).toNat ∧ (64 : BitVec 48).toNat % 8 = 0) ∧
    (let p : Pend := ⟨9, .host 64, 8, .read, .bundle here 0 64⟩
     let s := { ready with pend := [p] }
     pendAt s 9 = some p ∧ p.at_.isHost = true ∧ (ctxAt { s with ctx := { s.ctx with wait := .outside } } here).wait = .outside) ∧
    (({ ready with migrs := [⟨2, 0, 0, 3⟩] } : State).migrs.find? fun m => m.n == 2).isSome = true := by
  refine ⟨by decide +kernel, by decide +kernel, ⟨by unfold State.Calm; decide +kernel, by decide +kernel, ?_, by decide +kernel, by decide +kernel, by decide⟩, by decide +kernel, by decide +kernel⟩
  exact ⟨by decide +kernel, by decide +kernel, by decide +kernel, by decide +kernel, rfl, by decide +kernel⟩
/-- A held entry whose hold is over, with a deadline that has passed and one that has not. -/
theorem witness_WaitAndSaveEvents_entries :
    let s := modCore (tiled.onCtx fun c => { c with win := [{ tentry with st := .held, dl := some 5000 }] }) ⟨0, 0⟩ fun k => { k with cyc := 256 }
    (entryAt (ctxAt s here) 0).any (fun e => e.st == .held && decide (e.at_ + 256 ≤ (coreAt s here.core).cyc) && !e.late && decide (e.dl = some 5000)) = true ∧
      (ctxAt s here).occupied = true ∧ (5000 : BitVec 64).toNat ≤ (tbOf s 0).toNat ∧ ¬ (5001 : BitVec 64).toNat ≤ (tbOf s 0).toNat := by
  decide +kernel
theorem witness_WaitAndSaveEvents :
    (let k := (on fun c => { c with wait := .fwait ⟨⟨0, 0⟩, 0⟩ false 0 false 0 0 true false }).ctx
     k.saving = none ∧ (0 : BitVec 32).toNat ≤ (flagVal ready ⟨⟨0, 0⟩, 0⟩).toNat ∧ serves ready 0 = true) ∧
    ((5000 : BitVec 64).toNat ≤ (tbOf ready 0).toNat ∧ ¬ (5001 : BitVec 64).toNat ≤ (tbOf ready 0).toNat) ∧
    (let s := on fun c => { c with wait := .fence }
     let k := ctxAt s here
     k.wait = .fence ∧ k.saving = none ∧ syncWaits s here k = [] ∧ storesOut s here = false) ∧
    ready.ctx.Stands ∧ ready.ctx.preq = none ∧ ready.Between here = (ready.frame = none ∧ ¬ (ready.turn = true ∧ (here = ready.cur ∨ ready.second = some here))) ∧ ready.turn = false ∧
    ready.ctx.draining = false ∧ ready.second = none ∧ ready.frame = none ∧
    (let s := on fun c => { c with preq := some ⟨0, 0⟩ }
     s.ctx.Stands ∧ 0 + (dieAt s 0).suspLim.toNat ≤ (2 ^ 40)) ∧
    (let s := on fun c => { c with saving := some ⟨2, false, none⟩ }
     saveReady s here = true ∧ s.ctx.occ = .strand ∧ (ctxAt s here).saving = some ⟨2, false, none⟩) ∧
    (domAt? running 1).isSome = true ∧ (virtOf running 1 ⟨0, 0⟩).isSome = true := by
  unfold Ctx.Stands; refine ⟨by decide +kernel, by decide +kernel, by decide +kernel, by decide +kernel, by decide +kernel, rfl, ?_⟩; decide +kernel

def windowed (op : Nat) (st : EntrySt) : State := tiled.onCtx fun c => { c with win := [entry op st] }
/-- TCOPY that may start and one whose bytes are copied; TFILL; MMA that may start; held and pending entries. -/
theorem witness_TileResults :
    (∀ op ∈ [7, 8, 9, 0xA, 0x11], entryAt (ctxAt (windowed op .started) here) 0 = some (entry op .started)) ∧
    (let s := windowed 8 .pending
     canStart s here (entry 8 .pending) = true ∧ carrierOf 8 = .copy ∧ (startBad s here (entry 8 .pending)).isNone = true ∧ (∀ p ∈ entryNeeds s here (entry 8 .pending), p.2 = .ready)) ∧
    (canStart (windowed 8 .started) here (entry 8 .started) = false) ∧
    (let e := { entry 8 .started with prog := 4096 }
     canComplete (tiled.onCtx fun c => { c with win := [e] }) here e = true ∧ e.td = some (.own 3) ∧ (entryTile (tiled.onCtx fun c => { c with win := [e] }) here e.ta).isSome = true) ∧
    canComplete (windowed 0x12 .started) here (entry 0x12 .started) = true ∧ (nextCommand ready ⟨0, 0⟩).isNone = true ∧
    (let s := modCore (windowed 8 .started |>.onCtx fun c => { c with win := [{ entry 8 .started with queued := true }] }) ⟨0, 0⟩ fun k => { k with copyq := [(0, 0)] }
     (nextCommand s ⟨0, 0⟩).isSome = true ∧ (limitsOf s 0).bcap = 0) ∧
    mmaDone (tiled.onCtx fun c => { c with win := [{ entry 0x10 .started with prog := 1 }] }) here { entry 0x10 .started with prog := 1 } = true := by
  decide +kernel

theorem witness_BankAndPowerEvents :
    (let v := (modCore (on fun c => { c with livev := 0 }) ⟨0, 0⟩ fun k => { k with cyc := 16 })
     (ctxAt v here).vbank[(0 : Fin 8).val].st = .full ∧ (ctxAt v here).livev = 0 ∧ (ctxAt v here).keptBank 0 = false ∧
       (ctxAt v here).vbank[(0 : Fin 8).val].last + 16 ≤ (coreAt v ⟨0, 0⟩).cyc) ∧
    (ctxAt ready here).vbank[(0 : Fin 8).val].last + 512 > (coreAt ready ⟨0, 0⟩).cyc ∧ ready.ctx.livev.getLsbD 0 = true ∧
    isLive ready 0 = true ∧ (coreAt ready ⟨0, 0⟩).settle = none ∧
    (let s := modDie ready 0 fun y => { y with ceil := 7 }
     (dieAt s 0).ceil ≠ 0 ∧ (dieAt s 0).ceil = 7) ∧
    (let s := modDie ready 0 fun y => { y with tb := 1000000, ceil := 6 }
     (dieAt s 0).ceil ≠ 7 ∧ (dieAt s 0).thermAt.toNat + 1000000 ≤ (dieAt s 0).tb.toNat) ∧
    (tabGet? ({ ready with latent := [(5, 1)] } : State).latent 5 = some 1 ∧ serves ready 0 = true) := by
  decide +kernel

def flow0 : FlowId := ⟨0, 1, 0, 0, 0⟩
/-- A heartbeat that arrives with the next SEQ and its CRC. -/
def heard : State := modFlow ready flow0 fun x =>
  let h : BitVec 128 := 0xC1
  { x with transit := [⟨h, 0, wireCrc h 0⟩] }
theorem witness_MessageEvents : (flowAt ready flow0).transit = [] ∧ (flowAt heard flow0).transit ≠ [] ∧ flow0.dpkg = heard.pkg ∧ hears heard 1 = true ∧
    (∀ w ∈ (flowAt heard flow0).transit, w.crc = wireCrc w.hdr w.pay) ∧ serves ready 0 = true ∧
    (let s := modDie ready 0 fun y => { y with tb := 100000 }
     (dieAt s 0).exchAt.toNat + 100000 ≤ (tbOf s 0).toNat) := by
  decide +kernel

/-- Heartbeats due; a die to be declared; a held and a lost die; a running self-test. -/
theorem witness_ContainmentEvents :
    (let s := modDie ready 0 fun y => { y with tb := 300000 }
     hears s 0 = true ∧ (dieAt s 0).hbSent.toNat + 100000 ≤ (tbOf s 0).toNat ∧ serves s 0 = true ∧ regSt s 1 = .live ∧ ((dieAt s 0).hb[(1 : Fin 4).val]).toNat + 300000 ≤ (tbOf s 0).toNat) ∧
    (let as_ (st : RegSt) := modDie ready 0 fun y => { y with regions := y.regions.set 1 { y.regions[1] with st := st } }
     regSt (as_ .held) 1 = .held ∧ (dieAt (as_ .held) 1).fenced = false ∧ regSt (as_ .lost) 1 = .lost ∧ isLive (as_ .lost) 0 = true ∧ regSt (as_ .testing) 1 = .testing) ∧
    (dieAt ready 0).test = none ∧ (setAt ready 0).isNone = true ∧ (hingePartner ready 0).isSome = true := by
  decide +kernel

theorem witness_StartAndHostEvents :
    (let s := { ready with boot := { ready.boot with phase := .running } }
     s.boot.phase = .running ∧ (hostPort s).isSome = true ∧ (vfRegs s 0).en = false) ∧
    (let s := { modDie ready 0 fun y => { y with tb := 2000000000 } with boot := { ready.boot with phase := .starting } }
     s.boot.phase = .starting ∧ s.boot.since.toNat + 2000000000 ≤ (tbOf s (keyDie s)).toNat) := by
  decide +kernel

/-- A well-formed slot instruction; a placed program that its first step fetches; a canonical memory with cells. -/
theorem witness_BundleRoundTrip : (Instr.add .c ⟨3, 1, 2, 0, 0, 0⟩).slot.isSome = true ∧ (Instr.add .c ⟨3, 1, 2, 0, 0, 0⟩).wf = true := by decide
theorem witness_StepRunsInstruction : running.agenda = [] ∧ running.turn = true ∧ running.ctx.ready = true ∧ running.ctx.bundleVa = some 0 ∧ running.frame = none ∧
    (match fetchBundle running [] running.cur.core running.ctx.dom (groupWord running.ctx.grp) 0 with
      | .ok w u => decide (w = encodeBundle (.add .c ⟨3, 1, 2, 0, 0, 0⟩)) && decide (u.frame = none)
      | _ => false) = true ∧
    State.reset.turn = false ∧ ({ running with ctx := { running.ctx with pc := 0xFFFFFFFFFF, cbase := 0xFFFFFFFFFFC0 } } : State).ctx.bundleVa = none := by
  decide +kernel
theorem witness_StepKeepsMemory : running.memGood ∧ (match step running with
    | .next t => t.memGood
    | _ => False) := by
  refine ⟨by unfold State.memGood; decide +kernel, ?_⟩
  exact (by decide +kernel : (match step running with
    | .next t => memWf t.mem
    | _ => false) = true) |> fun h => by revert h; cases step running <;> simp [State.memGood]

/-! ### More clauses of the statements about events -/

/-- A started MMA that takes the array again; one that is done holds it; a spill command; a TFREE on a window; a TALLOC-free start. -/
theorem witness_TileResults_units :
    (let e := entry 0x10 .started
     let f : Entry := { e with td := some (.own 1), ta := some (.own 2), tb := some (.own 3) }
     let s := tiled.onCtx fun c => { c with win := [f] }
     canStart s here f = false ∧ canResume s here f = true) ∧
    (canStart (windowed 8 .started) here (entry 8 .started) = false ∧ canResume (windowed 8 .started) here (entry 8 .started) = false) ∧
    ((coreAt (modCore ready ⟨0, 0⟩ fun k => { k with spillq := [⟨0, 0, 0, 32, 0⟩] }) ⟨0, 0⟩).spillq ≠ [] ∧ (coreAt ready ⟨0, 0⟩).spillq = []) ∧
    (let s := windowed 4 .pending
     canStart s here (entry 4 .pending) = true ∧ carrierOf 4 = .window) ∧
    (let s := windowed 0x14 .pending
     carrierOf 0x14 = .accu ∧ canStart s here (entry 0x14 .pending) = true ∧ (startBad s here (entry 0x14 .pending)).isSome = true) := by
  decide +kernel
/-- A TLOAD in the copy engine, of a tile at 64. -/
def moved (t : Tlb) (lay : Vector Word 12) (q : Tile) : State × Entry :=
  let e : Entry := { entry 5 .started with lay := lay, sval := 64, queued := true, td := some (.own q.tid) }
  (modCore ((holding [q] ready).onCtx fun c => { c with win := [e] }) ⟨0, 0⟩ fun k => { k with tlb := [t], copyq := [(0, 0)] }, e)
/-- The first step of that entry, where it is the engine's next command. -/
def movedStep (t : Tlb) (lay : Vector Word 12) (q : Tile) : Option Xfer :=
  let m := moved t lay q
  if nextCommand m.1 ⟨0, 0⟩ = some (here, m.2) && isTransfer m.2.op && (limitsOf m.1 0).bcap == 0 then
    (entryTile m.1 here m.2.td).map fun u => xferStep (xferCtxOf m.1 here m.2) m.1 (placeTile lay u) 0 0
  else none
def tile9 : Tile := tileOf_ 9 9 .s 1 2 32 false
def record2 : VReg := 0x11 + (32 + 32 * 2 ^ 32) * 2 ^ 128 + 32 * 2 ^ 256 + (2 + 32 * 2 ^ 16) * 2 ^ 576
/-- A step of a TLOAD of 2 rows of 32 bytes from page 0: done; from host memory: its reads are asked for; on a migrating page: it waits. -/
theorem witness_TileResults_transfers :
    (match movedStep page0 (recordOf record2) tile9, movedStep pageHost (recordOf record2) tile9, movedStep { page0 with st := 2 } (recordOf record2) tile9 with
      | some a, some b, some c => !a.wait && a.need.isEmpty && a.bad.isNone && !b.wait && !b.need.isEmpty && c.wait
      | _, _, _ => false) = true := by
  decide +kernel
/-- Without the permission: it faults. -/
theorem witness_TileResults_transferFault : (movedStep { page0 with r := false, w := false } (recordOf record2) tile9).any
      (fun q => !q.wait && q.need.isEmpty && q.bad.isSome) = true := by
  decide +kernel

/-- A message on a flow: its TYPE, its SEQ, its payload. -/
def wired (ty : BitVec 8) (seq : BitVec 16) (arg : Word) (pay : BitVec 640) : Wire :=
  let h := mkHdr seq 0 false false flow0 ty 0 arg
  ⟨h, pay, wireCrc h pay⟩
/-- Each TYPE with the next SEQ; another SEQ; a wrong CRC; TYPE 0; an unknown TYPE; a receiver that hears nothing; a flow to another package. -/
theorem witness_MessageEvents_clauses :
    (∀ ty ∈ [0x01, 0x02, 0x03, 0x04, 0x05, 0x06, 0x07, 0x41, 0x42, 0x43, 0x44, 0x81, 0x82, 0xC1, 0xC2, 0xC3, (0xC4 : BitVec 8)],
      let w := wired ty 0 0 0
      hdrType w.hdr = ty ∧ hdrSeq w.hdr = (flowAt ready flow0).expect ∧ w.crc = wireCrc w.hdr w.pay ∧ knownType ty = true) ∧
    (flow0.dpkg = ready.pkg ∧ hears ready flow0.ddie = true ∧ (dieAt ready flow0.ddie).regions[flow0.sdie.val].st = .live ∧ pathUp ready flow0.sdie flow0.ddie = true) ∧
    hdrSeq (wired 1 7 0 0).hdr ≠ (flowAt ready flow0).expect ∧ (({ wired 1 0 0 0 with crc := 0 } : Wire).crc ≠ wireCrc (wired 1 0 0 0).hdr 0) ∧
    hdrType (wired 0 0 0 0).hdr = 0 ∧ knownType 0x3F = false ∧ hears (modDie ready 0 fun y => { y with fenced := true }) 0 = false ∧
    pathUp { ready with links := Vector.replicate 4 false } 1 0 = false ∧ (⟨0, 1, 2, 1, 0⟩ : FlowId).dpkg ≠ ready.pkg ∧
    (let w := wired 1 0 64 0
     requestPlace ready w = .mem 0 64 ∧ Clean ready 0 64 ∧ (payPar w.pay).extractLsb' 12 2 ≠ 3 ∧ homeNow ready 0 false = some 0) ∧
    ((hdrArg (wired 0xC2 0 0 0).hdr).getLsbD 8 = false ∧ (hdrArg (wired 0xC2 0 256 0).hdr).getLsbD 8 = true ∧ flow0.ddie = keyDie ready ∧ heirOf ready 0 = some 1) := by
  unfold Clean; decide +kernel
/-- An acknowledgement that is due; a message that waits for one since 20 µs; a link that failed. -/
theorem witness_MessageEvents_timers :
    (flowAt (modFlow ready flow0 fun x => { x with ackDue := true }) flow0).ackDue = true ∧
    (let s := modDie (modFlow ready flow0 fun x => { x with log := [⟨wired 1 0 0 0, false, 0⟩] }) 1 fun y => { y with tb := 20000 }
     ((flowAt s flow0).log.find? fun m => !m.acked).any (fun m => decide (m.at_.toNat + 20000 ≤ (tbOf s flow0.sdie).toNat)) = true ∧ flow0.spkg = s.pkg ∧ hears s flow0.sdie = true) ∧
    (dieAt (modDie ready 1 fun y => { y with rillen := true }) 1).rillen = true := by
  decide +kernel

/-- A task set of one level with no role: registered; its frame complete; a restore, a refused role, an early checkpoint due. -/
def taskSet : TaskSetReg := ⟨7, 0, [⟨0, [], [], 0, 0, 0⟩]⟩
def setWith (t : TaskSet) : State := { putDom ready { Dom.root with cores := [⟨⟨0, 0⟩, 0, 0⟩] } with tasksets := [t] }
theorem witness_ContainmentEvents_sets :
    let t : TaskSet := ⟨taskSet, some 0, [0], 0, [], 0, [], Vector.replicate 4 0, false, [], false, true, false, none⟩
    setGood (putDom ready { Dom.root with cores := [⟨⟨0, 0⟩, 0, 0⟩] }) taskSet = true ∧ setAt (setWith t) 7 = some t ∧
      (t.ckptDue = true ∧ t.running = [] ∧ t.refused = [] ∧ t.restore = false ∧ t.active ≠ none) ∧
      earlyDue (setWith { t with early := true }) { t with early := true } = true ∧ noGroups (setWith t) 7 = true ∧
      (∃ q ∈ (setWith { t with restore := true }).tasksets, q.restore = true) ∧ (∀ j, (dieAt (setWith t) j).reinit = false) ∧
      (∃ q ∈ (setWith { t with refused := [⟨64, 0, 0⟩] }).tasksets, q.refused ≠ []) := by
  refine ⟨by decide +kernel, by decide +kernel, by decide +kernel, by decide +kernel, by decide +kernel, ⟨_, List.mem_singleton.2 rfl, rfl⟩, by decide +kernel,
    ⟨_, List.mem_singleton.2 rfl, by decide⟩⟩
/-- A fault with and without a die to report to; a test that can begin, that runs, that is abandoned; a copy of mirrored pages under way. -/
theorem witness_ContainmentEvents_dies :
    (hears ready 0 = true ∧ keyDie ready = 0 ∧ heirOf ready (keyDie ready) = some 1) ∧
    (let lost (y : Die) : Die := { y with regions := y.regions.map fun e => { e with st := .lost } }
     heirOf (modDie ready 0 lost) 0 = none) ∧
    lossReason ready 0 1 = 1 ∧ declares ready 0 1 = true ∧ nextTested ready = some 0 ∧ testable ready 0 = true ∧
    (let s := modDie ready 0 fun y => { y with regions := y.regions.set 0 { y.regions[0] with st := .testing }, test := some ⟨0⟩, tb := 40000000 }
     regSt s 0 = .testing ∧ (dieAt s 0).reinit = false ∧ (dieAt s 0).test = some ⟨0⟩ ∧ 24000000 ≤ (tbOf s 0).toNat ∧ (tbOf s 0).toNat ≤ 40000000) ∧
    (let s := modDie ready 0 fun y => { y with regions := y.regions.set 0 { y.regions[0] with st := .testing }, reinit := true }
     regSt s 0 = .testing ∧ (dieAt s 0).reinit = true) ∧
    (let s := modDie ready 1 fun y => { y with recopy := some 2 }
     (dieAt s 1).recopy ≠ none ∧ serves s 1 = true ∧ (hingePartner s 1).isSome = true) := by
  decide +kernel

/-- A start that is complete; a lost die of a running package; queue entries of each kind; a release and a counter to clear. -/
theorem witness_StartAndHostEvents_clauses :
    (({ ready with boot := { ready.boot with phase := .starting } } : State).boot.phase = .starting ∧ partsGood [] = true) ∧
    (let s := { modDie ready 0 fun y => { y with regions := y.regions.set 1 { y.regions[1] with st := .lost } } with boot := { ready.boot with phase := .running } }
     regSt s 1 = .lost ∧ s.boot.phase = .running ∧ (∀ p : Fin 4, routeTo s p = s.route[p.val]) ∧ s.memGood) ∧
    (let s := { putVf ready 0 { VfRegs.reset with en := true, tail := 1 } with boot := { ready.boot with phase := .running } }
     vfDie s 0 = some 0 ∧ s.boot.phase = .running ∧ (hostPort s).isSome = true ∧ (vfRegs s 0).en = true ∧ (vfRegs s 0).head ≠ (vfRegs s 0).tail ∧ (vfBind s 0).dom = 0 ∧
       (vfBind { s with vfb := tabPut s.vfb 0 { VfBind.reset with dom := 1 } } 0).dom ≠ 0 ∧ (vfRegs s 1).en = false) ∧
    (qReserved 0 = false ∧ qOpc 0 = 0 ∧ qOpc 1 = 1 ∧ qReserved 1 = false ∧ (qWord (1 + 2 ^ 64) 1).extractLsb' 0 6 ≠ 0 ∧ qOpc (1 + 2 ^ 64) = 1 ∧ qReserved (1 + 2 ^ 64) = false ∧ qReserved 0xFF = true ∧
      (carryOut ready 1 0).any (fun r => r.2 == 0) = true) ∧
    (let w : BitVec 64 := 0xD1E50C1A55ED0001
     let s := { modDie ready 0 fun y => { y with regions := y.regions.set 1 { y.regions[1] with st := .held } } with boot := { ready.boot with phase := .running } }
     w.extractLsb' 16 48 = 0xD1E50C1A55ED ∧ w.extractLsb' 2 14 = 0 ∧ regSt s 1 = .held ∧ (hostPort s).isSome = true ∧ regSt s 0 ≠ .lost) := by
  unfold State.memGood; decide +kernel

/-- A page whose first fetch asks for its bytes outside, one whose fetch faults, one that migrates, and an illegal bundle. -/
theorem witness_StepRunsInstruction_fetches :
    let s (t : Tlb) := modCore (running.onCtx fun c => { c with dom := 0 }) running.cur.core fun k => { k with tlb := [t] }
    let f (t : Tlb) := fetchBundle (s t) [] (s t).cur.core 0 0 64
    noteMisses running running.cur = running ∧
    (match f pageHost with
      | .ask p a n _ => decide (p = .host 64) && a == 64 && n == 40
      | _ => false) = true ∧
    (match f { page0 with x := false } with
      | .bad a g _ => a == 64 && g.code == cPermission
      | _ => false) = true ∧
    (match f { page0 with st := 2 } with
      | .wait _ => true
      | _ => false) = true ∧
    decodeBundleIn true (encodeBundle .tret) = .illegal .illegalOpcode 1 ∧ decodeBundleIn false (encodeBundle .tret) = .legal ⟨Header.plain, [.tret]⟩ := by
  decide +kernel

/-- R359's example: domain A (IW 3, slot 0) and domain B (IW 1, slot 1), deficits of 0; cycle 1 issues A, and A becomes -1. -/
def twoDomains : State :=
  let y : CtxId := ⟨⟨0, 0⟩, 1⟩
  let s := modDom (putDom running { domAt running 1 with id := 2, iw := 1 }) 1 fun d => { d with iw := 3 }
  { putCtx { s with turn := false } y { running.ctx with dom := 2 } with second := none }

theorem test_issue_choice_cycle1 :
    let t := chooseIssue twoDomains ⟨0, 0⟩
    t.turn = true ∧ t.cur = here ∧ t.acct = some ⟨false, [here, ⟨⟨0, 0⟩, 1⟩]⟩ ∧ deficit (coreAt t ⟨0, 0⟩) 1 = 0 ∧
    deficit (coreAt (enterCycle 0 t) ⟨0, 0⟩) 1 = -1 ∧ (ctxAt (enterCycle 0 t) ⟨⟨0, 0⟩, 1⟩).wdc = 1 := by
  decide +kernel

/-- A bundle that does not issue leaves the counters as they were before its cycle, and its context is not ready while another one is. -/
theorem test_held_cycle :
    let u := chooseIssue twoDomains ⟨0, 0⟩
    let t := leaveCycle u ((enterCycle 0 u).onCtx fun c => { c with blocked := true })
    deficit (coreAt t ⟨0, 0⟩) 1 = 0 ∧ t.ctx.wdc = 0 ∧ (coreAt t ⟨0, 0⟩).ews = [] ∧ readyNow t ⟨0, 0⟩ = [⟨⟨0, 0⟩, 1⟩] := by
  decide +kernel
/-! ### Witnesses for further clauses -/

/-- A rollback delivery inside an open region; an ancestor that handles the trap, with a free spill slot and with none; the kill action. -/
theorem witness_TrapEntry_away :
    (let s := on fun c => { c with region := { c.region with shadow := some c.shadowOf, start := 12 } }
     s.ctx.region.shadow ≠ none ∧ s.ctx.region.stores = []) ∧
    (let s (act : BitVec 2) (slots : BitVec 12) := putDom (putDom (on fun c => { c with dom := 1 }) { Dom.root with id := 1, parent := 0, depth := 1, acts := [(0x20, act)] })
       { Dom.root with id := 0, slots := slots }
     let u (act : BitVec 2) := s act 4
     (u 1).ctx.region = Region.none ∧ (u 1).ctx.occ = .strand ∧ (TrapAt.plain 0 0 0).num = none ∧ handler (u 1) (u 1).ctx 0x20 = 0 ∧ (u 1).ctx.dom ≠ 0 ∧ actionOf (u 1) 0 0x20 ≠ 2 ∧
       (freeSlotOf (u 1) 0).isSome = true ∧ freeSlotOf (s 1 0) 0 = none ∧ handler (u 2) (u 2).ctx 0x20 = 1 ∧ actionOf (u 2) 1 0x20 = 2) ∧
    (let s := modCore (on fun c => { c with trp := 128 }) ⟨0, 0⟩ fun k => { k with tlb := [{ page0 with w := false }] }
     (match translate s s.cur.core s.ctx.dom (groupWord s.ctx.grp) s.ctx.trp .write with
     | .bad _ u => climb u 0x20 9 (domAt u s.ctx.dom).parent == 0
     | _ => false) = true) ∧
    (∀ e ∈ (takeTrap ready here ⟨0x20, .p, 0, 0, []⟩ (TrapAt.plain 0 0 0)).ctx.win, mmaWaits ready here e = false) := by
  decide +kernel
/-- Register 4 dead and 5 live; 4 in retention, for an instruction of each slot. -/
theorem witness_DeadVectorSource_forms :
    let s := on fun c => { c with livev := BitVec.allOnes 32 - 16 }
    let q := on fun c => { c with vbank := Vector.replicate 8 ⟨.retention, 0, 0, 0⟩ }
    s.Calm ∧ s.ctx.vLive 4 = false ∧ s.ctx.Readable 5 ∧ s.ctx.win.length < 16 ∧ (∀ n ∈ [(4 : BitVec 5), 5], q.ctx.vLive n = true) ∧ q.ctx.vpar = [] ∧
      (q.ctx.bank (physV q.ctx.vrb 5)).st ≠ .full ∧ q.ctx.win = [] := by
  unfold State.Calm Ctx.Readable; decide +kernel
/-- A child with no task set, and a revocation of a core that a child holds. -/
theorem witness_DomainCreation_core : (∀ t ∈ family.tasksets, t.reg.dom ≠ 1) ∧
    (let l := ((List.range 48).filter fun k => (1 : Word).getLsbD k).map fun k => (domAt family 0).cores.find? fun m => m.vdie == 0 && m.vcore.toNat == k
     none ∉ l) ∧
    Untouched (sysOpen (.dgrantCore ⟨3, 5, 1, 0, 0⟩) family) (levelsAfter (addCores (sysOpen (.dgrantCore ⟨3, 5, 1, 0, 0⟩) family) 1 [⟨⟨0, 0⟩, 0, 0⟩]) [1]) := by
  unfold Untouched; decide +kernel
theorem witness_DomainRevocation_core :
    let f := putDom family { domAt family 1 with cores := [⟨⟨0, 0⟩, 0, 0⟩] }
    OwnChild f 1 { domAt family 1 with cores := [⟨⟨0, 0⟩, 0, 0⟩] } ∧ (virtOf f 1 ⟨0, 0⟩).isSome = true ∧
    Untouched (sysOpen (.drevokeCore ⟨3, 5, 1, 0, 1⟩) f) (levelsAfter (removeCore (invalidateAll (sysOpen (.drevokeCore ⟨3, 5, 1, 0, 1⟩) f) [1, 3]) ⟨0, 1⟩ [1, 3]) [1, 3]) := by
  refine ⟨⟨by decide +kernel, by decide +kernel, by decide +kernel, by decide +kernel⟩, by decide +kernel, ?_⟩
  unfold Untouched; decide +kernel
/-- A post that waits at the own core; none at another. -/
theorem witness_FlagOperations_waiting :
    let s := on fun c => { c with posts := [⟨⟨⟨0, 0⟩, 0⟩, 1, [], 0⟩] }
    s.Calm ∧ (∃ p ∈ s.ctx.posts, p.fl.core = ⟨0, 0⟩) ∧ (∀ p ∈ s.ctx.posts, p.fl.core ≠ ⟨0, 1⟩) ∧ serves s 0 = true := by
  unfold State.Calm; decide +kernel
/-- A code copy of page 0 of domain 0 and one of page 2. -/
theorem witness_TlbAndEvents_copies :
    let s := modCore family ⟨0, 0⟩ fun k => { k with istore := [((0, 64), 1), ((0, 0x80000), 2)] }
    (((0, 64), 1) : (BitVec 12 × BitVec 48) × BitVec 320) ∈ (coreAt s ⟨0, 0⟩).istore ∧ (64 : BitVec 48).toNat / 2 ^ 18 = 0 ∧ (0x80000 : BitVec 48).toNat / 2 ^ 18 = 2 := by
  decide +kernel
/-- A choice whose energy fits; one whose EW is beyond SLEW, without and with an event strand. -/
theorem witness_SchedulerEvents_choice :
    let b := opUpdate { ready with second := none, acct := none } ⟨0, 0⟩ []
    let s := modCore b ⟨0, 0⟩ fun k => { k with ews := List.replicate 256 100, cyc := 100 }
    let e := putDom s { Dom.root with evt := some ⟨ready.ctx.occ, ready.ctx.grp, ready.ctx.strix⟩ }
    tbReady ready = true ∧ readyNow b ⟨0, 0⟩ = [here] ∧ (coreAt b ⟨0, 0⟩).ews.sum + bundleEw (peekBundle b here) ≤ (limitsOf b 0).slew ∧ eventStrand b ⟨0, 0⟩ [here] = none ∧
      (limitsOf s 0).slew < ((coreAt s ⟨0, 0⟩).ews.take 255).sum ∧ eventStrand s ⟨0, 0⟩ [here] = none ∧ eventStrand e ⟨0, 0⟩ [here] = some here := by
  decide +kernel
/-- The three forms of the record in memory that a take-up reads: as written, with a reserved bit, of an unknown group. -/
theorem witness_SchedulerEvents_record :
    let r := contRecord ready.ctx
    let e : ContEntry := ⟨r, 64, 0, false⟩
    let s := modDie (putDom launched { Dom.root with cores := [⟨⟨0, 0⟩, 0, 0⟩] }) 0 fun y => { y with contq := [e] }
    takeUpChoice s ⟨⟨0, 0⟩, 1⟩ = some e ∧ contReserved r = false ∧ contReserved (r ||| 2 ^ 96) = true ∧ (groupAt s (recGrp r)).isSome = true ∧ (groupAt ready (recGrp r)).isNone = true := by
  decide +kernel
/-- A stuck save: no core of the domain is left at that core. -/
theorem witness_WaitAndSaveEvents_held :
    let s := on fun c => { c with dom := 5, saving := some ⟨2, false, none⟩ }
    saveReady s here = true ∧ virtOf (completeSave s here) 5 ⟨0, 0⟩ = none ∧ (running.cur = here ∧ virtOf running running.ctx.dom ⟨0, 0⟩ ≠ none) := by
  decide +kernel
/-- A member that reports with a peer that leads it; a die that is no member; the thermal step after 100 µs. -/
theorem witness_BankAndPowerEvents_slack :
    let s := modDie (modDie { ready with slackMembers := [0, 1] } 0 fun y => { y with tb := 2000000 }) 1 fun y => { y with slackRep := some (⟨9, 0⟩, 0) }
    isLive s 0 = true ∧ (0 : Fin 4) ∈ s.slackMembers ∧ (dieAt s 0).slackRep = none ∧ (3 : Fin 4) ∉ s.slackMembers ∧ isLive s 1 = true ∧ heldDown s 1 = false ∧
      (dieAt s 0).slackAt.toNat + 2000000 ≤ (dieAt s 0).tb.toNat ∧ heldDown s 0 = false ∧ (slackLeads (slackOf s 0) ⟨9, 0⟩ = true ∨ slackLeads ⟨9, 0⟩ (slackOf s 0) = true) ∧
      (let h := modDie ready 0 fun y => { y with ceil := 6, tb := 100000 }
       (dieAt h 0).ceil ≠ 0 ∧ (dieAt h 0).thermAt.toNat + 100000 ≤ (dieAt h 0).tb.toNat) := by
  decide +kernel
/-- A start of which two dies pass, below and at three tries; the copies read; a warm start that is late. -/
theorem witness_StartAndHostEvents_starts :
    let b : BootInput := { passes := 0b0110, keysOk := true, signaturesOk := true, pufOk := true, versionOk := true, copies := 3, stepping := 0, flash := some (1, 2) }
    (b.passes.getLsbD 0 = false ∧ b.passes.getLsbD 1 = true ∧ b.passes.getLsbD 2 = true ∧ b.copies ≠ 0) ∧
    (let s := { modDie ready 0 fun y => { y with tb := 2000000000 } with boot := { ready.boot with phase := .running, warm := [(1, 0)] } }
     s.boot.phase ≠ .starting ∧ ∃ p ∈ s.boot.warm, p.2.toNat + 2000000000 ≤ (tbOf s (keyDie s)).toNat) := by
  decide +kernel
/-- A faulty core with the key die gone; a bundle that issues again with its answers; a merged cycle. -/
theorem witness_StepRunsInstruction_again :
    let w := encodeBundle (.add .c ⟨3, 1, 2, 0, 0, 0⟩)
    let s := { running with ctx := { running.ctx with again := some w }, acct := none }
    s.agenda = [] ∧ s.turn = true ∧ (noteWatchdog (noteMisses s s.cur) s.cur).ctx.ready = true ∧ s.ctx.again = some w ∧ s.acct = none ∧ s.frame = none ∧
      watchDue s s.cur = false ∧ s.ctx.win = [] := by
  decide +kernel

/-! ### Granules and accumulators -/

/-- A transfer of 2 rows of 32 bytes at 64: all of them in line 1. -/
def granuleCtx (load ckpt : Bool) : XferCtx := ⟨here, 0, 0, 0, recordOf record2, 64, load, ckpt, 1, []⟩
theorem witness_TileGranules :
    let k := granuleCtx true false
    let q := granuleCtx false false
    let e (p : Nat) : ElemAddr := elemAddr k.lay k.base (p / 32) (p % 32)
    k.fmt = k.lay.fmt ∧ tile9.acc.isNone = true ∧ tile9.data.length = tile9.rows ∧ fmtBits tile9.fmt = fmtBits k.fmt ∧ q.load = false ∧
    ((tileOf_ 1 1 .a 9 32 32 false).acc.isSome = true ∧ (tileOf_ 1 1 .a 9 32 32 false).rows = 32) ∧
    (k.touches (e 33) = true ∧ 8 * (e 33).addr + (e 33).bit - 512 * 1 = 260) ∧ (e 0).inside = true ∧ (elemAddr k.lay k.base 2 32).inside = false ∧
    (1 ∈ stepLines k 2 32 0 ∧ stepLines k 2 32 1024 = []) ∧
    ((storeLine q tile9 1).mask = (2 ^ 128 - 1) * (2 ^ 256 + 1) ∧ ready.memGood ∧ serves ready 0 = true ∧ tabGet? ready.latent (lineKey 0 64) = none) ∧
    (let va := lineVa k tile9 1
     0 ≤ va ∧ va < 2 ^ 48) ∧
    (match translate ready ⟨0, 0⟩ 0 (groupWord 0) (BitVec.ofInt 48 64) .read with
     | .ok t p _ => t.st != 1 && !t.hm && p == .mem 0 64
     | _ => false) = true ∧
    (match translate (modCore ready ⟨0, 0⟩ fun k => { k with tlb := [{ page0 with r := false }] }) ⟨0, 0⟩ 0 (groupWord 0) (BitVec.ofInt 48 64) .read with
     | .bad _ _ => true
     | _ => false) = true ∧
    (page0.st ≠ 1 ∧ ({ page0 with st := 1 } : Tlb).st = 1 ∧ ({ page0 with hm := true } : Tlb).hm = true) ∧
    (let x := (stepLines k 2 32 0).foldl (xferLine k fun _ => true) ⟨ready, tile9, none, false, 0, []⟩
     x.bad = none ∧ x.tile.rows = 2 ∧ x.tile.cols = 32) ∧
    (let x := (stepLines k 2 32 0).foldl (xferLine k fun _ => true) ⟨modCore ready ⟨0, 0⟩ fun k => { k with tlb := [{ page0 with r := false }] }, tile9, none, false, 0, []⟩
     x.bad.isSome = true) ∧ 0 ∈ stepElems 4 2 32 0 ∧ tile9.plane = false ∧ tile9.lvl ≠ .a := by
  unfold State.memGood; decide +kernel

/-- The accumulator of the worked check of R256: Q = −8, one cell of 257 whose bit 5 flips, counters of 1. -/
def checked : Acc :=
  { Acc.clear (-8) with
    cells := (Vector.replicate 1024 Cell.zero).set 0 ⟨289, false, false⟩, rowck := (Vector.replicate 32 Cell.zero).set 0 ⟨257, false, false⟩
    colck := (Vector.replicate 32 Cell.zero).set 0 ⟨257, false, false⟩, rcRow := (Vector.replicate 32 0).set 0 1, rcCol := (Vector.replicate 32 0).set 0 1
    ckRow := (Vector.replicate 32 0).set 0 1, ckCol := (Vector.replicate 32 0).set 0 1 }
/-- What its check finds: residues of 32 in row 0 and column 0, which fail. -/
def found (row col : List Nat) : Check :=
  let at_ (l : List Nat) : List Bool := (List.range 32).map l.contains
  ⟨32 :: List.replicate 31 0, 32 :: List.replicate 31 0, at_ row, at_ col, at_ [], at_ [], false, false⟩
/-- That check's report: bit 5 of cell (0, 0) is repaired. -/
theorem test_afix_worked : checked.rowSum 0 - 257 = 32 ∧ checked.colSum 0 - 257 = 32 ∧ passes 32 (checked.tolR 0) = false ∧
    (let f := checked.repair (found [0] [0])
     f.action = 1 ∧ f.place = 0 ∧ f.bit = 5 ∧ (f.acc.cell 0 0).n = 257) ∧
    (let r := reportRows (found [0] [0]) ⟨0, noPlace, noPlace, checked⟩
     r.map (fun q => q % 2 ^ 32) = [32, 32, 0] ∧ elemAt (r.getD 2 0) 32 1 = 1 ∧ elemAt (r.getD 2 0) 32 5 = 0 ∧ elemAt (r.getD 2 0) 32 6 = 0xFFFFFFFF) := by
  decide +kernel
theorem checked_cell {i j : Nat} (hi : i < 32) (hj : j < 32) : checked.cell i j = if i = 0 ∧ j = 0 then ⟨289, false, false⟩ else Cell.zero := by
  have e : checked.cells.toList = (List.replicate 1024 Cell.zero).set 0 ⟨289, false, false⟩ := by
    unfold checked; rw [Vector.toList_set, Vector.toList_replicate]
  unfold Acc.cell
  rw [e, List.getD_eq_getElem?_getD, List.getElem?_set]
  by_cases h : i = 0 ∧ j = 0
  · obtain ⟨rfl, rfl⟩ := h
    rw [if_pos rfl, if_pos (by rw [List.length_replicate]; decide), if_pos ⟨rfl, rfl⟩]; rfl
  · have : 0 ≠ 32 * i + j := by omega
    rw [if_neg this, if_neg h, List.getElem?_replicate, if_pos (by omega)]; rfl
/-- One row and one column fail, with and without a candidate; one row alone, one column alone, two rows; unchecked; CV 0; poison. -/
theorem witness_AccumulatorResults_checks :
    (∀ i j, i < 32 → j < 32 → checked.cell i j = if i = 0 ∧ j = 0 then ⟨289, false, false⟩ else Cell.zero) ∧
    (let act (a : Acc) (row col : List Nat) : Nat := (a.repair (found row col)).action
     act checked [0] [0] = 1 ∧ act { checked with cells := checked.cells.set 0 ⟨342, false, false⟩ } [0] [0] = 2 ∧
     act checked [3] [] = 3 ∧ act checked [] [3] = 4 ∧ act checked [3, 4] [] = 5) ∧
    checked.cv = true ∧ ({ checked with cv := false } : Acc).cv = false ∧ (cellIn ({ checked with rowck := checked.rowck.set 7 ⟨0, true, false⟩ } : Acc).rowck 7).o = true := by
  refine ⟨fun i j hi hj => checked_cell hi hj, ?_⟩
  decide +kernel
/-- A started MMA without scales and one that awaits them; a started check on the accumulator. -/
theorem witness_AccumulatorResults :
    let f : Entry := { entry 0x10 .started with td := some (.own 1), ta := some (.own 2), tb := some (.own 3) }
    let g : Entry := { f with marka := some (.own 2) }
    let s (e : Entry) := tiled.onCtx fun c => { c with win := [e] }
    let h (op : Nat) : Entry := { entry op .started with td := some (.own 5), ta := some (.own 1) }
    entryAt (ctxAt (s f) here) 0 = some f ∧ (entryTile (s f) here f.td).any (fun t => t.acc.isSome) = true ∧ (entryTile (s f) here f.ta).any (fun t => decide (f.prog < t.cols / 32)) = true ∧
      (entryTile (s f) here f.tb).isSome = true ∧ (s f).ctx.scq.length = 0 ∧
      (entryTile (s g) here g.ta).any (fun t => scaledBy (s g) here t g.marka == t.bs) = true ∧
      (∀ op ∈ [0x15, 0x16], canComplete (s (h op)) here (h op) = true ∧ (entryTile (s (h op)) here (h op).ta).any (fun t => t.acc.isSome) = true ∧ (h op).op = op) := by
  decide +kernel
/-! ### Single steps. The expected values are computed by hand from the rules that each comment names. -/

/-- The focused context after an instruction. -/
def after (i : Instr) (s : State) : Ctx := match exec i s with
  | .next t => t.ctx
  | _ => Ctx.reset
/-- S[n] after an instruction on `ready` with S[1] = a and S[2] = b. -/
def rr (i : Instr) (a b : Word) (n : BitVec 5 := 3) : Word := (after i (withS 1 a (withS 2 b ready))).s n
/-- The 128 bytes of V[3] after an instruction on V[1] = a and V[2] = b. -/
def vv (i : Instr) (a b : VReg) : VReg := (after i (on fun c => { c with vreg := Vector.ofFn fun k => if k.val = 1 then a else if k.val = 2 then b else 0 })).v 3
def o3 : RR := ⟨3, 1, 2, 0, 0, 0⟩

/-- R125, R127, R128. -/
theorem test_add_wraps : rr (.add .c o3) 0xFFFFFFFFFFFFFFFF 2 = 1 ∧ rr (.sub .c o3) 0 1 = 0xFFFFFFFFFFFFFFFF := by decide +kernel
theorem test_min_signs : rr (.min .c o3) 0xFFFFFFFFFFFFFFFF 1 = 0xFFFFFFFFFFFFFFFF ∧ rr (.minu .c o3) 0xFFFFFFFFFFFFFFFF 1 = 1 := by decide +kernel
theorem test_mul_halves : rr (.mulh .s o3) 0xFFFFFFFFFFFFFFFF 0xFFFFFFFFFFFFFFFF = 0 ∧ rr (.mulhu .s o3) 0xFFFFFFFFFFFFFFFF 0xFFFFFFFFFFFFFFFF = 0xFFFFFFFFFFFFFFFE := by decide +kernel
theorem test_div_truncates : rr (.div .s o3) 0xFFFFFFFFFFFFFFF9 2 = 0xFFFFFFFFFFFFFFFD ∧ rr (.rem .s o3) 0xFFFFFFFFFFFFFFF9 2 = 0xFFFFFFFFFFFFFFFF := by decide +kernel
theorem test_div_corners : rr (.divu .s o3) 7 0 = 0xFFFFFFFFFFFFFFFF ∧ rr (.rem .s o3) 7 0 = 7 ∧ rr (.div .s o3) 0x8000000000000000 0xFFFFFFFFFFFFFFFF = 0x8000000000000000 := by decide +kernel
/-- R126, R129, R130. -/
theorem test_shift_amount : rr (.shl .c o3) 1 65 = 2 ∧ rr (.sar .c o3) 0x8000000000000000 63 = 0xFFFFFFFFFFFFFFFF ∧ rr (.ror .c o3) 1 1 = 0x8000000000000000 := by decide +kernel
theorem test_counts : rr (.clz .c o3) 0 0 = 64 ∧ rr (.ctz .c o3) 0x100 0 = 8 ∧ rr (.popc .c o3) 0xF0F0 0 = 8 := by decide +kernel
theorem test_constants : rr (.movk .c ⟨1, 2, 0xABCD⟩) 0x1111222233334444 0 1 = 0x1111ABCD33334444 ∧ rr (.sext .c ⟨3, 1, 7⟩) 0x80 0 = 0xFFFFFFFFFFFFFF80 ∧
    rr (.movi .c ⟨3, -1⟩) 0 0 = 0xFFFFFFFFFFFFFFFF := by decide +kernel
/-- R132: 1 + 1 = 2 and 1.5 × 1.5 = 2.25 in binary32; R135: −1.5 goes to −2 under RNE. -/
theorem test_float : rr (.sfadd .c o3) 0x3F800000 0x3F800000 = 0x40000000 ∧ rr (.sfmul .c o3) 0x3FC00000 0x3FC00000 = 0x40100000 ∧
    rr (.sfcvt .c ⟨3, 1, 0, 0, 1, 0⟩) 0xBFC00000 0 = 0xFFFFFFFFFFFFFFFE := by decide +kernel
/-- R134: an unordered comparison is false for LT and true for UNE. -/
theorem test_float_compare : rr (.sfcmp .c ⟨3, 1, 2, 0, 1, 0⟩) 0x7FC00000 0 = 0 ∧ rr (.sfcmp .c ⟨3, 1, 2, 0, 4, 0⟩) 0x7FC00000 0 = 1 := by decide +kernel
/-- R136: PSETN sets the first n lanes of 4 bytes; PFIRST finds the lane. -/
theorem test_predicates : (after (.psetn ⟨2, 0, 0, 1, 2⟩) (withS 1 3 ready)).p 2 = 0xFFF ∧
    (after (.pfirst ⟨0, 2, 2, 3, 2⟩) (on fun c => { c with preg := Vector.replicate 16 0xF00 })).s 3 = 2 := by decide +kernel
/-- R138, R139: the offset counts bundles from the branch; CALL links the next bundle. -/
theorem test_branches : (after (.br ⟨-8⟩) ready).pc = 32 ∧ (after (.brc ⟨1, 2, 0, 5⟩) ready).pc = 41 ∧ (after (.call ⟨2⟩) ready).s 31 = 41 ∧ (after .ret (withS 31 7 ready)).pc = 7 := by decide +kernel
/-- R377: a branch below bundle 0 traps with the alignment cause 0x0C; TE is cleared and the PC goes to TVB. -/
theorem test_branch_trap : (after (.br ⟨-41⟩) (on fun c => { c with te := true, tvb := 9 })).te = false ∧ (after (.br ⟨-41⟩) (on fun c => { c with te := true, tvb := 9 })).tepc = 40 ∧
    (after (.br ⟨-41⟩) (on fun c => { c with te := true, tvb := 9 })).tcause.setWidth 8 = cAlignment := by decide +kernel
/-- R140, R141: LOOPI takes LC from S and LRP the next bundle; LOOP with LC = 2 counts and branches. -/
theorem test_loop : (after (.loopi ⟨1, 3⟩) (withS 1 9 ready)).lrp = 41 ∧ (after (.loopi ⟨1, 3⟩) (withS 1 9 ready)).esc = 3 ∧
    (after .loop (on fun c => { c with lc := 2, lrp := 30 })).pc = 30 ∧ (after .loop (on fun c => { c with lc := 2, lrp := 30 })).lc = 1 ∧
    (after .loop (on fun c => { c with lc := 2, lrp := 30 })).vrb = 15 := by decide +kernel
/-- R149: the old value is returned; R119: RM of 6 is reserved. -/
theorem test_csr : (after (.csrw ⟨3, 1, 4⟩) (withS 1 5 (on fun c => { c with lc := 8 }))).s 3 = 8 ∧ (after (.csrw ⟨3, 1, 4⟩) (withS 1 5 (on fun c => { c with lc := 8 }))).lc = 5 ∧
    (after (.csrw ⟨3, 1, 1⟩) (withS 1 6 (on fun c => { c with te := true }))).tcause.setWidth 8 = cReservedField := by decide +kernel
/-- R142, R151. -/
theorem test_halt_and_privilege : (after .halt ready).wait = .halt ∧ (after (.dnew ⟨3, 1, 0, 0, 0⟩) (on fun c => { c with te := true })).tcause.setWidth 8 = cPermission := by decide +kernel
/-- S[3] after an instruction. -/
def r3 (i : Instr) (s : State) : Word := (after i s).s 3
/-- R327, R329, R330: results and refusal codes; domain 1 is a child of the acting domain 0, domain 2 a dying one, 3 a grandchild, 9 none. -/
theorem test_domain_creation : r3 (.dnew ⟨3, 1, 0, 0, 0⟩) (worded [0x2000, 64, 0x0101, 5, 0] family) = 4 ∧
    [r3 (.dnew ⟨3, 1, 0, 0, 0⟩) (worded [0x2000, 64, 0, 5, 0] family), r3 (.dnew ⟨3, 1, 0, 0, 0⟩) (worded [0x2000, 64, 0x0101, 0xFFFFFFFF, 0] family),
      r3 (.dnew ⟨3, 1, 0, 0, 0⟩) (worded [0x2000, 64, 0x0101, 5, 0] (putDom family { domAt family 0 with depth := 8 })),
      r3 (.dgrantRange ⟨3, 5, 1, 0, 0⟩) (familyAt 2), r3 (.dgrantRange ⟨3, 5, 1, 0, 0⟩) (familyAt 3), r3 (.dgrantRange ⟨3, 5, 1, 0, 0⟩) (familyAt 9)].map (fun w => w.toNat % 2 ^ 63) =
      [1, 5, 4, 7, 2, 2] := by decide +kernel
/-- R323, R324, R331, R332: a range within the grantor's and one outside it, a core held and one not held, a VF, budgets; a revocation of each kind, a kill. -/
theorem test_domain_grants : [r3 (.dgrantRange ⟨3, 5, 1, 0, 0⟩) (worded [7, 0x40000, 0x80000] (familyAt 1)), r3 (.dgrantCore ⟨3, 5, 6, 0, 1⟩) (withS 6 1 (familyAt 1)),
      r3 (.dgrantVf ⟨3, 5, 6, 0, 2⟩) (withS 6 2 (familyAt 1)), r3 (.dgrantBud ⟨3, 5, 6, 0, 3⟩) (withS 6 0x0101 (familyAt 1)),
      r3 (.drevokeRange ⟨3, 5, 1, 0, 0⟩) (worded [0, 0, 0x80000] (familyAt 1)), r3 (.drevokeCore ⟨3, 5, 6, 0, 1⟩) (withS 6 1 (familyAt 1)), r3 (.dkill ⟨3, 5, 6, 0, 0⟩) (familyAt 1)] =
      [0, 0, 0, 0, 0, 0, 0] ∧
    [r3 (.dgrantRange ⟨3, 5, 1, 0, 0⟩) (worded [7, 0x4000000, 0x80000] (familyAt 1)), r3 (.dgrantCore ⟨3, 5, 6, 0, 1⟩) (withS 6 2 (familyAt 1)),
      r3 (.dgrantBud ⟨3, 5, 6, 0, 3⟩) (withS 6 0x0100 (familyAt 1)), r3 (.drevokeVf ⟨3, 5, 6, 0, 2⟩) (withS 6 1 (familyAt 1))].map (fun w => w.toNat % 2 ^ 63) = [3, 3, 1, 3] := by
  decide +kernel
/-- R157: signed saturation of bytes 0x7F + 1; without SAT they wrap. R163: the shift amount is modulo the width. -/
theorem test_vector_integer : (vv (.vadd .v ⟨0, 0, 3, 1, 2, 0, 0, 0, 0, 1, 0⟩) 0x7F7F 0x0101).extractLsb' 0 16 = 0x7F7F ∧
    (vv (.vadd .v ⟨0, 0, 3, 1, 2, 0, 0, 0, 0, 0, 0⟩) 0x7F7F 0x0101).extractLsb' 0 16 = 0x8080 ∧
    (vv (.vshl .v ⟨0, 0, 3, 1, 2, 0, 0, 0, 0, 0, 0⟩) 0x0101 0x0901).extractLsb' 0 16 = 0x0202 := by decide +kernel
/-- R154: an inactive lane keeps its old element, or is zeroed; p1 activates the even bytes. -/
theorem test_vector_merge : (vv (.vmov .v ⟨0, 0, 3, 1, 0, 1, 0, 0, 0, 0, 0⟩) 0xAABB 0).extractLsb' 0 16 = 0x00BB ∧
    (vv (.vnot .v ⟨0, 0, 3, 1, 0, 1, 1, 0, 0, 0, 0⟩) 0 0).extractLsb' 0 16 = 0x00FF := by decide +kernel
/-- R167: VIOTA; R162: 1 + 1 in binary32 lanes. -/
theorem test_vector_lanes : (vv (.viota .v ⟨2, 0, 3, 1, 2, 0, 0, 0, 0, 0, 0⟩) 0 0).extractLsb' 32 32 = 64 + 128 ∧
    (vv (.vadd .v ⟨7, 0, 3, 1, 2, 0, 0, 0, 0, 0, 0⟩) 0x3F800000 0x3F800000).extractLsb' 0 32 = 0x40000000 := by decide +kernel
/-- R168: the sum of 32 bytes of 1 is 32. -/
theorem test_vector_reduce : (vv (.vreds .v ⟨0, 0, 3, 1, 0, 0, 0, 0, 0, 0, 0⟩) 0x0101010101010101010101010101010101010101010101010101010101010101 0).extractLsb' 0 8 = 32 := by decide +kernel
/-- R171: rotation by one element toward higher ones; broadcast. -/
theorem test_crossbar : (vv (.xrot ⟨0, 3, 1, 0, 0, 1⟩) 0xAABB 0).extractLsb' 0 24 = 0xAABB00 ∧ (vv (.xbcst ⟨0, 3, 1, 0, 0, 1⟩) 0xAABB 0).extractLsb' 0 24 = 0xAAAAAA := by decide +kernel
/-- R107: a dead register faults with its number. -/
theorem test_dead_register : (after (.vmov .v ⟨0, 0, 3, 1, 0, 0, 0, 0, 0, 0, 0⟩) (on fun c => { c with te := true, livev := 0 })).tcause.setWidth 8 = cDeadRegister := by decide +kernel
/-- R212, R61: LD.W sign-extends; a store stays in the buffer and forwards. -/
theorem test_loads : (after (.ldW ⟨3, 1, 0, 0⟩) { ready with mem := memWrite [] 64 4 0x80000001 }).s 3 = 0xFFFFFFFF80000001 ∧
    (after (.ldBu ⟨3, 1, 3, 0⟩) { ready with mem := memWrite [] 64 4 0x80000001 }).s 3 = 0x80 ∧
    (after (.stD ⟨2, 1, 0, 0⟩) ready).buffered.length = 1 := by decide +kernel
/-- R211: a misaligned word. -/
theorem test_alignment : (after (.ldW ⟨3, 1, 2, 0⟩) (on fun c => { c with te := true })).tcause.setWidth 8 = cAlignment := by decide +kernel
/-- R215, R217: the old value and the sum; CAS stores only on a match. -/
theorem test_atomics : (match exec (.ataddD ⟨3, 1, 2, 0, 0, 0⟩) { ready with mem := memWrite [] 64 8 5 } with
      | .next t => decide (t.ctx.s 3 = 5) && decide (memRead t.mem 64 8 = 133)
      | _ => false) = true ∧
    (match exec (.atcasD ⟨3, 1, 2, 4, 0, 0⟩) { ready with mem := memWrite [] 64 8 5 } with
      | .next t => decide (t.ctx.s 3 = 5) && decide (memRead t.mem 64 8 = 5)
      | _ => false) = true := by decide +kernel
/-- R176, R177: a row of a tile from its first byte, and beyond the row's end zero; the element goes to S. -/
theorem test_vector_tile : (after (.vldt ⟨3, 2, 0, 0, 0, 1, 0⟩) (holding [tile2] ready)).v 3 = 2 ∧
    (after (.vext ⟨1, 0, 5, 0, 1, 1, 0⟩) (on fun c => { c with vreg := Vector.replicate 32 0xAABBCCDD })).s 5 = 0xAABB := by decide +kernel
/-- R230: the window takes the entry; TFREE unmaps the handle. -/
theorem test_window : (after (.tfill ⟨3, 0, 1, 0, 0, 0, 0, 0⟩) tiled).win.length = 1 ∧ (after (.tfree ⟨3, 0, 0, 0, 0, 0, 0, 0⟩) tiled).hmap[3] = none ∧
    (after (.tfree ⟨3, 0, 0, 0, 0, 0, 0, 0⟩) tiled).win.length = 1 := by decide +kernel
/-- R350: a post saturates at 2^32 − 1; R353: a fence beyond the ceiling is narrowed with NF. -/
theorem test_flags : (match exec (.fpost ⟨0, 2, 1, 0, 0, 0, 5⟩) (withS 1 0xFFFFFFFA (putFlag ready ⟨⟨0, 0⟩, 2⟩ 3)) with
      | .next t => flagVal t ⟨⟨0, 0⟩, 2⟩ == 0xFFFFFFFF
      | _ => false) = true ∧ (after (.fence ⟨0, 3, 0, 0, 0, 0, 0⟩) (putDom ready { Dom.root with ceil := 1, cmode := false })).nf = true ∧
    (after (.fwait ⟨0, 2, 1, 0, 0, 0, 0⟩) ready).wait ≠ .none := by decide +kernel
/-- R45, R53: the first step after a program is placed runs its bundle. -/
theorem test_first_step : (match step (State.reset.withFetchWord 80 (placed 0x6130000004 1)) with
    | .next t => decide (t.ctx.s 6 = 4) && decide (t.ctx.pc = 1)
    | _ => false) = true := by decide +kernel

end Sys2Proof.Machine.Tests
end

section
/-! PROOFS. Every step keeps device memory in its canonical form (spec/08 R1, R182, R187, R209; log entry 1).

The model writes the cells of device memory in four places only: `writeMem`, `copyRange`, `blankRange` and `wipeDie`; a reset and a cold start
empty it. Each of these keeps `memWf`. Every other operation hands the memory on to operations it calls, so it has one lemma here, named after it,
whose proof follows its branches and cites the lemmas of what it calls: `memGood_f` where `f` answers a state (or a record that holds one), and
`optionGood_f`, `exceptGood_f`, `outcomeGood_f` where the answer holds a state in some of its cases only. `memGood_of_f` says the same of an answer
that a caller has matched on. A lemma of an operation that takes a continuation assumes the same of the continuation. -/

namespace Sys2Proof.Machine

/-! ### Rules for conditionals, folds and answers -/

theorem memGood_ite_map {α : Type} (f : α → State) {c : Prop} [Decidable c] {a b : α} (ha : (f a).memGood) (hb : (f b).memGood) :
    (f (if c then a else b)).memGood := by
  split
  · exact ha
  · exact hb

theorem memGood_ite {c : Prop} [Decidable c] {s t : State} (hs : s.memGood) (ht : t.memGood) : (if c then s else t).memGood :=
  memGood_ite_map id hs ht

theorem memGood_foldl {α : Type} {f : State → α → State} {l : List α} {s : State} (hs : s.memGood)
    (hf : ∀ s a, s.memGood → (f s a).memGood) : (l.foldl f s).memGood := by
  induction l generalizing s with
  | nil => exact hs
  | cons a l ih => exact ih (hf _ _ hs)

theorem memGood_foldl_fst {α β : Type} {f : State × β → α → State × β} {l : List α} {p : State × β} (hp : p.1.memGood)
    (hf : ∀ p a, p.1.memGood → (f p a).1.memGood) : (l.foldl f p).1.memGood := by
  induction l generalizing p with
  | nil => exact hp
  | cons a l ih => exact ih (hf _ _ hp)

/-- The state of an answer that may be none, where there is one, has its memory in canonical form. -/
def OptionGood (o : Option State) : Prop := ∀ t, o = some t → t.memGood

theorem optionGood_none : OptionGood none := by
  rintro _ ⟨⟩

theorem optionGood_some {s : State} (hs : s.memGood) : OptionGood (some s) := by
  rintro _ ⟨⟩
  exact hs

theorem optionGood_ite {c : Prop} [Decidable c] {a b : Option State} (ha : OptionGood a) (hb : OptionGood b) :
    OptionGood (if c then a else b) := by
  split
  · exact ha
  · exact hb

theorem memGood_getD {o : Option State} {s : State} (ho : OptionGood o) (hs : s.memGood) : (o.getD s).memGood := by
  cases o with
  | none => exact hs
  | some t => exact ho t rfl

/-- The state that `st` reads in an answer that is no refusal has its memory in canonical form. -/
def ExceptGood {ε α : Type} (st : α → State) (r : Except ε α) : Prop := ∀ a, r = .ok a → (st a).memGood

theorem exceptGood_error {ε α : Type} {st : α → State} {e : ε} : ExceptGood st (.error e) := by
  rintro _ ⟨⟩

theorem exceptGood_ok {ε α : Type} {st : α → State} {a : α} (h : (st a).memGood) : ExceptGood st (.ok a : Except ε α) := by
  rintro _ ⟨⟩
  exact h

theorem exceptGood_ite {ε α : Type} {st : α → State} {c : Prop} [Decidable c] {a b : Except ε α} (ha : ExceptGood st a)
    (hb : ExceptGood st b) : ExceptGood st (if c then a else b) := by
  split
  · exact ha
  · exact hb

/-- An outcome that goes on has its memory in canonical form. -/
def OutcomeGood (o : Host.Outcome State Fault Refusal) : Prop := ∀ t, o = .next t → t.memGood

theorem outcomeGood_next {s : State} (hs : s.memGood) : OutcomeGood (.next s) := by
  rintro _ ⟨⟩
  exact hs

theorem outcomeGood_fault {r : Fault} : OutcomeGood (.fault r) := by
  rintro _ ⟨⟩

theorem outcomeGood_refused {r : Refusal} : OutcomeGood (.refused r) := by
  rintro _ ⟨⟩

theorem outcomeGood_ite {c : Prop} [Decidable c] {a b : Host.Outcome State Fault Refusal} (ha : OutcomeGood a) (hb : OutcomeGood b) :
    OutcomeGood (if c then a else b) := by
  split
  · exact ha
  · exact hb

/-- The state after fetching a bundle, whatever the fetch gave. -/
def Fetch.st : Fetch → State
  | .ok _ s => s
  | .bad _ _ s => s
  | .wait s => s
  | .ask _ _ _ s => s

/-- The state after fetching a part of a bundle. -/
def partSt : Except Fetch (Nat × State) → State
  | .error f => f.st
  | .ok p => p.2

/-- The state after reading a launch record, whatever the read gave. -/
def RecRd.st : RecRd → State
  | .ok _ s => s
  | .bad s => s
  | .wait s => s

variable {s : State} {x : CtxId} {c : CoreId}

/-! ### Contexts, cores, dies and domains -/

theorem memGood_putCtx {c : Ctx} (hs : s.memGood) : (putCtx s x c).memGood := memGood_ite hs hs

theorem memGood_modCtx {f : Ctx → Ctx} (hs : s.memGood) : (modCtx s x f).memGood := memGood_putCtx hs

theorem memGood_focusOn (hs : s.memGood) : (focusOn s x).memGood := memGood_ite hs hs

theorem memGood_putCore {k : Core} (hs : s.memGood) : (putCore s c k).memGood := hs

theorem memGood_modCore {f : Core → Core} (hs : s.memGood) : (modCore s c f).memGood := memGood_putCore hs

theorem memGood_putDie {d : Fin 4} {x : Die} (hs : s.memGood) : (putDie s d x).memGood := hs

theorem memGood_modDie {d : Fin 4} {f : Die → Die} (hs : s.memGood) : (modDie s d f).memGood := memGood_putDie hs

theorem memGood_countErr {d : Fin 4} {k : Fin 18} (hs : s.memGood) : (countErr s d k).memGood := memGood_modDie hs

theorem memGood_countErrs {d : Fin 4} {k : Fin 18} {n : Nat} (hs : s.memGood) : (countErrs s d k n).memGood :=
  memGood_modDie hs

theorem memGood_countReq {d : Fin 4} {k : Fin 4} (hs : s.memGood) : (countReq s d k).memGood := memGood_modDie hs

theorem memGood_putDom {x : Dom} (hs : s.memGood) : (putDom s x).memGood := hs

theorem memGood_modDom {d : BitVec 12} {f : Dom → Dom} (hs : s.memGood) : (modDom s d f).memGood := by
  unfold modDom
  split
  · exact memGood_putDom hs
  · exact hs

/-! ### Messages -/

theorem memGood_putFlow {f : FlowId} {x : Flow} (hs : s.memGood) : (putFlow s f x).memGood := hs

theorem memGood_modFlow {f : FlowId} {g : Flow → Flow} (hs : s.memGood) : (modFlow s f g).memGood :=
  memGood_putFlow hs

theorem memGood_emit {f : FlowId} {w : Wire} (hs : s.memGood) : (emit s f w).memGood :=
  memGood_ite (memGood_ite hs (memGood_modFlow hs)) (memGood_ite hs hs)

theorem memGood_sendMsg {f : FlowId} {ty : BitVec 8} {len : Nat} {arg : BitVec 64} {pay : BitVec 640}
    (hs : s.memGood) : (sendMsg s f ty len arg pay).memGood :=
  memGood_ite (memGood_putFlow hs) (memGood_emit (memGood_modFlow (memGood_putFlow hs)))

theorem memGood_drainBacklog {f : FlowId} {n : Nat} (hs : s.memGood) : (drainBacklog s f n).memGood := by
  induction n generalizing s with
  | zero => exact hs
  | succ n ih =>
    unfold drainBacklog
    dsimp only
    split
    · exact hs
    · exact memGood_ite hs (ih (memGood_sendMsg (memGood_putFlow hs)))

theorem memGood_sendAck {f : FlowId} {nak : Bool} (hs : s.memGood) : (sendAck s f nak).memGood :=
  memGood_emit (memGood_modFlow hs)

theorem memGood_settleRoutes (hs : s.memGood) : (settleRoutes s).memGood := hs

theorem memGood_takeAck {f : FlowId} {ack : BitVec 16} (hs : s.memGood) : (takeAck s f ack).memGood :=
  memGood_settleRoutes (memGood_drainBacklog (memGood_putFlow hs))

theorem memGood_resendAll {f : FlowId} (hs : s.memGood) : (resendAll s f).memGood :=
  memGood_foldl hs fun _ _ hs => memGood_emit hs

/-! ### Homes of bytes, counting flags and event queues -/

theorem memGood_markLine {l : Nat} (hs : s.memGood) : (markLine s l).memGood := memGood_ite hs hs

theorem memGood_poisonLine {d : Fin 4} {l : Nat} (hs : s.memGood) : (poisonLine s d l).memGood :=
  memGood_ite hs (memGood_countErr hs)

theorem memGood_clearLine {l : Nat} (hs : s.memGood) : (clearLine s l).memGood := hs

theorem memGood_meetLatent {d : Fin 4} {l : Nat} (hs : s.memGood) : (meetLatent s d l).memGood := by
  unfold meetLatent
  dsimp only
  split
  · exact hs
  · exact memGood_ite (memGood_countErr hs) (memGood_poisonLine (memGood_countErr hs))

theorem memGood_readMem {d : Fin 4} {off n : Nat} (hs : s.memGood) : (readMem s d off n).st.memGood :=
  memGood_meetLatent hs

theorem memGood_meetWrite {d : Fin 4} {off n : Nat} (hs : s.memGood) : (meetWrite s d off n).memGood :=
  memGood_ite hs (memGood_meetLatent hs)

/-- A write at its home and at its mirrors: each is a `writeMem` after the line has met its latent error. -/
theorem memGood_homeWrite {d : Fin 4} {off n v : Nat} {hd : Option (Fin 4)} (hs : s.memGood) :
    (homeWrite s d off n v hd).1.memGood := by
  have write {u : State} {d : Fin 4} (hu : u.memGood) : (writeMem (meetWrite u d off n) d off n v).memGood :=
    memGood_writeMem _ _ _ _ (memGood_meetWrite hu)
  refine memGood_ite_map Prod.fst ?_ hs
  split
  · exact write hs
  · exact memGood_ite (memGood_foldl (memGood_modDie (write hs)) fun _ _ hs => write hs) (memGood_modDie (write hs))

theorem memGood_lineWritten {d : Fin 4} {off : Nat} {pois whole : Bool} (hs : s.memGood) :
    (lineWritten s d off pois whole).memGood :=
  memGood_ite (memGood_markLine hs) (memGood_ite (memGood_clearLine hs) hs)

theorem memGood_homeWritten {d : Fin 4} {off : Nat} {hd : Option (Fin 4)} {pois whole : Bool} (hs : s.memGood) :
    (homeWritten s d off hd pois whole).memGood :=
  memGood_ite (memGood_foldl hs fun _ _ hs => memGood_lineWritten hs) hs

theorem memGood_countRequest {src : Fin 4} {p : Place} (hs : s.memGood) : (countRequest s src p).memGood := by
  unfold countRequest
  split
  · exact memGood_ite (memGood_countReq hs) (memGood_countReq (memGood_countReq hs))
  · exact hs
  · exact memGood_ite (memGood_countReq hs) hs
  · exact memGood_countReq hs

theorem memGood_pendNew {p : Place} {n : Nat} {op : AskOp} {who : Who} (hs : s.memGood) :
    (pendNew s p n op who).memGood := hs

theorem memGood_sendAsk {src : Fin 4} {p : Place} {n : Nat} {op : AskOp} {who : Who} (hs : s.memGood) :
    (sendAsk s src p n op who).memGood := by
  unfold sendAsk
  extract_lets t tag
  have ht : t.memGood := memGood_pendNew hs
  split
  · exact memGood_sendMsg ht
  · split
    · exact ht
    · exact memGood_sendMsg ht
    · exact hs
    · exact hs
  · split
    · exact ht
    · exact memGood_sendMsg ht
    · exact hs
    · exact hs

theorem memGood_sendWrite {p : Place} {n v mask : Nat} {pois : Bool} {who : Who} (hs : s.memGood) :
    (sendWrite s p n v mask pois who).memGood := by
  unfold sendWrite
  dsimp only
  split
  · exact memGood_ite (memGood_sendMsg (memGood_pendNew hs)) (memGood_sendMsg (memGood_sendMsg (memGood_pendNew hs)))
  · exact hs

theorem memGood_hostPut {a : BitVec 48} {n v mask : Nat} (hs : s.memGood) : (hostPut s a n v mask).memGood := hs

theorem memGood_orphan (hs : s.memGood) : (orphan s x).memGood := hs

theorem memGood_loseDeps {d : Fin 4} (hs : s.memGood) : (loseDeps s d).memGood := hs

theorem memGood_flagEvent {fl : FlagRef} (hs : s.memGood) : (flagEvent s fl).memGood := hs

theorem memGood_putFlag {fl : FlagRef} {v : BitVec 32} (hs : s.memGood) : (putFlag s fl v).memGood :=
  memGood_flagEvent (memGood_modCore hs)

theorem memGood_postFlag {fl : FlagRef} {v : BitVec 32} (hs : s.memGood) : (postFlag s fl v).memGood :=
  memGood_ite (memGood_putFlag hs) (memGood_countErr hs)

theorem memGood_setFlag {fl : FlagRef} {v : BitVec 32} (hs : s.memGood) : (setFlag s fl v).memGood :=
  memGood_ite (memGood_putFlag hs) (memGood_countErr hs)

theorem memGood_devSeen {p : Place} (hs : s.memGood) : (devSeen s p).memGood := by
  unfold devSeen
  split
  · exact memGood_meetLatent hs
  · exact memGood_sendAsk hs
  · exact memGood_sendAsk hs
  · exact memGood_countErr (memGood_countErr hs)

theorem memGood_devWrite {p : Place} {n v : Nat} (hs : s.memGood) : (devWrite s p n v).memGood := by
  unfold devWrite
  split
  · exact memGood_writeMem _ _ _ _ (memGood_meetWrite hs)
  · exact memGood_hostPut hs
  · exact memGood_sendWrite hs
  · exact memGood_countErr hs

theorem memGood_putRecord {x : Dom} {ctl : Place} {r : Nat} {src : BitVec 12} {kind sub : BitVec 8} {pay : List Word}
    (hs : s.memGood) : (putRecord s x ctl r src kind sub pay).memGood := by
  unfold putRecord
  extract_lets da e0 words v u w
  have hu : u.memGood := by
    dsimp only [u]
    split
    · exact memGood_devWrite hs
    · exact hs
  have hw : w.memGood := memGood_devWrite hu
  split
  · exact memGood_postFlag hw
  · exact hw

theorem memGood_writeEvent {dom src : BitVec 12} {kind sub : BitVec 8} {pay : List Word} (hs : s.memGood) :
    (writeEvent s dom src kind sub pay).1.memGood := by
  unfold writeEvent
  split
  · exact hs
  · refine memGood_ite_map Prod.fst hs ?_
    split
    · exact hs
    · extract_lets cw head tail lost size used place setLost u v w
      have hl {s : State} (hs : s.memGood) (k : Nat) : (setLost s k).memGood := by
        dsimp only [setLost]
        split
        · exact memGood_devWrite hs
        · exact hs
      have hu : u.memGood := memGood_foldl hs fun _ _ hs => by
        split
        · exact memGood_devSeen hs
        · exact hs
      have hw : w.memGood := hl (memGood_putRecord hu) 0
      refine memGood_ite_map Prod.fst (hl hs _) (memGood_ite_map Prod.fst hs ?_)
      refine memGood_ite_map Prod.fst (memGood_putRecord hu) (memGood_ite_map Prod.fst (hl hu _) ?_)
      exact memGood_ite_map Prod.fst hw (memGood_putRecord hw)

theorem memGood_firstLost {src : Fin 4} {dom : BitVec 12} {addr group : Word} (hs : s.memGood) :
    (firstLost s src dom addr group).memGood := memGood_ite hs (memGood_writeEvent (memGood_modDie hs))

theorem memGood_noteLost {src : Fin 4} {dom : BitVec 12} {addr group : Word} (hs : s.memGood) :
    (noteLost s src dom addr group).memGood := memGood_firstLost (memGood_countErr hs)

theorem memGood_readLost {src : Fin 4} {dom : BitVec 12} {addr group : Word} (hs : s.memGood) :
    (readLost s src dom addr group).memGood := memGood_countErr (memGood_noteLost hs)

theorem memGood_queueEvent {dom src : BitVec 12} {kind sub : BitVec 8} {pay : List Word} (hs : s.memGood) :
    (queueEvent s dom src kind sub pay).1.memGood :=
  memGood_ite_map Prod.fst (memGood_firstLost (memGood_writeEvent hs)) (memGood_writeEvent hs)

theorem memGood_event {dom : BitVec 12} {kind sub : BitVec 8} {pay : List Word} (hs : s.memGood) :
    (event s dom kind sub pay).memGood := memGood_queueEvent hs

theorem memGood_devMet {src : Fin 4} {dom : BitVec 12} {addr group : Word} {p : Place} (hs : s.memGood) :
    (devMet s src dom addr group p).memGood := by
  unfold devMet
  split
  · exact memGood_readLost hs
  · exact memGood_devSeen hs

theorem memGood_devPut {src : Fin 4} {dom : BitVec 12} {addr group : Word} {p : Place} {n v : Nat} (hs : s.memGood) :
    (devPut s src dom addr group p n v).memGood := by
  unfold devPut
  split
  · exact memGood_noteLost hs
  · exact memGood_devWrite hs

theorem memGood_throttleEvent {dom : BitVec 12} {t : Throttle} (hs : s.memGood) : (throttleEvent s c dom t).memGood :=
  memGood_ite (memGood_event (memGood_putCore hs)) (memGood_putCore hs)

/-! ### Translation and fetch -/

theorem optionGood_dirtyAppend {src : Fin 4} {x : Dom} {page : Word} (hs : s.memGood) :
    OptionGood (dirtyAppend s src x page) := by
  unfold dirtyAppend
  extract_lets par u word size head tail used write v w
  have hu : u.memGood := memGood_foldl hs fun _ _ hs => by
    split
    · exact memGood_devMet hs
    · exact hs
  have put {s : State} (hs : s.memGood) (k v : Nat) : (write s k v).memGood := by
    dsimp only [write]
    split
    · exact memGood_devPut hs
    · exact hs
  have hw : w.memGood := put (put hu _ _) _ _
  refine optionGood_ite optionGood_none (optionGood_ite (optionGood_some hu) ?_)
  exact optionGood_some (memGood_ite (memGood_event hw) hw)

theorem memGood_tlbFill {t : Tlb} (hs : s.memGood) : (tlbFill s c t).memGood := memGood_modDie (memGood_modCore hs)

/-- The walk writes memory for the A and D bits and for the dirty-page log alone. -/
theorem memGood_pageWalk {dom : BitVec 12} {g : Word} {va : BitVec 48} {acc : Access} (hs : s.memGood) :
    (pageWalk s c dom g va acc).2.memGood := by
  have met {l : List Place} : (l.foldl (fun s p => devMet s c.die dom (va.setWidth 64) g p) s).memGood :=
    memGood_foldl hs fun _ _ hs => memGood_devMet hs
  unfold pageWalk
  dsimp only
  split
  · exact memGood_ite (memGood_countErr met) met
  · split
    · exact met
    · split
      · exact met
      · exact memGood_countErr met
      · refine memGood_ite_map Prod.snd met (memGood_ite_map Prod.snd met ?_)
        split
        · exact memGood_event met
        · next e =>
          have hu := optionGood_ite (optionGood_dirtyAppend met) (optionGood_some met) _ e
          exact memGood_tlbFill (memGood_ite hu (memGood_devPut hu))

theorem memGood_of_pageWalk {dom : BitVec 12} {g : Word} {va : BitVec 48} {acc : Access}
    {r : Except AccFault Tlb × State} (hs : s.memGood) (e : pageWalk s c dom g va acc = r) : r.2.memGood :=
  e ▸ memGood_pageWalk hs

theorem memGood_useTlb {t : Tlb} {va : BitVec 48} {acc : Access} (hs : s.memGood) :
    (useTlb s c t va acc).st.memGood := by
  refine memGood_ite_map Tr.st hs (memGood_ite_map Tr.st hs (memGood_ite_map Tr.st hs ?_))
  split
  · exact memGood_ite_map Tr.st hs hs
  · exact hs
  · exact memGood_countErr hs

theorem memGood_translate {dom : BitVec 12} {g : Word} {va : BitVec 48} {acc : Access} (hs : s.memGood) :
    (translate s c dom g va acc).st.memGood := by
  unfold translate
  split
  · exact memGood_useTlb hs
  · split
    · exact memGood_useTlb (memGood_tlbFill hs)
    · split
      · next e => exact memGood_of_pageWalk hs e
      · next e => exact memGood_useTlb (memGood_of_pageWalk hs e)

theorem memGood_of_translate {dom : BitVec 12} {g : Word} {va : BitVec 48} {acc : Access} {r : Tr} (hs : s.memGood)
    (e : translate s c dom g va acc = r) : r.st.memGood := e ▸ memGood_translate hs

theorem memGood_fetchPart {got : List (BitVec 48 × Nat)} {dom : BitVec 12} {g : Word} {va : BitVec 48} {n : Nat}
    (hs : s.memGood) : (partSt (fetchPart s got c dom g va n)).memGood := by
  unfold fetchPart
  split
  · next e => exact memGood_of_translate hs e
  · next e => exact memGood_of_translate hs e
  · next u e =>
    have hu : u.memGood := memGood_of_translate hs e
    split
    · dsimp only [partSt]
      exact memGood_devSeen (memGood_devSeen hu)
    · exact memGood_readLost hu
    · split <;> exact hu

theorem memGood_of_fetchPart {got : List (BitVec 48 × Nat)} {dom : BitVec 12} {g : Word} {va : BitVec 48} {n : Nat}
    {r : Except Fetch (Nat × State)} (hs : s.memGood) (e : fetchPart s got c dom g va n = r) :
    (partSt r).memGood := e ▸ memGood_fetchPart hs

theorem memGood_fetchBundle {got : List (BitVec 48 × Nat)} {dom : BitVec 12} {g : Word} {va : BitVec 48}
    (hs : s.memGood) : (fetchBundle s got c dom g va).st.memGood := by
  unfold fetchBundle
  split
  · exact hs
  · extract_lets room n
    split
    · next e => exact memGood_of_fetchPart hs e
    · next lo u e =>
      have hu : u.memGood := memGood_of_fetchPart hs e
      have high {r : Except Fetch (Nat × State)}
          (e : (if n = 40 then .ok (0, u) else fetchPart u got c dom g (va + BitVec.ofNat 48 n) (40 - n)) = r) :
          (partSt r).memGood := e ▸ memGood_ite_map partSt hu (memGood_fetchPart hu)
      dsimp only
      split
      · next e => exact high e
      · next e =>
        dsimp only [Fetch.st]
        exact memGood_modCore (high e)

theorem memGood_of_fetchBundle {got : List (BitVec 48 × Nat)} {dom : BitVec 12} {g : Word} {va : BitVec 48}
    {r : Fetch} (hs : s.memGood) (e : fetchBundle s got c dom g va = r) : r.st.memGood := e ▸ memGood_fetchBundle hs

/-! ### Groups, launches and tiles -/

theorem memGood_modGroup {g : BitVec 20} {f : Group → Group} (hs : s.memGood) : (modGroup s g f).memGood := by
  unfold modGroup
  split
  · exact memGood_modDie hs
  · exact hs

theorem memGood_dropGroup {g : BitVec 20} (hs : s.memGood) : (dropGroup s g).memGood := by
  unfold dropGroup
  split
  · exact memGood_modDie hs
  · exact hs

theorem memGood_modLaunch {n : Nat} {f : Launch → Launch} (hs : s.memGood) : (modLaunch s n f).memGood := hs

theorem memGood_modTile {tid : Nat} {f : Tile → Tile} (hs : s.memGood) : (modTile s c tid f).memGood :=
  memGood_modCore hs

theorem memGood_freeTile {tid : Nat} (hs : s.memGood) : (freeTile s c tid).memGood := by
  unfold freeTile
  split
  · exact hs
  · exact memGood_modCore hs

theorem memGood_freeSlot {d : BitVec 12} {slot : Nat} (hs : s.memGood) : (freeSlot s d slot).memGood := by
  unfold freeSlot
  dsimp only [State.memGood]
  exact memGood_modDom hs

theorem memGood_takeSlot {d : BitVec 12} {slot : Nat} (hs : s.memGood) : (takeSlot s d slot).memGood :=
  memGood_modDom hs

theorem memGood_freeStrandTiles {g : BitVec 20} {ix : BitVec 6} (hs : s.memGood) :
    (freeStrandTiles s c g ix).memGood := by
  refine memGood_foldl hs fun _ _ hs => memGood_freeTile ?_
  split
  · exact memGood_freeSlot hs
  · exact hs

theorem memGood_modRef {g : BitVec 20} {r : TRef} {f : Tile → Tile} (hs : s.memGood) :
    (modRef s c g r f).memGood := by
  unfold modRef
  split
  · exact memGood_modTile hs
  · exact memGood_modGroup hs

theorem memGood_freeRef {g : BitVec 20} {r : TRef} (hs : s.memGood) : (freeRef s c g r).memGood := by
  unfold freeRef
  split
  · exact memGood_freeTile hs
  · exact memGood_modGroup hs

theorem memGood_barWake (hs : s.memGood) : (barWake s).memGood := hs

theorem memGood_completeWord {dom : BitVec 12} {a g : Word} (hs : s.memGood) : (completeWord s dom a g).memGood := by
  refine memGood_ite (memGood_event hs) ?_
  dsimp only
  split
  · next e => exact memGood_event (memGood_of_translate hs e)
  · next e =>
    dsimp only [State.memGood]
    exact memGood_of_translate hs e
  · next e =>
    have hu := memGood_of_translate hs e
    split
    · exact memGood_homeWrite (memGood_readMem hu)
    · exact memGood_readLost hu
    · exact memGood_sendAsk hu

theorem memGood_postTarget {l : Launch} {g : Word} (hs : s.memGood) : (postTarget s l g).memGood := by
  unfold postTarget
  split
  · split
    · exact memGood_postFlag hs
    · exact hs
  · exact memGood_ite (memGood_completeWord hs) hs
  · exact hs

theorem memGood_postCompletion {n : Nat} {g : Word} (hs : s.memGood) : (postCompletion s n g).memGood := by
  unfold postCompletion
  dsimp only
  split
  · exact hs
  · refine memGood_ite ?_ (memGood_modLaunch (memGood_postTarget hs))
    dsimp only [State.memGood]
    exact memGood_modLaunch (memGood_postTarget hs)

theorem memGood_groupEnd {g : BitVec 20} (hs : s.memGood) : (groupEnd s g).memGood := by
  unfold groupEnd
  split
  · exact hs
  · exact memGood_ite (memGood_postCompletion (memGood_dropGroup hs)) hs

theorem memGood_setMember {g : BitVec 20} {ix : BitVec 6} {m : Member} (hs : s.memGood) :
    (setMember s g ix m).memGood := memGood_modGroup hs

theorem memGood_closeChunks {g : BitVec 20} {ix : BitVec 6} (hs : s.memGood) : (closeChunks s g ix).memGood := hs

theorem memGood_memberDone {g : BitVec 20} {ix : BitVec 6} (hs : s.memGood) : (memberDone s g ix).memGood :=
  memGood_groupEnd (memGood_barWake (memGood_modGroup (memGood_closeChunks (memGood_setMember hs))))

theorem memGood_opUpdate {by_ : List (Fin 4)} (hs : s.memGood) : (opUpdate s c by_).memGood :=
  memGood_ite hs (memGood_putCore hs)

theorem memGood_opRequest {k : Fin 4} (hs : s.memGood) : (opRequest s c k).memGood := by
  unfold opRequest
  split
  · exact memGood_opUpdate hs
  · exact memGood_modCore hs

theorem memGood_dropSettle (hs : s.memGood) : (dropSettle s x).memGood := memGood_modCore hs

theorem memGood_dropDeficit {d : BitVec 12} (hs : s.memGood) : (dropDeficit s c d).memGood :=
  memGood_ite hs (memGood_modCore hs)

theorem memGood_dropWatch (hs : s.memGood) : (dropWatch s x).memGood := by
  unfold dropWatch
  split
  · exact memGood_modCore hs
  · exact hs

theorem memGood_takeWatch (hs : s.memGood) : (takeWatch s x).memGood := by
  unfold takeWatch
  dsimp only
  split
  · exact memGood_modCtx (memGood_ite hs (memGood_modCore hs))
  · exact hs

theorem memGood_vacate (hs : s.memGood) : (vacate s x).memGood := by
  refine memGood_dropDeficit ?_
  dsimp only [State.memGood]
  exact memGood_modCore (memGood_putCtx (memGood_dropSettle (memGood_dropWatch (memGood_orphan hs))))

theorem memGood_endStrand (hs : s.memGood) : (endStrand s x).memGood := memGood_vacate (memGood_freeStrandTiles hs)

theorem memGood_endReflection (hs : s.memGood) : (endReflection s x).memGood := by
  unfold endReflection
  split
  · exact memGood_vacate (memGood_freeSlot hs)
  · exact hs

theorem memGood_endMember {g : BitVec 20} (hs : s.memGood) : (endMember s g x).memGood :=
  memGood_ite (memGood_endStrand hs) hs

theorem memGood_killGroup {g : BitVec 20} (hs : s.memGood) : (killGroup s g).memGood := by
  unfold killGroup
  split
  · extract_lets s1 s2 s3 s4 s5 s6 s7
    have h1 : s1.memGood := memGood_foldl hs fun _ _ hs => by
      split
      · exact memGood_endMember hs
      · exact hs
    have h2 : s2.memGood := memGood_foldl h1 fun _ _ hs => memGood_endReflection hs
    have h3 : s3.memGood := memGood_foldl h2 fun _ _ hs => memGood_ite (memGood_freeStrandTiles hs) hs
    have h4 : s4.memGood := memGood_foldl h3 fun _ _ hs => memGood_foldl hs fun _ _ hs => memGood_freeTile hs
    have h5 : s5.memGood := memGood_foldl h4 fun _ _ hs => memGood_freeSlot hs
    have h6 : s6.memGood := memGood_modDie h5
    have h7 : s7.memGood := by
      dsimp only [s7, State.memGood]
      exact h6
    exact memGood_groupEnd (memGood_modGroup h7)
  · exact hs

/-! ### Restart regions and traps -/

theorem memGood_performAt {src : Fin 4} {dom : BitVec 12} {grp : BitVec 20} {g : GStore} (hs : s.memGood) :
    (performAt s x src dom grp g).memGood := by
  unfold performAt
  dsimp only
  split
  · exact memGood_homeWrite hs
  · exact memGood_hostPut hs
  · exact memGood_sendWrite hs
  · exact memGood_noteLost hs

theorem memGood_performStore {held : Bool} {src : Fin 4} {dom : BitVec 12} {grp : BitVec 20} {g : GStore}
    (hs : s.memGood) : (performStore s held x src dom grp g).memGood := memGood_ite hs (memGood_performAt hs)

theorem memGood_performStores {src : Fin 4} {dom : BitVec 12} {grp : BitVec 20} {l : List GStore} (hs : s.memGood) :
    (performStores s x src dom grp l).memGood :=
  memGood_foldl hs fun _ _ hs => memGood_performStore (memGood_countRequest hs)

theorem memGood_resumeStalls (hs : s.memGood) : (resumeStalls s).memGood := by
  refine memGood_foldl hs fun _ _ hs => ?_
  split
  · exact memGood_performStore hs
  · exact memGood_completeWord hs

theorem memGood_endRegion (hs : s.memGood) : (endRegion s x).memGood := memGood_performStores (memGood_putCtx hs)

theorem memGood_trapKill {h : BitVec 12} {pc : Pc} (hs : s.memGood) : (trapKill s x h pc).memGood := by
  unfold trapKill
  dsimp only
  split
  · split
    · exact memGood_event (memGood_killGroup (memGood_vacate (memGood_freeSlot hs)))
    · exact memGood_vacate (memGood_freeSlot hs)
  · exact memGood_event (memGood_killGroup hs)

theorem memGood_reflectTo {h : BitVec 12} {t : Trap} {a : TrapAt} {recf : Bool} (hs : s.memGood) :
    (reflectTo s x h t a recf).memGood := by
  unfold reflectTo
  dsimp only
  split
  · exact memGood_trapKill hs
  · exact memGood_modCtx (memGood_takeSlot hs)

theorem memGood_takeTrap {s0 : State} {t : Trap} {a : TrapAt} (hs : s0.memGood) : (takeTrap s0 x t a).memGood := by
  unfold takeTrap
  extract_lets u v k h enter
  have hu : u.memGood := by
    dsimp only [u]
    split
    · exact memGood_modCtx hs
    · exact memGood_endRegion hs
  have hv : v.memGood := memGood_modCtx hu
  have he {w : State} {l : List GStore} (hw : w.memGood) : (enter w l).memGood :=
    memGood_modCtx (memGood_performStores hw)
  refine memGood_ite (memGood_trapKill hv) (memGood_ite (memGood_reflectTo hv) ?_)
  split
  · next e =>
    have hw := memGood_of_translate hv e
    exact memGood_ite (memGood_trapKill hw) (memGood_reflectTo hw)
  · next e => exact he (memGood_of_translate hv e)
  · next e => exact he (memGood_of_translate hv e)

/-! ### Registers and causes of a slot -/

theorem memGood_onFrame {f : Frame → Frame} (hs : s.memGood) : (State.onFrame s f).memGood := hs

theorem memGood_onCtx {f : Ctx → Ctx} (hs : s.memGood) : (State.onCtx s f).memGood := hs

theorem memGood_setS {n : BitVec 5} {v : Word} (hs : s.memGood) : (State.setS s n v).memGood := hs

theorem memGood_raise {sl : SlotId} {t : Trap} (hs : s.memGood) : (State.raise s sl t).memGood := memGood_onFrame hs

theorem memGood_hold (hs : s.memGood) : (State.hold s).memGood := memGood_onFrame hs

theorem memGood_unissue (hs : s.memGood) : (State.unissue s).memGood := memGood_onFrame hs

theorem memGood_askFor {a : Ask} {k : State → Reply → State} (hs : s.memGood)
    (hk : ∀ s a, s.memGood → (k s a).memGood) : (State.askFor s a k).memGood := by
  unfold State.askFor
  split
  · exact hk _ _ hs
  · exact memGood_onFrame hs

theorem memGood_stick {k : Sticky} (hs : s.memGood) : (State.stick s k).memGood := memGood_onFrame hs

theorem memGood_countSticky {d : Fin 4} {k : Fin 18} (hs : s.memGood) : (State.countSticky s d k).memGood :=
  memGood_countErr (memGood_stick hs)

theorem memGood_setPAt {prb : BitVec 3} {n : BitVec 4} {v : PReg} (hs : s.memGood) :
    (State.setPAt s prb n v).memGood := memGood_ite hs (memGood_onFrame hs)

theorem memGood_setP {n : BitVec 4} {v : PReg} (hs : s.memGood) : (State.setP s n v).memGood := memGood_setPAt hs

theorem memGood_useV {sl : SlotId} {n : BitVec 5} {layout : Bool} (hs : s.memGood) :
    (State.useV s sl n layout).memGood := by
  refine memGood_ite (memGood_raise (memGood_onFrame hs)) ?_
  dsimp only
  split
  · exact memGood_raise (memGood_countSticky (memGood_onFrame hs))
  · exact memGood_ite (memGood_onFrame hs) (memGood_unissue (memGood_onFrame hs))

theorem memGood_killV {n : BitVec 5} {mark : BitVec 1} (hs : s.memGood) : (State.killV s n mark).memGood :=
  memGood_ite (memGood_onFrame hs) hs

theorem memGood_setV {n : BitVec 5} {wrote : Nat → Bool} {v : VReg} (hs : s.memGood) :
    (State.setV s n wrote v).memGood := memGood_onFrame hs

/-! ### Floating-point results -/

theorem memGood_fpDone {sl : SlotId} {lat : Nat} {dst : RegRef} {fl : Fl} {elem : Option Nat} (hs : s.memGood) :
    (State.fpDone s sl lat dst fl elem).memGood :=
  memGood_ite (memGood_raise hs) (memGood_ite hs (memGood_onFrame hs))

/-! ### Vector registers -/

theorem memGood_mirrorLine {src : Fin 4} {ts : BitVec 32} {epoch line v : Nat} {narrow : Bool} (hs : s.memGood) :
    (mirrorLine s src ts epoch line v narrow).memGood := by
  unfold mirrorLine
  dsimp only
  split
  · exact hs
  · exact memGood_modDie hs

theorem memGood_ckptLine {dom : BitVec 12} {d : Fin 4} {off : Nat} {va : BitVec 48} (hs : s.memGood) :
    (ckptLine s dom d off va).memGood := memGood_mirrorLine hs

theorem memGood_putLine {k : XferCtx} {x : Xfer} {line : Int} {hd : Option (Fin 4)} {p : Place} {w : LineWr}
    (hx : x.s.memGood) : (putLine k x line hd p w).s.memGood := by
  unfold putLine
  extract_lets pois src
  split
  · extract_lets s1 s2 s3
    have h1 : s1.memGood := memGood_ite hx (memGood_meetLatent hx)
    have h3 : s3.memGood := memGood_homeWritten (memGood_homeWrite h1)
    exact memGood_ite (memGood_ckptLine h3) h3
  · exact memGood_hostPut hx
  · exact memGood_sendWrite hx
  · exact memGood_noteLost hx

theorem memGood_getLine {k : XferCtx} {x : Xfer} {line : Int} {p : Place} (hx : x.s.memGood) :
    (getLine k x line p).s.memGood := by
  unfold getLine
  split
  · exact memGood_meetLatent hx
  · exact memGood_readLost hx
  · split
    · exact memGood_ite (memGood_readLost hx) hx
    · exact hx

theorem memGood_xferLine {k : XferCtx} {go : Int → Bool} {x : Xfer} {line : Int} (hx : x.s.memGood) :
    (xferLine k go x line).s.memGood := by
  unfold xferLine
  extract_lets ea va flags fail
  have hf {u : State} {t : Trap} (hu : u.memGood) : (fail u t).s.memGood := by
    dsimp only [fail]
    split
    · exact hx
    · exact hu
  refine memGood_ite_map Xfer.s hx (memGood_ite_map Xfer.s (hf hx) ?_)
  split
  · next e => exact memGood_of_translate hx e
  · next e => exact hf (memGood_of_translate hx e)
  · next t p u e =>
    have hu : u.memGood := memGood_of_translate hx e
    have hv {d : Fin 4} {p : Place} : (countRequest u d p).memGood := memGood_countRequest hu
    refine memGood_ite_map Xfer.s (hf hu) (memGood_ite_map Xfer.s hu ?_)
    refine memGood_ite_map Xfer.s (memGood_countReq hv) ?_
    exact memGood_ite_map Xfer.s (memGood_getLine hv) (memGood_putLine hv)

theorem memGood_xferStep {k : XferCtx} {t : Tile} {xpois lo : Nat} (hs : s.memGood) :
    (xferStep k s t xpois lo).s.memGood := by
  have lines {go : Int → Bool} {x : Xfer} {l : List Int} (hx : x.s.memGood) :
      (l.foldl (xferLine k go) x).s.memGood := by
    induction l generalizing x with
    | nil => exact hx
    | cons a l ih => exact ih (memGood_xferLine hx)
  unfold xferStep
  dsimp only
  split
  · exact lines hs
  · exact lines hs

/-! ### The tile window and the copy engine -/

theorem memGood_modEntry {n : Nat} {f : Entry → Entry} (hs : s.memGood) : (modEntry s x n f).memGood :=
  memGood_modCtx hs

theorem memGood_breakWait {n : Nat} (hs : s.memGood) : (breakWait s x n).memGood := by
  unfold breakWait
  dsimp only
  split
  · exact memGood_ite (memGood_putCtx hs) hs
  · exact hs

theorem memGood_parkEntry {n : Nat} {t : Trap} (hs : s.memGood) : (parkEntry s x n t).memGood :=
  memGood_modCore (memGood_breakWait (memGood_modEntry hs))

theorem memGood_spillLines {p : Spill} {from_ lines : Nat} (hs : s.memGood) :
    (spillLines s p from_ lines).memGood := by
  refine memGood_foldl hs fun _ _ hs => memGood_ite hs ?_
  split
  · exact memGood_devPut hs
  · exact hs

theorem memGood_queueSpill {p : Spill} (hs : s.memGood) : (queueSpill s c p).memGood :=
  memGood_ite (memGood_modCore hs) (memGood_spillLines hs)

theorem memGood_spillStep {p : Spill} (hs : s.memGood) : (spillStep s c p).memGood :=
  memGood_modCore (memGood_spillLines hs)

theorem optionGood_spillTile {t : Tile} (hs : s.memGood) : OptionGood (spillTile s c t) := by
  unfold spillTile
  dsimp only
  split
  · exact optionGood_none
  · exact optionGood_some (memGood_modTile (memGood_modCore (memGood_queueSpill (memGood_takeSlot hs))))

theorem memGood_giveBanks {t : Tile} (hs : s.memGood) : (giveBanks s c t).memGood :=
  memGood_modTile (memGood_modCore hs)

theorem memGood_giveAcc {t : Tile} {k : Fin 8} (hs : s.memGood) : (giveAcc s c t k).memGood := memGood_modTile hs

theorem memGood_giveRoom {t : Tile} (hs : s.memGood) : (giveRoom s c t).memGood := by
  unfold giveRoom
  split
  · exact memGood_giveBanks hs
  · split
    · exact memGood_giveAcc hs
    · exact hs
  · exact hs

theorem memGood_takeBanks {n : Nat} {t : Tile} {w : SlotBits} (hs : s.memGood) : (takeBanks s x n t w).memGood := by
  refine memGood_ite (memGood_giveRoom hs) ?_
  split
  · exact hs
  · split
    · next e => exact optionGood_spillTile hs _ e
    · exact memGood_parkEntry hs

theorem memGood_wakeTile {t : Tile} (hs : s.memGood) : (wakeTile s c t).memGood :=
  memGood_modTile (memGood_modCore hs)

theorem memGood_unspill {n : Nat} {t : Tile} {w : SlotBits} (hs : s.memGood) : (unspill s x n t w).memGood := by
  unfold unspill
  dsimp only
  split
  · exact memGood_ite (memGood_freeSlot (memGood_takeBanks hs)) (memGood_takeBanks hs)
  · exact hs

theorem memGood_drawEnergy {n : Nat} (hs : s.memGood) : (drawEnergy s x n).memGood := memGood_modCtx hs

theorem memGood_chargeMma {e : Entry} {a : Tile} (hs : s.memGood) : (chargeMma s x e a).1.memGood :=
  memGood_ite_map Prod.fst hs (memGood_drawEnergy hs)

theorem memGood_mmaAdvance {n fuel : Nat} (hs : s.memGood) : (mmaAdvance x n fuel s).memGood := by
  induction fuel generalizing s with
  | zero => exact hs
  | succ fuel ih =>
    unfold mmaAdvance
    split
    · exact hs
    · split
      · refine memGood_ite (ih (memGood_modEntry (memGood_modCtx ?_))) hs
        split
        · exact memGood_modRef hs
        · exact hs
      · exact hs

theorem memGood_imbalance (hs : s.memGood) : (imbalance s x).memGood := by
  refine memGood_ite ?_ hs
  dsimp only
  split
  · exact hs
  · exact memGood_parkEntry hs

theorem memGood_deliverTrap {t : Trap} {a : TrapAt} (hs : s.memGood) : (deliverTrap s x t a).memGood :=
  memGood_imbalance (memGood_takeTrap hs)

theorem memGood_mmaResume (hs : s.memGood) : (mmaResume s x).memGood :=
  memGood_imbalance (memGood_foldl hs fun _ _ hs => memGood_ite (memGood_imbalance (memGood_mmaAdvance hs)) hs)

theorem memGood_startAllocD {e : Entry} {h : Fin 8} (hs : s.memGood) : (startAllocD s x e h).memGood := by
  unfold startAllocD
  dsimp only
  split
  · exact hs
  · exact memGood_ite (memGood_parkEntry hs)
      (memGood_ite (memGood_parkEntry hs) (memGood_modEntry (memGood_modGroup hs)))

theorem memGood_startWindow {e : Entry} (hs : s.memGood) : (startWindow s x e).memGood := by
  unfold startWindow
  dsimp only
  split
  · exact memGood_startAllocD hs
  · split
    · exact memGood_modEntry hs
    · exact memGood_ite (memGood_modEntry (memGood_giveRoom hs)) (memGood_takeBanks hs)
  · split
    · exact memGood_parkEntry hs
    · exact memGood_modEntry hs
  · split
    · exact memGood_ite (memGood_modEntry (memGood_modTile (memGood_modCore hs))) (memGood_modEntry hs)
    · exact memGood_modEntry hs
  · split
    · exact memGood_ite (memGood_modEntry (memGood_wakeTile hs)) (memGood_modEntry hs)
    · exact memGood_modEntry hs
  · exact memGood_ite (memGood_parkEntry hs) (memGood_modEntry hs)

theorem memGood_startEntry {e : Entry} (hs : s.memGood) : (startEntry s x e).memGood := by
  unfold startEntry
  dsimp only
  split
  · exact memGood_startWindow hs
  · split
    · exact memGood_parkEntry hs
    · split
      · exact memGood_wakeTile hs
      · exact memGood_unspill hs
      · exact hs
      · split
        · exact memGood_modCore (memGood_modCtx (memGood_modEntry hs))
        · exact memGood_modEntry hs
        · split
          · exact memGood_ite (memGood_parkEntry hs)
              (memGood_imbalance (memGood_mmaAdvance (memGood_modEntry (memGood_chargeMma hs))))
          · exact hs

theorem memGood_duePosts (hs : s.memGood) : (duePosts s x).memGood :=
  memGood_foldl (memGood_putCtx hs) fun _ _ hs => memGood_postFlag hs

theorem memGood_dueAll (hs : s.memGood) : (dueAll s).memGood :=
  memGood_foldl hs fun _ _ hs => memGood_ite hs (memGood_duePosts hs)

theorem memGood_noteMisses (hs : s.memGood) : (noteMisses s x).memGood :=
  memGood_foldl hs fun _ _ hs => memGood_modCtx (memGood_modEntry hs)

theorem memGood_dropRef {e : Entry} {before : Ctx} {r : TRef} (hs : s.memGood) :
    (dropRef e before x s r).memGood := by
  unfold dropRef
  split
  · exact memGood_modEntry hs
  · exact memGood_freeRef hs

theorem memGood_finishEntry {e : Entry} {fl : Fl} (hs : s.memGood) : (finishEntry s x e fl).memGood := by
  refine memGood_duePosts ?_
  split
  · exact memGood_postFlag (memGood_foldl (memGood_putCtx hs) fun _ _ hs => memGood_dropRef hs)
  · exact memGood_foldl (memGood_putCtx hs) fun _ _ hs => memGood_dropRef hs

theorem memGood_finishWith {e : Entry} {fl : Fl} {f : Tile → Tile} (hs : s.memGood) :
    (finishWith s x e fl f).memGood := by
  refine memGood_ite (memGood_parkEntry hs) ?_
  split
  · exact memGood_finishEntry (memGood_modRef hs)
  · exact memGood_finishEntry hs

theorem memGood_finishCheck {e : Entry} {u : Tile} {afix : Bool} (hs : s.memGood) :
    (finishCheck s x e u afix).memGood := by
  unfold finishCheck
  split
  · exact hs
  · extract_lets k f v w y
    have hv : v.memGood := memGood_ite (memGood_countErr hs) hs
    have hw : w.memGood := memGood_ite (memGood_countErr hv) (memGood_ite (memGood_countErr hv) hv)
    refine memGood_finishWith ?_
    dsimp only [y]
    split
    · exact memGood_modRef hw
    · exact hw

theorem memGood_completeEntry {e : Entry} (hs : s.memGood) : (completeEntry s x e).memGood := by
  unfold completeEntry
  dsimp only
  split
  · exact memGood_finishWith hs
  · exact memGood_finishWith hs
  · exact memGood_finishWith hs
  · exact memGood_finishWith hs
  · exact memGood_finishWith hs
  · exact memGood_finishWith hs
  · exact memGood_finishWith hs
  · exact memGood_mmaResume (memGood_finishEntry (memGood_modCtx hs))
  · exact memGood_finishWith hs
  · exact memGood_finishWith hs
  · split
    · exact memGood_finishWith hs
    · exact hs
  · split
    · exact memGood_finishWith hs
    · exact hs
  · exact memGood_finishCheck hs
  · exact memGood_finishCheck hs
  · exact memGood_finishEntry hs

theorem memGood_finishMma {e : Entry} (hs : s.memGood) : (finishMma s x e).memGood := by
  refine memGood_mmaResume (memGood_finishEntry (memGood_ite hs ?_))
  split
  · exact memGood_modRef hs
  · exact hs

theorem memGood_dequeue {n : Nat} (hs : s.memGood) : (dequeue s x n).memGood := memGood_modEntry (memGood_modCore hs)

theorem memGood_budgetPark {e : Entry} (hs : s.memGood) : (budgetPark s x e).memGood :=
  memGood_throttleEvent (memGood_modCtx (memGood_modEntry (memGood_dequeue hs)))

theorem memGood_chargeStep {bytes : Nat} (hs : s.memGood) : (chargeStep s x bytes).memGood :=
  memGood_ite (memGood_modCtx hs) (memGood_modDie (memGood_modCtx hs))

theorem memGood_stepDone {e : Entry} {total : Nat} (hs : s.memGood) : (stepDone s x e total).memGood :=
  memGood_ite (memGood_dequeue (memGood_modEntry (memGood_chargeStep hs))) (memGood_modEntry (memGood_chargeStep hs))

theorem memGood_askPieces {e : Entry} {l : List Place} (hs : s.memGood) : (askPieces s x e l).memGood :=
  memGood_foldl hs fun _ _ hs => memGood_modEntry (memGood_sendAsk hs)

theorem memGood_copyEngineStep (hs : s.memGood) : (copyEngineStep s c).memGood := by
  unfold copyEngineStep
  split
  · exact memGood_spillStep hs
  · split
    · exact hs
    · extract_lets dom total load
      refine memGood_ite (memGood_budgetPark hs) (memGood_ite ?_ (memGood_stepDone hs))
      split
      · extract_lets t0 q u v
        have hq : q.s.memGood := memGood_xferStep hs
        have hv : v.memGood := memGood_modEntry (memGood_ite (memGood_modRef hq) hq)
        refine memGood_ite hs (memGood_ite (memGood_askPieces hs) ?_)
        split
        · exact memGood_parkEntry (memGood_chargeStep hv)
        · exact memGood_stepDone hv
      · exact memGood_parkEntry hs

/-! ### Tiles that leave and come back -/

theorem memGood_freeAfter {r : TRef} (hs : s.memGood) : (freeAfter s x r).memGood := by
  unfold freeAfter
  dsimp only
  split
  · exact memGood_modEntry hs
  · exact memGood_freeRef hs

theorem memGood_chargeEntry {e : Entry} (hs : s.memGood) : (chargeEntry s x e).1.memGood := by
  refine memGood_ite_map Prod.fst hs ?_
  split
  · split
    · exact memGood_chargeMma hs
    · exact hs
  · exact hs

theorem memGood_releaseHeld (hs : s.memGood) : (releaseHeld s x).memGood := memGood_modCtx hs

theorem memGood_enterWindow {e : Entry} (hs : s.memGood) : (enterWindow s x e).memGood := by
  have hc : (chargeEntry s x e).1.memGood := memGood_chargeEntry hs
  unfold enterWindow
  split
  next u f e =>
  rw [e] at hc
  extract_lets v c cyc
  have hv : v.memGood := memGood_ite (memGood_modCtx hc) hc
  split
  · exact memGood_modCtx (memGood_releaseHeld hv)
  · extract_lets gone w
    have hw : w.memGood := memGood_releaseHeld (memGood_modCtx hv)
    exact memGood_ite (memGood_foldl (memGood_modCtx hw) fun _ _ hs => memGood_freeAfter hs)
      (memGood_modCtx (memGood_foldl_fst hw fun _ _ hs => memGood_chargeEntry hs))

/-! ### Saving and restoring contexts -/

theorem memGood_noteWatchdog (hs : s.memGood) : (noteWatchdog s x).memGood := memGood_ite (memGood_modCtx hs) hs

theorem memGood_deliverDue (hs : s.memGood) : (deliverDue s x).memGood := by
  unfold deliverDue
  dsimp only
  split
  · exact hs
  · exact memGood_deliverTrap (memGood_modCtx hs)

theorem memGood_watchdogFirst (hs : s.memGood) : (watchdogFirst s x).memGood :=
  memGood_ite (memGood_deliverDue (memGood_noteWatchdog hs)) (memGood_noteWatchdog hs)

theorem memGood_startSave {grade : BitVec 2} {held : Bool} (hs : s.memGood) : (startSave s x grade held).memGood := by
  unfold startSave
  dsimp only
  split
  · exact memGood_putCtx (memGood_endRegion hs)
  · refine memGood_ite ?_ (memGood_endRegion hs)
    dsimp only [State.memGood]
    exact memGood_putCtx (memGood_endRegion hs)

theorem memGood_tagTiles {g : BitVec 20} {ix : BitVec 6} {slot : Option (Fin 4)} (hs : s.memGood) :
    (tagTiles s c g ix slot).memGood := memGood_modCore hs

theorem memGood_writeSpill {h : BitVec 12} {slot : Nat} {l : List Word} (hs : s.memGood) :
    (writeSpill s h slot l).memGood := by
  refine memGood_foldl hs fun _ _ hs => ?_
  split
  · exact memGood_devPut hs
  · exact hs

theorem memGood_completeSave (hs : s.memGood) : (completeSave s x).memGood := by
  unfold completeSave
  dsimp only
  split
  · exact hs
  · split
    · dsimp only [State.memGood]
      exact memGood_putCtx (memGood_tagTiles
        (memGood_dropWatch (memGood_setMember (memGood_modDie (memGood_writeSpill (memGood_modCore hs))))))
    · split
      · exact memGood_vacate (memGood_setMember (memGood_putDie (memGood_tagTiles (memGood_modCore hs))))
      · exact memGood_vacate (memGood_putDie (memGood_modCore hs))

theorem memGood_recordEvent {dom : BitVec 12} {pc : Pc} {g : BitVec 20} (hs : s.memGood) :
    (recordEvent s dom pc g).memGood := memGood_event hs

theorem memGood_unhouse {a : CoreId} {t : Tile} (hs : s.memGood) : (unhouse s a t).memGood :=
  memGood_modTile (memGood_modCore hs)

theorem memGood_moveTiles {a b : CoreId} {g : BitVec 20} {ix : BitVec 6} (hs : s.memGood) :
    (moveTiles s a b g ix).memGood := by
  refine memGood_ite hs (memGood_modCore (memGood_modCore (memGood_foldl hs fun _ _ hs => ?_)))
  exact memGood_ite (memGood_getD (optionGood_spillTile hs) hs) (memGood_ite (memGood_unhouse hs) hs)

theorem memGood_installCtx {c : Ctx} (hs : s.memGood) : (installCtx s x c).memGood :=
  memGood_modCtx (memGood_takeWatch (memGood_tagTiles (memGood_putCtx hs)))

theorem memGood_reloadOwned {t : Tile} {k n : Nat} (hs : s.memGood) : (reloadOwned c t k n s).memGood := by
  induction n generalizing s with
  | zero => exact hs
  | succ n ih =>
    unfold reloadOwned
    refine memGood_ite (memGood_freeSlot (memGood_giveRoom hs)) ?_
    split
    · exact hs
    · split
      · next e => exact ih (optionGood_spillTile hs _ e)
      · exact hs

theorem memGood_reloadTiles {g : BitVec 20} {ix : BitVec 6} (hs : s.memGood) : (reloadTiles s c g ix).memGood := by
  refine memGood_foldl hs fun _ _ hs => ?_
  split
  · exact memGood_ite (memGood_reloadOwned hs) hs
  · exact hs

theorem memGood_dropHandles {old new : Vector (Option Nat) 24} (hs : s.memGood) :
    (dropHandles s x old new).memGood := by
  refine memGood_foldl hs fun _ _ hs => ?_
  split
  · exact memGood_freeTile hs
  · exact hs

theorem memGood_restoreStrand {v : Saved} (hs : s.memGood) : (restoreStrand s x v).memGood := by
  unfold restoreStrand
  extract_lets u off w base k y z
  have hu : u.memGood := memGood_modDie hs
  have hy : y.memGood := memGood_dropHandles (memGood_installCtx (memGood_moveTiles hu))
  have hz : z.memGood := memGood_ite (memGood_reloadTiles hy) hy
  refine memGood_ite (memGood_recordEvent (memGood_killGroup hu)) ?_
  split
  · exact memGood_setMember hz
  · exact hz

theorem memGood_reflSaved {base : Ctx} {words : List Word} (hs : s.memGood) : (reflSaved s x base words).memGood :=
  memGood_setMember (memGood_modDie (memGood_vacate hs))

theorem memGood_meetSpill {h : BitVec 12} {slot from_ n : Nat} (hs : s.memGood) :
    (meetSpill s h slot from_ n).memGood := by
  refine memGood_foldl hs fun _ _ hs => ?_
  split
  · exact memGood_devMet hs
  · exact hs

theorem memGood_reflReturn {h : BitVec 12} {slot : Nat} (hs : s.memGood) : (reflReturn s x h slot).memGood := by
  have hu {n : Nat} {f : Die → Die} : (modDie (freeSlot (meetSpill s h slot 16 n) h slot) x.core.die f).memGood :=
    memGood_modDie (memGood_freeSlot (memGood_meetSpill hs))
  unfold reflReturn
  extract_lets d
  split
  · exact memGood_endStrand hs
  · exact memGood_ite (memGood_recordEvent (memGood_killGroup (memGood_vacate hu))) (memGood_ite (memGood_reflSaved hu)
      (memGood_setMember (memGood_reloadTiles (memGood_dropHandles (memGood_installCtx hu)))))

theorem memGood_reflHalt {h : BitVec 12} {slot : Nat} (hs : s.memGood) : (reflHalt s x h slot).memGood := by
  unfold reflHalt
  dsimp only
  split
  · exact memGood_killGroup (memGood_endStrand (memGood_freeSlot hs))
  · exact memGood_endStrand (memGood_freeSlot hs)

/-! ### Submission of launches -/

theorem memGood_addGroups {n : Nat} {d : Fin 4} {gs : List Nat} (hs : s.memGood) : (addGroups s n d gs).memGood :=
  memGood_ite (memGood_putDie hs) (memGood_putDie hs)

theorem memGood_offerGroup {l : Launch} {g : Nat} (hs : s.memGood) : (offerGroup l s g).memGood := by
  unfold offerGroup
  split
  · exact memGood_ite (memGood_addGroups (memGood_modLaunch hs)) hs
  · exact hs

theorem memGood_formShares {l : Launch} (hs : s.memGood) : (formShares s l).memGood :=
  memGood_ite hs (memGood_foldl (memGood_modLaunch hs) fun _ _ hs => memGood_addGroups hs)

theorem memGood_offerRange {l : Launch} {g : Nat} (hs : s.memGood) : (offerRange l s g).memGood := by
  unfold offerRange
  split
  · exact hs
  · split
    · exact memGood_ite hs (memGood_addGroups (memGood_modLaunch hs))
    · exact hs

theorem memGood_offerLaunch {n : Nat} (hs : s.memGood) : (offerLaunch s n).memGood := by
  unfold offerLaunch
  split
  · exact hs
  · exact memGood_ite (memGood_ite (memGood_formShares hs) (memGood_foldl hs fun _ _ hs => memGood_offerRange hs))
      (memGood_foldl hs fun _ _ hs => memGood_offerGroup hs)

theorem memGood_offerAll (hs : s.memGood) : (offerAll s).memGood :=
  memGood_foldl hs fun _ _ hs => memGood_offerLaunch hs

theorem memGood_rejectRecord {l : Launch} {code : Nat} (hs : s.memGood) : (rejectRecord s l code).memGood :=
  memGood_foldl (memGood_event hs) fun _ _ hs => memGood_postTarget hs

theorem memGood_submit {dom : BitVec 12} {r : Vector Word 16} {addr : BitVec 64} {ts : Option (BitVec 32)}
    {role : Option (Fin 4)} (hs : s.memGood) : (submit s dom r addr ts role).1.memGood :=
  memGood_ite_map Prod.fst (memGood_offerLaunch hs) (memGood_ite_map Prod.fst hs (memGood_rejectRecord hs))

theorem memGood_grantEnergy (hs : s.memGood) : (grantEnergy s x).memGood := memGood_modCtx hs

theorem memGood_occupy {c : Ctx} (hs : s.memGood) : (occupy s x c).memGood := memGood_putCtx hs

theorem memGood_admitGroup {l : Launch} {d : Fin 4} {g : Nat} {plan : List CtxId} (hs : s.memGood) :
    (admitGroup s l d g plan).memGood :=
  memGood_foldl
    (memGood_foldl (memGood_modDie hs) fun _ _ hs => memGood_occupy hs) fun _ _ hs => memGood_grantEnergy hs

theorem memGood_takeGroup {d : Fin 4} {n g : Nat} (hs : s.memGood) : (takeGroup s d n g).memGood := memGood_modDie hs

theorem memGood_rejectGroup {l : Launch} {d : Fin 4} {g : Nat} (hs : s.memGood) : (rejectGroup s l d g).memGood :=
  memGood_postCompletion (memGood_event (memGood_takeGroup hs))

theorem memGood_gangAdmit {d : Fin 4} (hs : s.memGood) : (gangAdmit s d).memGood := by
  unfold gangAdmit
  split
  · exact hs
  · exact memGood_offerAll (memGood_rejectGroup hs)
  · exact memGood_offerAll (memGood_admitGroup (memGood_takeGroup hs))

theorem memGood_writeRecord (hs : s.memGood) : (writeRecord s x).memGood :=
  memGood_vacate (memGood_setMember (memGood_putDie (memGood_homeWritten (memGood_homeWrite hs))))

theorem memGood_discardRecord {e : ContEntry} (hs : s.memGood) : (discardRecord s e).memGood :=
  memGood_event (memGood_killGroup hs)

theorem memGood_takeUp (hs : s.memGood) : (takeUp s x).memGood := by
  unfold takeUp
  split
  · exact hs
  · extract_lets u v r
    have hv : v.memGood := memGood_meetLatent (memGood_modDie hs)
    refine memGood_ite (memGood_discardRecord hv) ?_
    split
    · exact hv
    · exact memGood_grantEnergy (memGood_setMember (memGood_putCtx hv))

/-! ### Closing a bundle -/

theorem memGood_openBundle {w : BitVec 320} {l : List Instr} (hs : s.memGood) : (openBundle w l s).memGood := hs

theorem memGood_reloadTile {t : Tile} {k : Nat} (hs : s.memGood) : (reloadTile s c t k).memGood := by
  refine memGood_ite (memGood_freeSlot (memGood_giveRoom hs)) ?_
  split
  · exact hs
  · exact memGood_getD (optionGood_spillTile hs) hs

theorem memGood_touchTile {r : TRef} (hs : s.memGood) : (touchTile s x r).memGood := by
  unfold touchTile
  dsimp only
  split
  · exact memGood_modCtx hs
  · split
    · exact memGood_modCtx hs
    · split
      · exact memGood_wakeTile (memGood_modCtx hs)
      · exact memGood_reloadTile (memGood_modCtx hs)
      · exact memGood_modCtx hs

theorem memGood_replaySticky {a : Abort} {l : List Sticky} (hs : s.memGood) : (replaySticky s c a l).memGood := by
  refine memGood_foldl hs fun _ _ hs => ?_
  split
  · exact memGood_touchTile hs
  · exact memGood_throttleEvent hs
  · split
    · exact hs
    · next e _ => exact memGood_of_pageWalk hs e
  · exact memGood_countErr hs
  · exact memGood_countRequest hs
  · exact memGood_readLost hs

theorem memGood_bundleTrap {t : Trap} (hs : s.memGood) : (bundleTrap s t).memGood :=
  memGood_deliverTrap (memGood_onCtx hs)

theorem memGood_drainStores (hs : s.memGood) : (drainStores s).memGood := memGood_performStores hs

theorem memGood_takeRequest {h : Header} (hs : s.memGood) : (takeRequest h s).memGood :=
  memGood_ite hs (memGood_ite hs (memGood_opRequest hs))

theorem memGood_breakRegion {f : Frame} (hs : s.memGood) : (breakRegion f s).memGood :=
  memGood_ite (memGood_onCtx (memGood_drainStores hs)) hs

theorem memGood_commitRegion {f : Frame} (hs : s.memGood) : (commitRegion f s).memGood :=
  memGood_ite (memGood_onCtx (memGood_drainStores (memGood_onCtx hs))) (memGood_onCtx hs)

theorem memGood_commitEntry {f : Frame} {h : Header} (hs : s.memGood) : (commitEntry f h s).memGood := by
  unfold commitEntry
  extract_lets before after u v w
  have hu : u.memGood := memGood_ite (memGood_onCtx hs) hs
  have hv : v.memGood := by
    dsimp only [v]
    split
    · exact memGood_enterWindow hu
    · exact hu
  have hw : w.memGood := memGood_ite (memGood_onCtx hv) hv
  exact memGood_ite (memGood_imbalance hw) hw

theorem memGood_commitAfter {f : Frame} (hs : s.memGood) : (commitAfter f s).memGood := by
  unfold commitAfter
  dsimp only
  split
  · exact memGood_onCtx hs
  · exact memGood_onCtx hs
  · exact memGood_deliverTrap (memGood_onCtx hs)
  · split
    · exact memGood_reflReturn hs
    · exact memGood_imbalance (memGood_onCtx hs)
  · exact memGood_onCtx hs
  · exact memGood_onCtx hs
  · exact memGood_onCtx hs

theorem memGood_commitBundle {f : Frame} {h : Header} (hs : s.memGood) : (commitBundle f h s).memGood :=
  memGood_ite hs (memGood_commitAfter
    (memGood_commitEntry (memGood_commitRegion (memGood_onCtx (memGood_breakRegion (memGood_takeRequest hs))))))

theorem memGood_waitBundle {f : Frame} (hs : s.memGood) : (waitBundle f s).memGood := by
  unfold waitBundle
  extract_lets u v cyc
  have hu : u.memGood := memGood_ite (memGood_onCtx hs) hs
  have hv : v.memGood := memGood_ite (memGood_releaseHeld hu) hu
  exact memGood_ite (memGood_startSave hs) (memGood_imbalance (memGood_onCtx hv))

theorem memGood_askBundle {a : Ask} {w : BitVec 320} (hs : s.memGood) : (askBundle a w s).memGood := by
  refine memGood_onCtx (memGood_sendAsk ?_)
  split
  · exact hs
  · exact memGood_countRequest hs

/-- A bundle that is given up goes back to `s`, the state before it, with what remains of it (`replaySticky`); one that commits keeps its
working state `w`. -/
theorem memGood_closeBundle {w : State} (hs : s.memGood) (hw : w.memGood) : (closeBundle s w).memGood := by
  unfold closeBundle
  split
  · exact hw
  · have base {b : Bool} : (if b then endRegion s s.cur else s).memGood := memGood_ite (memGood_endRegion hs) hs
    refine memGood_ite (memGood_bundleTrap (memGood_replaySticky base)) ?_
    split
    · exact memGood_bundleTrap (memGood_replaySticky base)
    · split
      · exact memGood_deliverTrap (memGood_replaySticky base)
      · refine memGood_ite (memGood_waitBundle (memGood_replaySticky base)) ?_
        split
        · exact memGood_askBundle (memGood_replaySticky base)
        · exact memGood_commitBundle hw

/-- An instruction of a slot keeps the form if its effect does: within a bundle in progress the effect is all, alone it is the bundle. -/
theorem outcomeGood_asSlot {i : Instr} {eff : State → State} (heff : ∀ s, s.memGood → (eff s).memGood)
    (hs : s.memGood) : OutcomeGood (asSlot i eff s) := by
  unfold asSlot
  split
  · exact outcomeGood_next (heff _ hs)
  · exact outcomeGood_next (memGood_closeBundle hs (heff _ (memGood_openBundle hs)))

/-! ### Branches and loops -/

theorem memGood_follow {a : After} (hs : s.memGood) : (State.follow s a).memGood := memGood_onFrame hs

theorem memGood_jumpTo {t : Int} (hs : s.memGood) : (State.jumpTo s t).memGood :=
  memGood_ite (memGood_raise hs) (memGood_follow hs)

theorem memGood_linkNext (hs : s.memGood) : (State.linkNext s).memGood := memGood_setS hs

theorem memGood_escalateDrain (hs : s.memGood) : (State.escalateDrain s).memGood :=
  memGood_ite (memGood_onFrame hs) hs

theorem memGood_loopBack {lc : Word} {esc : BitVec 4} {p8 : PReg} (hs : s.memGood) :
    (State.loopBack s lc esc p8).memGood := memGood_follow (memGood_setPAt (memGood_onCtx hs))

theorem memGood_drained (hs : s.memGood) : (State.drained s).memGood :=
  memGood_ite (memGood_onFrame (memGood_onCtx hs)) hs

theorem memGood_loopEffect (hs : s.memGood) : (loopEffect s).memGood :=
  memGood_ite (memGood_loopBack hs) (memGood_ite (memGood_loopBack hs) (memGood_drained hs))

/-! ### Control and status registers -/

theorem memGood_csrPut {n : BitVec 12} {kill x : Word} (hs : s.memGood) : (csrPut n kill x s).memGood := by
  unfold csrPut
  iterate 12 refine memGood_ite (memGood_onCtx hs) ?_
  exact memGood_ite (memGood_onFrame hs) (memGood_ite (memGood_onFrame hs) hs)

theorem memGood_raiseReserved {sl : SlotId} (hs : s.memGood) : (State.raiseReserved s sl).memGood := memGood_raise hs

theorem memGood_raisePermission {sl : SlotId} (hs : s.memGood) : (State.raisePermission s sl).memGood :=
  memGood_raise hs

theorem memGood_csrWrite {o : CR} {how : CsrHow} (hs : s.memGood) : (csrWrite o how s).memGood := by
  unfold csrWrite
  extract_lets old v x u w
  have hu : u.memGood := memGood_setS (memGood_csrPut hs)
  have hw : w.memGood := memGood_ite (memGood_escalateDrain hu) hu
  refine memGood_ite (memGood_raiseReserved hs) (memGood_ite (memGood_raisePermission hs) ?_)
  exact memGood_ite hw (memGood_onFrame hw)

/-! ### Order of accesses -/

theorem memGood_waitFor {l : List Nat} (hs : s.memGood) : (State.waitFor s l).memGood := memGood_onFrame hs

theorem memGood_afterStores {l : List Nat} {k : State → State} (hs : s.memGood)
    (hk : ∀ s, s.memGood → (k s).memGood) : (State.afterStores s l k).memGood :=
  memGood_ite (hk _ hs) (memGood_waitFor (memGood_onFrame hs))

theorem memGood_afterHome {p : Place} {k : State → State} (hs : s.memGood) (hk : ∀ s, s.memGood → (k s).memGood) :
    (State.afterHome s p k).memGood := by
  unfold State.afterHome
  split
  · exact memGood_ite (memGood_hold hs) (hk _ hs)
  · exact memGood_waitFor hs

theorem memGood_scoped {sl : SlotId} {scope : Nat} (hs : s.memGood) : (State.scoped s sl scope).memGood :=
  memGood_ite hs (memGood_ite (memGood_raise hs) (memGood_onCtx hs))

theorem memGood_of_xlat {va : BitVec 48} {acc : Access} {r : Tr} (hs : s.memGood) (e : xlat s va acc = r) :
    r.st.memGood := e ▸ memGood_translate (memGood_ite hs (memGood_stick hs))

theorem memGood_access {ea : Int} {size : Nat} {acc : Access} {trap : BitVec 48 → AccFault → Trap}
    {k : State → BitVec 48 → Tlb → Place → State} (hs : s.memGood) (hk : ∀ s a b d, s.memGood → (k s a b d).memGood) :
    (State.access s ea size acc trap k).memGood := by
  unfold State.access
  dsimp only
  split
  · exact memGood_ite (memGood_raise hs) (memGood_raise hs)
  · split
    · exact hk _ _ _ _ hs
    · split
      · next e => exact memGood_hold (memGood_of_xlat hs e)
      · next e => exact memGood_raise (memGood_of_xlat hs e)
      · next e => exact hk _ _ _ _ (memGood_of_xlat hs e)

theorem memGood_consume {sl : SlotId} {va : BitVec 48} {rec : Word} (hs : s.memGood) :
    (State.consume s sl va rec).memGood :=
  memGood_ite (memGood_raise (memGood_countSticky hs)) (memGood_countSticky hs)

theorem memGood_request {p : Place} (hs : s.memGood) : (State.request s p).memGood :=
  memGood_countRequest (memGood_stick hs)

theorem memGood_lose {va : BitVec 48} (hs : s.memGood) : (State.lose s va).memGood :=
  memGood_readLost (memGood_stick hs)

theorem memGood_readAt {key size : Nat} {va : BitVec 48} {p : Place} {k : State → Nat → Bool → State}
    (hs : s.memGood) (hk : ∀ s a b, s.memGood → (k s a b).memGood) : (State.readAt s key size va p k).memGood := by
  unfold State.readAt
  dsimp only
  split
  · exact hk _ _ _ (memGood_readMem (memGood_request hs))
  · exact hk _ _ _ (memGood_lose (memGood_request hs))
  · exact memGood_askFor hs fun _ _ hs => hk _ _ _ hs

theorem memGood_readable {sl : SlotId} {l : List Nat} {k : State → State} (hs : s.memGood)
    (hk : ∀ s, s.memGood → (k s).memGood) : (s.readable sl l k).memGood := by
  induction l generalizing s with
  | nil => exact hk _ hs
  | cons a l ih =>
    unfold State.readable
    refine memGood_ite (hk _ hs) (memGood_ite (memGood_raise hs) ?_)
    split
    · next e => exact memGood_hold (memGood_of_xlat hs e)
    · next e => exact memGood_raise (memGood_of_xlat hs e)
    · next e => exact ih (memGood_of_xlat hs e)

theorem memGood_readRec {sl : SlotId} {loads : Bool} {key size : Nat} {va : BitVec 48} {k : State → Nat → State}
    (hs : s.memGood) (hk : ∀ s v, s.memGood → (k s v).memGood) :
    (State.readRec s sl loads key size va k).memGood := by
  unfold State.readRec
  split
  · exact hk _ _ (memGood_ite (memGood_consume hs) hs)
  · split
    · next e => exact memGood_hold (memGood_of_xlat hs e)
    · next e => exact memGood_raise (memGood_of_xlat hs e)
    · next e =>
      have hu := memGood_of_xlat hs e
      refine memGood_ite (hk _ _ (memGood_countReq (memGood_request hu))) (memGood_readAt hu fun _ _ _ hs => ?_)
      exact hk _ _ (memGood_ite (memGood_consume hs) hs)

/-! ### Loads and stores -/

theorem memGood_loadFrom {reg : BitVec 5} {size : Nat} {sgn : Bool} {va : BitVec 48} {p : Place} (hs : s.memGood) :
    (loadFrom reg size sgn s va p).memGood :=
  memGood_readAt hs fun _ _ _ hs => memGood_ite (memGood_consume (memGood_setS hs)) (memGood_setS hs)

theorem memGood_loadDiscarded {reg : BitVec 5} {size : Nat} {sgn : Bool} {p : Place} (hs : s.memGood) :
    (loadDiscarded reg size sgn s p).memGood := memGood_countReq (memGood_setS (memGood_request hs))

theorem memGood_loadEffect {o : LS} {size : Nat} {sgn : Bool} (hs : s.memGood) : (loadEffect o size sgn s).memGood := by
  refine memGood_access (memGood_onFrame hs) fun s va t p hs => ?_
  extract_lets u go
  have hu : u.memGood := memGood_ite (memGood_scoped hs) hs
  have hgo (w : State) (hw : w.memGood) : (go w).memGood := memGood_ite (memGood_loadDiscarded hw) (memGood_loadFrom hw)
  exact memGood_ite (hgo u hu) (memGood_ite (memGood_afterStores hu hgo) (memGood_afterHome hu hgo))

theorem memGood_storeEffect {o : LS} {size : Nat} (hs : s.memGood) : (storeEffect o size s).memGood := by
  refine memGood_access (memGood_onFrame hs) fun _ _ _ _ hs => ?_
  dsimp only
  split
  · exact memGood_onFrame (memGood_ite (memGood_scoped hs) hs)
  · exact memGood_waitFor (memGood_ite (memGood_scoped hs) hs)

/-! ### Atomics -/

theorem memGood_atomicAt {op : AtOp} {code : BitVec 8} {o : AT} {size : Nat} {va : BitVec 48} {t : Tlb} {p : Place}
    (hs : s.memGood) : (atomicAt op code o size s va t p).memGood := by
  have hd : (drainStores (s.request p)).memGood := memGood_drainStores (memGood_request hs)
  unfold atomicAt
  extract_lets b c give
  have hg {u : State} {v : Nat} {pois : Bool} (hu : u.memGood) : (give u v pois).memGood :=
    memGood_ite (memGood_consume (memGood_setS hu)) (memGood_setS hu)
  split
  · exact hg (memGood_ite (memGood_homeWrite (memGood_readMem hd)) (memGood_readMem hd))
  · exact hg (memGood_lose hd)
  · exact memGood_askFor (memGood_onFrame hs) fun _ _ hs => hg hs

theorem memGood_atomicEffect {op : AtOp} {code : BitVec 8} {o : AT} {size : Nat} (hs : s.memGood) :
    (atomicEffect op code o size s).memGood :=
  memGood_access (memGood_onFrame hs) fun _ _ _ _ hs => memGood_ite (memGood_raise hs) (memGood_ite
    (memGood_atomicAt (memGood_scoped hs)) (memGood_afterStores (memGood_scoped hs) fun _ hs => memGood_atomicAt hs))

/-! ### Domains: kill, revocation and levels -/

theorem memGood_recomposeOne {d : BitVec 12} (hs : s.memGood) : (recomposeOne s d).memGood := by
  unfold recomposeOne
  dsimp only
  split
  · exact hs
  · refine memGood_ite hs ?_
    split
    · exact memGood_modDom hs
    · exact memGood_event (memGood_modDom hs)

theorem memGood_recompose {n : Nat} {d : BitVec 12} (hs : s.memGood) : (recompose s n d).memGood := by
  induction n generalizing s d with
  | zero => exact hs
  | succ n ih => exact memGood_foldl (memGood_recomposeOne hs) fun _ _ hs => ih hs

theorem memGood_invalidate {doms : List (BitVec 12)} {lo hi : Nat} (hs : s.memGood) :
    (invalidate s doms lo hi).memGood := hs

theorem memGood_invalidateAll {doms : List (BitVec 12)} (hs : s.memGood) : (invalidateAll s doms).memGood :=
  memGood_invalidate hs

theorem memGood_markStores {doms : List (BitVec 12)} (hs : s.memGood) : (markStores s doms).memGood := hs

theorem memGood_cancelTransfers {doms : List (BitVec 12)} (hs : s.memGood) : (cancelTransfers s doms).memGood := by
  refine memGood_foldl hs fun _ _ hs => memGood_foldl hs fun _ _ hs => ?_
  split
  · exact memGood_parkEntry hs
  · exact hs

theorem memGood_discardSpilled (hs : s.memGood) : (discardSpilled s).memGood :=
  memGood_foldl hs fun _ _ hs => memGood_freeSlot hs

theorem memGood_afterRevoke {d : BitVec 12} (hs : s.memGood) : (afterRevoke s d).memGood :=
  memGood_discardSpilled (memGood_cancelTransfers (memGood_invalidateAll (memGood_recompose hs)))

theorem memGood_recomputeCeil (hs : s.memGood) : (recomputeCeil s).memGood := hs

theorem memGood_raiseHeld {dom : BitVec 12} (hs : s.memGood) : (raiseHeld s dom).memGood := by
  unfold raiseHeld
  dsimp only
  split
  · exact hs
  · dsimp only [State.memGood]
    exact memGood_modDom hs

theorem memGood_unholdDomain {dom : BitVec 12} {d : Fin 4} (hs : s.memGood) : (unholdDomain s dom d).memGood := by
  unfold unholdDomain
  extract_lets y b back cont s1 s2 s3
  have h2 : s2.memGood := memGood_foldl (memGood_putDie hs) fun _ _ hs => memGood_setMember hs
  have h3 : s3.memGood := memGood_foldl h2 fun _ _ hs => memGood_setMember hs
  exact memGood_ite h3 (memGood_raiseHeld h3)

theorem memGood_addCores {dom : BitVec 12} {l : List MapEntry} (hs : s.memGood) : (addCores s dom l).memGood :=
  memGood_foldl (memGood_modDom hs) fun _ _ hs => memGood_unholdDomain hs

theorem memGood_finishStarted {n : Nat} (hs : s.memGood) : (finishStarted x n s).memGood := by
  induction n generalizing s with
  | zero => exact hs
  | succ n ih =>
    unfold finishStarted
    split
    · exact hs
    · refine memGood_ite (ih (memGood_completeEntry hs)) ?_
      dsimp only
      split
      · exact ih (memGood_ite (memGood_finishMma (memGood_mmaAdvance hs)) (memGood_mmaAdvance hs))
      · exact ih (memGood_mmaAdvance hs)

theorem memGood_forceSave {held : Bool} (hs : s.memGood) : (forceSave s x held).memGood := by
  have hu {g : BitVec 2} {n : Nat} : (finishStarted x n (startSave (watchdogFirst s x) x g held)).memGood :=
    memGood_finishStarted (memGood_startSave (memGood_watchdogFirst hs))
  exact memGood_ite (memGood_completeSave hu) hu

theorem memGood_spillStrands {doms : List (BitVec 12)} (hs : s.memGood) : (spillStrands s c doms).memGood := by
  refine memGood_foldl hs fun _ _ hs => ?_
  dsimp only
  split
  · exact hs
  · split
    · next e => exact optionGood_spillTile hs _ e
    · exact memGood_event (memGood_killGroup hs)

theorem memGood_holdDomain {dom : BitVec 12} {d : Fin 4} (hs : s.memGood) : (holdDomain s dom d).memGood :=
  memGood_ite hs (memGood_foldl
    (memGood_ite (memGood_putDie hs) (memGood_modDom (memGood_putDie hs))) fun _ _ hs => memGood_setMember hs)

theorem memGood_removeCore {doms : List (BitVec 12)} (hs : s.memGood) : (removeCore s c doms).memGood := by
  refine memGood_foldl ?_ fun _ _ hs => memGood_holdDomain hs
  exact memGood_spillStrands (memGood_foldl
    (memGood_foldl hs fun _ _ hs => memGood_modDom hs) fun _ _ hs => memGood_ite (memGood_forceSave hs) hs)

theorem memGood_killLaunchOn {on : Fin 4 → Bool} {n : Nat} (hs : s.memGood) : (killLaunchOn on s n).memGood := by
  unfold killLaunchOn
  dsimp only
  split
  · exact hs
  · dsimp only [State.memGood]
    split
    · exact memGood_foldl hs fun _ _ hs => memGood_killGroup hs
    · exact memGood_foldl (memGood_foldl hs fun _ _ hs => memGood_killGroup hs) fun _ _ hs => memGood_postTarget hs

theorem memGood_killLaunch {n : Nat} (hs : s.memGood) : (killLaunch s n).memGood := memGood_killLaunchOn hs

theorem memGood_dropRules {doms : List (BitVec 12)} (hs : s.memGood) : (dropRules s doms).memGood := hs

theorem memGood_killDomain {acting d : BitVec 12} (hs : s.memGood) : (killDomain s acting d).memGood := by
  refine memGood_recomputeCeil ?_
  dsimp only [State.memGood]
  refine memGood_discardSpilled (memGood_invalidateAll (memGood_foldl ?_ fun _ _ hs => memGood_modDom hs))
  exact memGood_foldl (memGood_foldl hs fun _ _ hs => memGood_modDom hs) fun _ _ hs => memGood_killLaunch hs

theorem memGood_freeDomains {doms : List (BitVec 12)} (hs : s.memGood) : (freeDomains s doms).memGood := by
  unfold freeDomains
  dsimp only [State.memGood]
  exact memGood_dropRules hs

theorem memGood_drainFor {doms : List (BitVec 12)} {free : Bool} (hs : s.memGood) :
    (State.drainFor s doms free).memGood :=
  memGood_ite (memGood_onCtx (memGood_markStores hs))
    (memGood_ite (memGood_freeDomains (memGood_markStores hs)) (memGood_markStores hs))

/-! ### Level changes -/

theorem memGood_modSet {n : BitVec 32} {f : TaskSet → TaskSet} (hs : s.memGood) : (modSet s n f).memGood := hs

theorem memGood_killSet {n : BitVec 32} (hs : s.memGood) : (killSet s n).memGood :=
  memGood_foldl hs fun _ _ hs => memGood_killLaunchOn hs

theorem memGood_chooseLevel {n : BitVec 32} {without : Counted} {lostOne : Bool} (hs : s.memGood) :
    (chooseLevel s n without lostOne).memGood := by
  unfold chooseLevel
  dsimp only
  split
  · exact hs
  · exact memGood_ite hs (memGood_event (memGood_modSet (memGood_killSet hs)))

theorem memGood_raiseIdle (hs : s.memGood) : (raiseIdle s).memGood :=
  memGood_foldl hs fun _ _ hs => memGood_ite (memGood_chooseLevel hs) hs

theorem memGood_levelsAfter {doms : List (BitVec 12)} (hs : s.memGood) : (levelsAfter s doms).memGood :=
  memGood_foldl hs fun _ _ hs => memGood_ite (memGood_chooseLevel hs) hs

/-! ### System instructions -/

theorem memGood_privileged {k : State → State} (hs : s.memGood) (hk : ∀ s, s.memGood → (k s).memGood) :
    (State.privileged s k).memGood := memGood_ite (hk _ (memGood_onFrame hs)) (memGood_raisePermission hs)

theorem memGood_settled {k : State → State} (hs : s.memGood) (hk : ∀ s, s.memGood → (k s).memGood) :
    (State.settled s k).memGood :=
  memGood_ite (hk _ (memGood_drainStores hs))
    (memGood_afterStores (memGood_onFrame hs) fun _ hs => hk _ (memGood_drainStores hs))

theorem memGood_sysEffect {k : State → State} (hk : ∀ s, s.memGood → (k s).memGood) (hs : s.memGood) :
    (sysEffect k s).memGood := memGood_privileged hs fun _ hs => memGood_settled hs hk

theorem memGood_answer {o : SY} {r : Except Nat (State × Word)} (hs : s.memGood) (hr : ExceptGood Prod.fst r) :
    (s.answer o r).memGood := by
  unfold State.answer
  split
  · exact memGood_setS hs
  · exact memGood_setS (hr _ rfl)

theorem memGood_readWords {n key : Nat} {a : Word} {k : State → List Word → State} (hs : s.memGood)
    (hk : ∀ s l, s.memGood → (k s l).memGood) : (State.readWords n key a s k).memGood := by
  induction n generalizing s key a k with
  | zero => exact hk _ _ hs
  | succ n ih => exact memGood_ite (memGood_raise hs) (memGood_readRec hs fun _ _ hs => ih hs fun _ _ hs => hk _ _ hs)

theorem memGood_descriptor {n : Nat} {a : Word} {k : State → List Word → State} (hs : s.memGood)
    (hk : ∀ s a, s.memGood → (k s a).memGood) : (State.descriptor s n a k).memGood :=
  memGood_ite (memGood_raise hs)
    (memGood_readable hs fun _ hs => memGood_settled hs fun _ hs => memGood_readWords hs fun _ _ hs => hk _ _ hs)

theorem exceptGood_newDomain {d : List Word} (hs : s.memGood) : ExceptGood Prod.fst (newDomain s d) := by
  refine exceptGood_ite exceptGood_error (exceptGood_ite exceptGood_error ?_)
  dsimp only
  split
  · exact exceptGood_error
  · exact exceptGood_ite exceptGood_error (exceptGood_ok (memGood_putDom hs))

theorem exceptGood_grantRange {w : Word} {d : List Word} (hs : s.memGood) :
    ExceptGood Prod.fst (grantRange s w d) := by
  unfold grantRange
  dsimp only
  split
  · exact exceptGood_error
  · exact exceptGood_ite exceptGood_error (exceptGood_ite exceptGood_error (exceptGood_ite exceptGood_error
      (exceptGood_ite exceptGood_error (exceptGood_ok (memGood_recompose (memGood_putDom hs))))))

theorem exceptGood_grantCore {w mask sc : Word} (hs : s.memGood) : ExceptGood Prod.fst (grantCore s w mask sc) := by
  unfold grantCore
  split
  · exact exceptGood_error
  · split
    · exact exceptGood_error
    · exact exceptGood_ite exceptGood_error (exceptGood_ok (memGood_levelsAfter (memGood_addCores hs)))

theorem exceptGood_grantVf {w vf : Word} (hs : s.memGood) : ExceptGood Prod.fst (grantVf s w vf) := by
  unfold grantVf
  dsimp only
  split
  · exact exceptGood_error
  · exact exceptGood_ite exceptGood_error (exceptGood_ok (memGood_recomputeCeil hs))

theorem memGood_clampBudgets {n : Nat} {d : BitVec 12} (hs : s.memGood) : (clampBudgets s n d).memGood := by
  induction n generalizing s d with
  | zero => exact hs
  | succ n ih => exact memGood_foldl_fst hs fun _ _ hs => ih (memGood_modDom hs)

theorem exceptGood_grantBud {w sb sc : Word} (hs : s.memGood) : ExceptGood Prod.fst (grantBud s w sb sc) := by
  unfold grantBud
  dsimp only
  split
  · exact exceptGood_error
  · exact exceptGood_ite exceptGood_error
      (exceptGood_ite exceptGood_error (exceptGood_ok (memGood_clampBudgets (memGood_putDom hs))))

theorem memGood_revoked {o : SY} {r : Except Nat (State × Word)} (hs : s.memGood) (hr : ExceptGood Prod.fst r) :
    (s.revoked o r).memGood := by
  unfold State.revoked
  split
  · exact memGood_setS hs
  · exact memGood_drainFor (memGood_setS (hr _ rfl))

theorem exceptGood_revokeRange {w : Word} {d : List Word} (hs : s.memGood) :
    ExceptGood Prod.fst (revokeRange s w d) := by
  unfold revokeRange
  dsimp only
  split
  · exact exceptGood_error
  · exact exceptGood_ite exceptGood_error
      (exceptGood_ite exceptGood_error (exceptGood_ok (memGood_afterRevoke (memGood_putDom hs))))

theorem exceptGood_revokeCore {w mask sc : Word} (hs : s.memGood) : ExceptGood Prod.fst (revokeCore s w mask sc) := by
  unfold revokeCore
  dsimp only
  split
  · exact exceptGood_error
  · split
    · exact exceptGood_error
    · exact exceptGood_ok
        (memGood_levelsAfter (memGood_foldl (memGood_invalidateAll hs) fun _ _ hs => memGood_removeCore hs))

theorem exceptGood_revokeVf {w vf : Word} (hs : s.memGood) : ExceptGood Prod.fst (revokeVf s w vf) := by
  unfold revokeVf
  dsimp only
  split
  · exact exceptGood_error
  · exact exceptGood_ite exceptGood_error (exceptGood_ok (memGood_afterRevoke (memGood_recomputeCeil hs)))

theorem memGood_policy {o : SY} {k : State → Dom → Except Nat State} (hs : s.memGood)
    (hk : ∀ s x, s.memGood → ExceptGood id (k s x)) : (policy o k s).memGood := by
  refine memGood_answer hs ?_
  split
  · exact exceptGood_error
  · split
    · exact exceptGood_error
    · next e => exact exceptGood_ok (hk _ _ hs _ e)

theorem exceptGood_policyTrap {sb sc : Word} {x : Dom} (hs : s.memGood) : ExceptGood id (policyTrap sb sc s x) :=
  exceptGood_ite exceptGood_error (exceptGood_ok (memGood_putDom hs))

theorem memGood_clearRallow {d : BitVec 12} (hs : s.memGood) : (clearRallow s d).memGood := by
  unfold clearRallow
  dsimp only [State.memGood]
  exact memGood_foldl hs fun _ _ hs => memGood_modDom hs

theorem exceptGood_policyFlags {sb : Word} {x : Dom} (hs : s.memGood) : ExceptGood id (policyFlags sb s x) :=
  exceptGood_ite exceptGood_error (exceptGood_ite exceptGood_error
    (exceptGood_ok (memGood_ite (memGood_putDom hs) (memGood_clearRallow (memGood_putDom hs)))))

theorem exceptGood_policyEvq {sb sc : Word} {x : Dom} (hs : s.memGood) : ExceptGood id (policyEvq sb sc s x) :=
  exceptGood_ite exceptGood_error (exceptGood_ok (memGood_putDom hs))

theorem exceptGood_policyDlog {sb sc : Word} {x : Dom} (hs : s.memGood) : ExceptGood id (policyDlog sb sc s x) :=
  exceptGood_ite exceptGood_error (exceptGood_ok (memGood_putDom hs))

theorem exceptGood_policyScope {sb sc : Word} {x : Dom} (hs : s.memGood) : ExceptGood id (policyScope sb sc s x) :=
  exceptGood_ite exceptGood_error
    (exceptGood_ite exceptGood_error (exceptGood_ite exceptGood_error (exceptGood_ok (memGood_recomputeCeil hs))))

theorem exceptGood_policyTbofs {sb : Word} {x : Dom} (hs : s.memGood) : ExceptGood id (policyTbofs sb s x) :=
  exceptGood_ite exceptGood_error (exceptGood_ok (memGood_putDom hs))

theorem exceptGood_policySpill {sb sc : Word} {x : Dom} (hs : s.memGood) : ExceptGood id (policySpill sb sc s x) :=
  exceptGood_ite exceptGood_error (exceptGood_ite exceptGood_error (exceptGood_ok (memGood_putDom hs)))

theorem memGood_tlbinv {o : SY} {doms : List (BitVec 12)} {lo hi : Nat} (hs : s.memGood) :
    (State.tlbinv s o doms lo hi).memGood := memGood_drainFor (memGood_setS (memGood_invalidate hs))

theorem memGood_postEvent {o : SY} {target : State → Option (BitVec 12)} (hs : s.memGood) :
    (postEvent o target s).memGood := by
  refine memGood_privileged hs fun _ hs => memGood_descriptor hs fun _ _ hs => ?_
  dsimp only
  split
  · exact memGood_setS hs
  · exact memGood_setS (memGood_queueEvent hs)

/-! ### Rewrite rules and page states -/

theorem memGood_flushDomain {d : BitVec 12} (hs : s.memGood) : (flushDomain s c d).memGood :=
  memGood_foldl hs fun _ _ hs => memGood_modCtx hs

theorem memGood_measure {l : List Word} (hs : s.memGood) : (measure l s).memGood := hs

theorem exceptGood_loadRules {i : Nat} {l : List Word} (hs : s.memGood) : ExceptGood Prod.fst (loadRules i s l) :=
  exceptGood_ite exceptGood_error (exceptGood_ite exceptGood_error (exceptGood_ite exceptGood_error
    (exceptGood_ok (memGood_measure (memGood_foldl hs fun _ _ hs => memGood_modCore (memGood_flushDomain hs))))))

theorem exceptGood_clearRules {i n : Nat} (hs : s.memGood) : ExceptGood Prod.fst (clearRules i n s) :=
  exceptGood_ite exceptGood_error (exceptGood_ite exceptGood_error
    (exceptGood_ok (memGood_foldl hs fun _ _ hs => memGood_modCore (memGood_flushDomain hs))))

theorem memGood_invalidatePage {d : BitVec 12} {lvl : Nat} {a : Word} (hs : s.memGood) :
    (invalidatePage s d lvl a).memGood := memGood_invalidate hs

theorem exceptGood_beginMove {a : Word} (hs : s.memGood) : ExceptGood Prod.fst (beginMove a s) := by
  unfold beginMove
  split
  · exact exceptGood_error
  · exact exceptGood_ite exceptGood_error (exceptGood_ok (memGood_invalidatePage (memGood_devWrite hs)))

theorem memGood_moveLine {dom : BitVec 12} {va : BitVec 48} {hd : Option (Fin 4)} {p q : Place} (hs : s.memGood) :
    (moveLine s dom va hd p q).memGood := by
  unfold moveLine
  extract_lets put
  have hput {u : State} {v : Nat} {pois : Bool} (hu : u.memGood) : (put u v pois).memGood := by
    dsimp only [put]
    split
    · exact memGood_homeWritten (memGood_homeWrite hu)
    · exact memGood_sendWrite hu
    · exact hu
    · exact memGood_noteLost hu
  split
  · exact hput (memGood_readMem hs)
  · exact hput (memGood_sendAsk hs)
  · exact hs
  · exact hput (memGood_readLost hs)

theorem memGood_finishMove {m : Migr} (hs : s.memGood) : (finishMove s m).memGood := by
  refine memGood_barWake (memGood_resumeStalls ?_)
  dsimp only [State.memGood]
  split
  · exact hs
  · dsimp only [State.memGood]
    refine memGood_invalidate (memGood_devPut (memGood_foldl hs fun _ _ hs => ?_))
    split
    · exact memGood_moveLine hs
    · exact hs

/-! ### Vector access to tiles -/

theorem memGood_raiseTile {sl : SlotId} {code : BitVec 8} {num : Nat} (hs : s.memGood) :
    (State.raiseTile s sl code num).memGood := memGood_raise hs

theorem memGood_flushVt (hs : s.memGood) : (State.flushVt s).memGood := memGood_imbalance (memGood_onCtx hs)

theorem memGood_onTile {h : BitVec 5} {ok : Tile → Bool} {k : State → TRef → Tile → State} (hs : s.memGood)
    (hk : ∀ s r t, s.memGood → (k s r t).memGood) : (State.onTile s h ok k).memGood := by
  unfold State.onTile
  split
  · exact memGood_raiseTile hs
  · extract_lets u
    have hu : u.memGood := memGood_onFrame (memGood_stick hs)
    refine memGood_ite (memGood_raiseTile hs) (memGood_ite (memGood_unissue hu) ?_)
    split
    · exact memGood_raiseTile hu
    · refine memGood_ite (memGood_unissue hu) (memGood_ite (memGood_unissue (memGood_waitFor hu)) ?_)
      exact memGood_ite (memGood_raiseTile hu) (hk _ _ _ (memGood_flushVt hu))

theorem memGood_readRows {t : Tile} {rows : List Nat} (hs : s.memGood) : (State.readRows s t rows).memGood := by
  unfold State.readRows
  split
  · exact hs
  · exact memGood_consume hs

theorem memGood_rowAccess {o : VT} {t : Tile} {k : State → State} (hs : s.memGood)
    (hk : ∀ s, s.memGood → (k s).memGood) : (State.rowAccess s o t k).memGood :=
  memGood_ite (memGood_raise hs) (memGood_ite (memGood_raiseTile hs) (hk _ hs))

theorem memGood_firstV {sl : SlotId} {n : BitVec 5} {k : State → State} (hs : s.memGood)
    (hk : ∀ s, s.memGood → (k s).memGood) : (State.firstV s sl n k).memGood :=
  memGood_ite (hk _ (memGood_useV hs)) (memGood_useV hs)

/-! ### Issue to the tile window -/

theorem memGood_unmapTile {r : TRef} (hs : s.memGood) : (unmapTile s r).memGood := by
  unfold unmapTile
  dsimp only
  split
  · exact hs
  · split
    · exact memGood_onCtx hs
    · refine memGood_modTile ?_
      split
      · exact memGood_freeSlot (memGood_onCtx hs)
      · exact memGood_onCtx hs

theorem memGood_issueT {q : Issue} (hs : s.memGood) : (State.issueT s q).memGood :=
  memGood_onFrame (memGood_foldl hs fun _ _ hs => memGood_unmapTile hs)

theorem memGood_checkT {checks : List (Bool × BitVec 8 × Nat)} {base : Word} {k : State → State} (hs : s.memGood)
    (hk : ∀ s, s.memGood → (k s).memGood) : (State.checkT s checks base k).memGood := by
  refine memGood_ite (memGood_onFrame (memGood_unissue hs)) ?_
  split
  · exact memGood_raise hs
  · exact hk _ hs

theorem memGood_tIssue {sval : Word} (hs : s.memGood) : (State.tIssue s sval).memGood :=
  memGood_checkT hs fun _ hs => memGood_issueT hs

theorem optionGood_tableRoom (hs : s.memGood) : OptionGood (tableRoom s) := by
  refine optionGood_ite (optionGood_some hs) ?_
  split
  · exact optionGood_none
  · exact optionGood_spillTile hs

theorem memGood_allocOwn {h : BitVec 5} {t : Tile} (hs : s.memGood) : (allocOwn s h t).memGood := by
  refine memGood_issueT (memGood_onCtx (memGood_modCore ?_))
  split
  · exact memGood_freeTile hs
  · exact hs

theorem memGood_tallocEffect {o : TA} (hs : s.memGood) : (tallocEffect o s).memGood := by
  refine memGood_checkT hs fun _ hs => memGood_ite ?_ (memGood_issueT hs)
  split
  · exact memGood_raise hs
  · next e => exact memGood_allocOwn (optionGood_tableRoom hs _ e)

theorem memGood_transferEffect {op : Nat} {o : TM} {freesTile : Bool} (hs : s.memGood) :
    (transferEffect op o freesTile s).memGood :=
  memGood_checkT (memGood_ite (memGood_raiseReserved (memGood_useV hs))
    (memGood_useV hs)) fun _ hs => memGood_issueT (memGood_ite hs (memGood_killV hs))

/-! ### Synchronisation -/

theorem memGood_syncPoint (hs : s.memGood) : (State.syncPoint s).memGood := memGood_onFrame hs

theorem memGood_progress (hs : s.memGood) : (State.progress s).memGood := memGood_onCtx hs

theorem memGood_afterPosts {k : State → State} (hs : s.memGood) (hk : ∀ s, s.memGood → (k s).memGood) :
    (State.afterPosts s c k).memGood := by
  unfold State.afterPosts
  split
  · exact hk _ hs
  · exact memGood_waitFor hs

theorem memGood_postOn {o : YF} {lost live : State → FlagRef → State} (hs : s.memGood)
    (hlost : ∀ s a, s.memGood → (lost s a).memGood) (hlive : ∀ s a, s.memGood → (live s a).memGood) :
    (State.postOn s o lost live).memGood := by
  unfold State.postOn
  split
  · exact memGood_raisePermission hs
  · exact memGood_ite (hlive _ _ hs) (hlost _ _ (memGood_noteLost hs))

theorem memGood_onFlag {o : YF} {lost live : State → FlagRef → State} (hs : s.memGood)
    (hlost : ∀ s a, s.memGood → (lost s a).memGood) (hlive : ∀ s a, s.memGood → (live s a).memGood) :
    (State.onFlag s o lost live).memGood := by
  unfold State.onFlag
  split
  · exact memGood_postOn hs hlost hlive
  · exact memGood_afterPosts hs fun _ hs => memGood_postOn hs hlost hlive

theorem memGood_afterWindow {l : List Nat} {k : State → State} (hs : s.memGood)
    (hk : ∀ s, s.memGood → (k s).memGood) : (State.afterWindow s l k).memGood :=
  memGood_ite (hk _ hs) (memGood_waitFor (memGood_onFrame hs))

theorem memGood_arrive {k : Fin 4} (hs : s.memGood) : (arrive s k).memGood := by
  unfold arrive
  dsimp only
  split
  · exact hs
  · exact memGood_barWake (memGood_onCtx (memGood_modGroup hs))

theorem memGood_noteEventStrand {fl : FlagRef} (hs : s.memGood) : (noteEventStrand s fl).memGood := memGood_modDom hs

theorem memGood_flagWait {o : YF} {fl : FlagRef} {dead : Bool} (hs : s.memGood) : (flagWait s o fl dead).memGood :=
  memGood_onCtx (memGood_ite (memGood_putCore hs) hs)

theorem memGood_fwaitEffect {o : YF} (hs : s.memGood) : (fwaitEffect o s).memGood := by
  unfold fwaitEffect
  extract_lets u go
  have hu : u.memGood := memGood_onFrame (memGood_syncPoint hs)
  have hgo (w : State) (hw : w.memGood) : (go w).memGood :=
    memGood_onFlag hw (fun _ _ hs => memGood_flagWait hs) fun _ _ hs =>
      memGood_ite (memGood_progress (memGood_noteEventStrand hs)) (memGood_flagWait (memGood_noteEventStrand hs))
  exact memGood_ite (hgo u hu) (memGood_afterWindow hu hgo)

theorem memGood_waitUntil {tgt : BitVec 64} (hs : s.memGood) : (State.waitUntil s tgt).memGood :=
  memGood_ite (memGood_progress (memGood_syncPoint hs)) (memGood_onCtx (memGood_syncPoint hs))

/-! ### Scheduling -/

theorem outcomeGood_whenOk {ok : Bool} {eff : State → State} (heff : ∀ s, s.memGood → (eff s).memGood)
    (hs : s.memGood) : OutcomeGood (whenOk ok eff s) := outcomeGood_next (memGood_ite (heff _ hs) hs)

theorem memGood_endCycle {counted : List CtxId} (hs : s.memGood) : (endCycle s c counted).memGood :=
  memGood_foldl hs fun _ _ hs => memGood_modCtx hs

theorem memGood_pushEw {ew : Nat} (hs : s.memGood) : (pushEw s c ew).memGood := memGood_modCore hs

theorem memGood_grantIssue {y : Option CtxId} {a : Account} (hs : s.memGood) : (grantIssue s x y a).memGood := by
  unfold grantIssue
  dsimp only [State.memGood]
  exact memGood_focusOn hs

theorem memGood_chooseIssue {s0 : State} (hs : s0.memGood) : (chooseIssue s0 c).memGood := by
  unfold chooseIssue
  extract_lets u ready k l forced
  have hu : u.memGood := memGood_opUpdate hs
  split
  · exact hu
  · refine memGood_ite (memGood_grantIssue hu) (memGood_ite (memGood_grantIssue hu) ?_)
    exact memGood_throttleEvent (memGood_pushEw (memGood_endCycle hu))

theorem memGood_finishStrand (hs : s.memGood) : (finishStrand s x).memGood := by
  unfold finishStrand
  dsimp only
  split
  · exact memGood_reflHalt hs
  · exact memGood_memberDone (memGood_endStrand hs)

/-! ### Events of the tile window -/

theorem memGood_onEntry {n : Nat} {f : Entry → State} (hs : s.memGood) (hf : ∀ a, (f a).memGood) :
    (onEntry s x n f).memGood := by
  unfold onEntry
  split
  · exact hf _
  · exact hs

theorem memGood_startOrResume {e : Entry} (hs : s.memGood) : (startOrResume s x e).memGood :=
  memGood_ite (memGood_startEntry hs) (memGood_mmaResume hs)

theorem memGood_unparkBudget (hs : s.memGood) : (unparkBudget s x).memGood := by
  unfold unparkBudget
  dsimp only
  split
  · exact hs
  · exact memGood_modCore (memGood_modCtx (memGood_modEntry hs))

/-! ### Events of waits and of memory -/

theorem memGood_endWait (hs : s.memGood) : (endWait s x).memGood := by
  refine memGood_barWake (memGood_modCtx ?_)
  split
  · exact memGood_dropWatch hs
  · exact hs

theorem memGood_deliverOwed (hs : s.memGood) : (deliverOwed s x).memGood := by
  unfold deliverOwed
  split
  · exact memGood_deliverTrap (memGood_modCtx hs)
  · exact hs

theorem memGood_fenceComplete (hs : s.memGood) : (fenceComplete s x).memGood := by
  unfold fenceComplete
  dsimp only
  split
  · exact memGood_ite (memGood_freeDomains (memGood_endWait hs)) (memGood_endWait hs)
  · exact memGood_ite (memGood_deliverOwed hs) (memGood_arrive (memGood_focusOn (memGood_endWait hs)))
  · exact memGood_ite (memGood_deliverOwed hs) (memGood_endWait hs)

theorem memGood_respond {f : FlowId} {tag : Word} {arg : BitVec 64} {ty : BitVec 8} {par : Word} {data : Nat}
    (hs : s.memGood) : (respond s f tag arg ty par data).memGood := memGood_sendMsg hs

theorem memGood_noteAnswer {va : BitVec 48} {op : AskOp} {a : Answer} (hs : s.memGood) :
    (noteAnswer s x va op a).memGood := by
  unfold noteAnswer
  split
  · exact hs
  · exact memGood_noteLost hs
  · exact memGood_readLost hs

theorem memGood_answerDone {op : AskOp} (hs : s.memGood) : (answerDone s op).memGood := by
  unfold answerDone
  split
  · exact memGood_modLaunch hs
  · exact hs

theorem memGood_takeAnswer {s0 : State} {p : Pend} {a : Answer} (hs : s0.memGood) : (takeAnswer s0 p a).memGood := by
  unfold takeAnswer
  dsimp only
  split
  · exact memGood_modCtx (memGood_noteAnswer (memGood_answerDone hs))
  · exact memGood_modCtx (memGood_noteAnswer (memGood_answerDone hs))
  · exact memGood_modEntry (memGood_answerDone hs)
  · exact memGood_dueAll (memGood_resumeStalls (memGood_noteAnswer (memGood_answerDone hs)))
  · split <;> exact memGood_respond (memGood_answerDone hs)
  · exact memGood_answerDone hs

/-! ### Containment -/

theorem memGood_putEntry {copy i : Fin 4} {e : RegionEntry} (hs : s.memGood) : (putEntry s copy i e).memGood :=
  memGood_modDie hs

theorem memGood_announce {k i : Fin 4} (hs : s.memGood) : (announce s k i).memGood :=
  memGood_foldl hs fun _ _ hs => memGood_sendMsg hs

theorem memGood_passKey {h : Fin 4} (hs : s.memGood) : (passKey s h).memGood :=
  memGood_ite hs
    (memGood_announce (memGood_announce (memGood_putEntry (memGood_putEntry (memGood_putEntry (memGood_modDie hs))))))

theorem memGood_mirrorEntry {i : Fin 4} {e : RegionEntry} (hs : s.memGood) : (mirrorEntry s i e).memGood := by
  unfold mirrorEntry
  split
  · exact memGood_putEntry hs
  · exact hs

theorem memGood_changeState {i : Fin 4} {st : RegSt} {reason : BitVec 16} (hs : s.memGood) :
    (changeState s i st reason).memGood := by
  refine memGood_announce (memGood_putEntry (memGood_putEntry (memGood_mirrorEntry (memGood_ite ?_ hs))))
  split
  · exact memGood_passKey hs
  · exact hs

theorem memGood_setSlot {ps k : Fin 4} {v : PSlot} (hs : s.memGood) : (setSlot s ps k v).memGood := hs

theorem memGood_blankRange {d : Fin 4} {off n : Nat} (hs : s.memGood) : (blankRange s d off n).memGood := by
  dsimp only [State.memGood, blankRange]
  exact memWf_memKeep _ hs

theorem memGood_remapSlot {lost ps k : Fin 4} (hs : s.memGood) : (remapSlot s lost ps k).memGood := by
  refine memGood_ite hs ?_
  dsimp only
  split
  · exact hs
  · split
    · exact hs
    · exact memGood_blankRange (memGood_setSlot (memGood_modDie hs))

theorem memGood_remapSets {lost : Fin 4} (hs : s.memGood) : (remapSets s lost).memGood :=
  memGood_foldl hs fun _ _ hs => memGood_foldl hs fun _ _ hs => memGood_remapSlot hs

theorem memGood_pinMirror {b : State} {i : Fin 4} (hs : s.memGood) : (pinMirror b s i).memGood := memGood_modDie hs

theorem memGood_rePair {b : State} (hs : s.memGood) : (rePair b s).memGood := by
  refine memGood_ite (memGood_foldl hs fun _ _ hs => memGood_modDie hs) ?_
  dsimp only [State.memGood]
  exact memGood_foldl hs fun _ _ hs => memGood_modDie hs

theorem memGood_loseCopies {i : Fin 4} (hs : s.memGood) : (loseCopies s i).memGood := hs

theorem memWf_foldl_cellWrite {α : Type} {l : List α} {k : α → Nat} {v : α → Byte} {m : List Host.Cell}
    (h : memWf m = true) : memWf (l.foldl (fun m a => cellWrite m (k a) (v a)) m) = true := by
  induction l generalizing m with
  | nil => exact h
  | cons a l ih => exact ih (memWf_cellWrite _ _ h)

/-- The copy drops the cells of the range and writes those of the other range one by one. -/
theorem memGood_copyRange {d e : Fin 4} {a b n : Nat} (hs : s.memGood) : (copyRange s d a e b n).memGood :=
  memWf_foldl_cellWrite (memWf_memKeep _ (memGood_foldl hs fun _ _ hs => memGood_meetLatent hs))

theorem memGood_copyMirrored {i d e : Fin 4} (hs : s.memGood) : (copyMirrored s i d e).memGood :=
  memGood_ite hs (memGood_foldl hs fun _ _ hs => memGood_copyRange hs)

theorem memGood_ckptCopy {t : TaskSet} {line : Nat} {narrow : Bool} (hs : s.memGood) :
    (ckptCopy t s line narrow).memGood := by
  unfold ckptCopy
  dsimp only
  split
  · exact memGood_mirrorLine (memGood_readMem hs)
  · exact hs

theorem memGood_checkpoint {t : TaskSet} {next : Nat} (hs : s.memGood) : (checkpoint s t next).memGood := by
  refine memGood_foldl ?_ fun _ _ hs => memGood_foldl hs fun _ _ hs => memGood_sendMsg hs
  dsimp only [State.memGood]
  refine memGood_foldl ?_ fun _ _ hs => ?_
  · exact memGood_foldl hs fun _ _ hs => memGood_ckptCopy hs
  · exact memGood_foldl hs fun _ _ hs => memGood_ckptCopy hs

/-- The answer of one read goes on to the next, so the equation is generalised with the state, the address and the answer. -/
theorem memGood_of_recWords {dom : BitVec 12} {n a : Nat} {r : RecRd} (hs : s.memGood)
    (e : recWords c dom n a s = r) : r.st.memGood := by
  induction n generalizing s a r with
  | zero => exact e ▸ hs
  | succ n ih =>
    subst e
    unfold recWords
    refine memGood_ite_map RecRd.st hs ?_
    split
    · next e => exact memGood_of_translate hs e
    · next e => exact memGood_of_translate hs e
    · next u e =>
      have hu : u.memGood := memGood_of_translate hs e
      dsimp only
      split <;> next e => exact (ih (memGood_ite hu (memGood_devMet hu)) e :)

theorem memGood_of_readRecord {dom : BitVec 12} {a : BitVec 64} {r : RecRd} (hs : s.memGood)
    (e : readRecord s dom a = r) : r.st.memGood := memGood_of_recWords hs e

theorem memGood_submitLaunch {n : BitVec 32} {a : BitVec 64} (hs : s.memGood) : (submitLaunch n s a).memGood := by
  unfold submitLaunch
  split
  · exact hs
  · extract_lets roles u
    have hu : u.memGood := memGood_modSet hs
    split
    · next e => exact memGood_of_readRecord hu e
    · next e => exact memGood_modSet (memGood_of_readRecord hu e)
    · next e =>
      extract_lets id q
      have hq : q.1.memGood := memGood_submit (memGood_of_readRecord hu e)
      exact memGood_ite (memGood_modSet hq) (memGood_ite (memGood_modSet hq) hq)

theorem memGood_startFrame {n : BitVec 32} (hs : s.memGood) : (startFrame s n).memGood := by
  unfold startFrame
  split
  · exact hs
  · exact memGood_foldl hs fun _ _ hs => memGood_submitLaunch hs

theorem memGood_writeLine {dom : BitVec 12} {line v : Nat} (hs : s.memGood) : (writeLine dom s line v).memGood := by
  unfold writeLine
  split
  · exact memGood_homeWritten (memGood_homeWrite hs)
  · exact hs

theorem memGood_zeroLine {dom : BitVec 12} {c : CkptReg} {line : Nat} (hs : s.memGood) :
    (zeroLine dom c s line).memGood := by
  refine memGood_ite (memGood_writeLine hs) ?_
  split
  · exact memGood_homeWrite hs
  · exact hs

theorem memGood_restoreSet {t : TaskSet} (hs : s.memGood) : (restoreSet s t).memGood := by
  refine memGood_ite ?_ ?_
  · exact memGood_foldl hs fun _ _ hs => memGood_foldl hs fun _ _ hs => memGood_zeroLine hs
  · refine memGood_foldl hs fun _ _ hs => ?_
    split
    · exact memGood_writeLine hs
    · exact hs

theorem memGood_raiseTbofs {t : TaskSet} (hs : s.memGood) : (raiseTbofs s t).memGood := by
  unfold raiseTbofs
  dsimp only
  split
  · exact hs
  · dsimp only [State.memGood]
    exact memGood_modDom hs

theorem memGood_relaunchSet {n : BitVec 32} (hs : s.memGood) : (relaunchSet s n).memGood := by
  unfold relaunchSet
  dsimp only
  split
  · exact hs
  · exact memGood_startFrame (memGood_modSet (memGood_raiseTbofs (memGood_restoreSet hs)))

theorem memGood_dropMessages {i : Fin 4} (hs : s.memGood) : (dropMessages s i).memGood := hs

theorem memGood_losePkg {q : Fin 4} (hs : s.memGood) : (losePkg s q).memGood :=
  memGood_foldl hs fun _ _ hs => memGood_takeAnswer hs

theorem memGood_reroute {old new : FlowId} (hs : s.memGood) : (reroute s old new).memGood :=
  memGood_foldl (memGood_putFlow hs) fun _ _ hs => memGood_sendMsg hs

theorem memGood_unroute {old : FlowId} (hs : s.memGood) : (unroute s old).memGood := memGood_modFlow hs

theorem memGood_relink (hs : s.memGood) : (relink s).memGood := by
  refine memGood_foldl hs fun _ _ hs => ?_
  split
  · exact memGood_ite hs (memGood_reroute hs)
  · exact memGood_losePkg (memGood_unroute hs)
  · exact hs

theorem memGood_rehost (hs : s.memGood) : (rehost s).memGood := by
  refine memGood_foldl hs fun _ _ hs => ?_
  split
  · exact hs
  · exact hs
  · exact memGood_takeAnswer hs

theorem memGood_unsteal {i : Fin 4} (hs : s.memGood) : (unsteal s i).memGood :=
  memGood_foldl hs fun _ _ hs => memGood_takeAnswer hs

theorem memGood_resetCores {d : Fin 4} (hs : s.memGood) : (resetCores s d).memGood := by
  unfold resetCores
  dsimp only [State.memGood]
  exact memGood_foldl hs fun _ _ hs => memGood_putCtx hs

theorem memGood_abandonTests {i : Fin 4} (hs : s.memGood) : (abandonTests i s).memGood :=
  memGood_foldl hs fun _ _ hs => memGood_modDie hs

theorem memGood_passShares {i : Fin 4} (hs : s.memGood) : (passShares i s).memGood := hs

theorem memGood_unqueue {i : Fin 4} (hs : s.memGood) : (unqueue s i).memGood :=
  memGood_modDie (memGood_foldl hs fun _ _ hs => memGood_modLaunch hs)

theorem memGood_killGroups {i : Fin 4} (hs : s.memGood) : (killGroups s i).memGood :=
  memGood_foldl hs fun _ _ hs => memGood_ite (memGood_killGroup hs) (memGood_event (memGood_killGroup hs))

theorem memGood_dropCores {i : Fin 4} (hs : s.memGood) : (dropCores s i).memGood := hs

theorem memGood_holdStrands {i : Fin 4} (hs : s.memGood) : (holdStrands s i).memGood :=
  memGood_foldl
    (memGood_putDie (memGood_foldl hs fun _ _ hs => memGood_forceSave hs)) fun _ _ hs => memGood_setMember hs

theorem memGood_clearDie {i : Fin 4} (hs : s.memGood) : (clearDie s i).memGood :=
  memGood_modDie (memGood_foldl hs fun _ _ hs => memGood_vacate hs)

theorem memGood_chooseLevels {b : State} {i : Fin 4} (hs : s.memGood) : (chooseLevels b i s).memGood :=
  memGood_foldl hs fun _ _ hs => memGood_chooseLevel hs

theorem memGood_deadbolt {s0 : State} {i : Fin 4} {st : RegSt} {reason : BitVec 16} (hs : s0.memGood) :
    (deadbolt s0 i st reason).memGood := by
  unfold deadbolt
  extract_lets s1 s2 s3 s4 s5 s6 s7 s8 s9 s10 s11 s12
  have h1 : s1.memGood := memGood_dropMessages hs
  have h2 : s2.memGood := memGood_ite h1 h1
  have h3 : s3.memGood := memGood_ite (memGood_modDie h2) h2
  have h6 : s6.memGood :=
    memGood_relink (memGood_rePair (memGood_remapSets (memGood_loseCopies (memGood_pinMirror (memGood_changeState h3)))))
  have h7 : s7.memGood := memGood_ite h6 (memGood_rehost h6)
  have h9 : s9.memGood := memGood_passShares (memGood_unqueue (memGood_unsteal (memGood_abandonTests h7)))
  have h10 : s10.memGood :=
    memGood_ite (memGood_loseDeps (memGood_clearDie (memGood_killGroups h9))) (memGood_holdStrands h9)
  have h11 : s11.memGood := memGood_dropCores h10
  have h12 : s12.memGood := h11
  exact memGood_offerAll (memGood_chooseLevels (memGood_dueAll (memGood_resumeStalls (memGood_discardSpilled h12))))

theorem memGood_endAbandoned {d : Fin 4} (hs : s.memGood) : (endAbandoned s d).memGood :=
  memGood_ite (memGood_changeState (memGood_modDie (memGood_resetCores hs))) hs

theorem memGood_split (hs : s.memGood) : (split s).memGood := by
  refine memGood_foldl (memGood_ite hs ?_) fun _ _ hs => memGood_deadbolt (memGood_endAbandoned hs)
  split
  · exact memGood_passKey hs
  · exact hs

theorem memGood_declareLost {i : Fin 4} {reason : BitVec 16} (hs : s.memGood) : (declareLost s i reason).memGood := by
  unfold declareLost
  split
  · exact hs
  · exact memGood_loseDeps (memGood_clearDie (memGood_killGroups (memGood_changeState (memGood_modDie hs))))
  · exact memGood_split (memGood_deadbolt hs)

theorem memGood_failLink {f : FlowId} (hs : s.memGood) : (failLink s f).memGood := by
  refine memGood_ite ?_ (memGood_relink (memGood_modDie (memGood_countErr hs)))
  split
  · refine memGood_split ?_
    dsimp only [State.memGood]
    exact memGood_countErr hs
  · exact memGood_countErr hs

theorem memGood_retryNow {f : FlowId} (hs : s.memGood) : (retryNow s f).memGood :=
  memGood_resendAll (memGood_countErr (memGood_modFlow hs))

theorem memGood_retryFlow {f : FlowId} (hs : s.memGood) : (retryFlow s f).memGood :=
  memGood_ite (memGood_resendAll (memGood_modFlow (memGood_failLink (memGood_countErr hs)))) (memGood_retryNow hs)

theorem memGood_pointBack {i : Fin 4} (hs : s.memGood) : (pointBack s i).memGood :=
  memGood_foldl hs fun _ _ hs => memGood_foldl hs fun _ _ hs => memGood_ite hs
    (memGood_setSlot (memGood_modDie (memGood_copyRange hs)))

theorem memGood_returnCores {i : Fin 4} (hs : s.memGood) : (returnCores s i).memGood :=
  memGood_foldl hs fun _ _ hs => memGood_addCores (memGood_modDom hs)

theorem memGood_restartFlows {d : Fin 4} (hs : s.memGood) : (restartFlows s d).memGood := hs

theorem memGood_joinRing {d : Fin 4} (hs : s.memGood) : (joinRing s d).memGood := by
  have up {u : State} (j : Fin 4) (hu : u.memGood) : (match linkOf d j with
      | some k => { u with links := u.links.set k.val true }
      | none => u).memGood := by split <;> exact hu
  unfold joinRing
  refine memGood_ite hs ?_
  split
  · cases (liveBeside s d).head? with
    | none => exact hs
    | some j => exact up j hs
  · exact memGood_foldl hs fun _ j hs => up j hs

theorem memGood_rejoin {s0 : State} {i : Fin 4} {reason : BitVec 16} (hs : s0.memGood) :
    (rejoin s0 i reason).memGood := by
  unfold rejoin
  refine memGood_split (memGood_offerAll (memGood_raiseIdle (memGood_returnCores (memGood_rePair (memGood_relink ?_)))))
  refine memGood_modDie ?_
  dsimp only [State.memGood]
  refine memGood_changeState (memGood_modDie (memGood_pointBack ?_))
  split
  · exact memGood_modDie (memGood_copyMirrored (memGood_restartFlows hs))
  · exact memGood_modDie (memGood_restartFlows hs)

/-! ### What a message does at its receiver -/

theorem memGood_takeHeader {f : FlowId} {h : BitVec 128} (hs : s.memGood) : (takeHeader s f h).memGood :=
  memGood_ite (memGood_retryFlow (memGood_ite (memGood_takeAck hs) hs)) (memGood_ite (memGood_takeAck hs) hs)

theorem memGood_sendNak {f : FlowId} (hs : s.memGood) : (sendNak s f).memGood := memGood_ite hs (memGood_sendAck hs)

theorem memGood_receive {act : State → FlowId → Wire → State} {f : FlowId}
    (hact : ∀ s f w, s.memGood → (act s f w).memGood) (hs : s.memGood) : (receive act s f).memGood := by
  unfold receive
  split
  · exact hs
  · extract_lets u x seq v w
    have hu : u.memGood := memGood_modFlow hs
    have hw : w.memGood := memGood_takeHeader (memGood_modFlow hu)
    refine memGood_ite (memGood_ite (s := { u with outbox := _ }) hu hu) (memGood_ite hu ?_)
    refine memGood_ite (memGood_sendNak (memGood_countErr hu)) (memGood_ite (memGood_takeHeader hu) ?_)
    refine memGood_ite (memGood_ite (hact _ _ _ hw) (memGood_countErr hw)) ?_
    exact memGood_ite (memGood_sendAck hu) (memGood_sendNak hu)

theorem outcomeGood_messageEvent {ty : BitVec 8} {act : State → FlowId → Wire → State} {f : FlowId}
    (hact : ∀ s f w, s.memGood → (act s f w).memGood) (hs : s.memGood) : OutcomeGood (messageEvent ty act f s) :=
  outcomeGood_whenOk (fun _ hs => memGood_receive hact hs) hs

theorem memGood_reply {f : FlowId} {w : Wire} {ty : BitVec 8} {par : Word} {data : Nat} (hs : s.memGood) :
    (reply s f w ty par data).memGood := memGood_respond hs

theorem memGood_relay {f : FlowId} {w : Wire} {p : Place} {n : Nat} {op : AskOp} (hs : s.memGood) :
    (relay s f w p n op).memGood := memGood_sendAsk hs

theorem memGood_served {p : Place} (hs : s.memGood) : (served s p).memGood := by
  unfold served
  split
  · exact memGood_countReq hs
  · exact hs

theorem memGood_actRead {f : FlowId} {w : Wire} (hs : s.memGood) : (actRead s f w).memGood := by
  unfold actRead
  dsimp only
  split
  · exact memGood_reply (memGood_readMem (memGood_served hs))
  · exact memGood_relay (memGood_served hs)
  · exact memGood_reply (memGood_served hs)
  · exact memGood_reply (memGood_served hs)

theorem memGood_putGranule {f : FlowId} {w : Wire} {mask : Nat} (hs : s.memGood) :
    (putGranule s f w mask).memGood := by
  unfold putGranule
  dsimp only
  split
  · exact memGood_reply (memGood_homeWritten (memGood_homeWrite (memGood_served hs)))
  · exact memGood_reply (memGood_hostPut (memGood_served hs))
  · exact memGood_reply (memGood_served hs)
  · exact memGood_reply (memGood_served hs)

theorem memGood_actWrite {f : FlowId} {w : Wire} (hs : s.memGood) : (actWrite s f w).memGood :=
  memGood_ite hs (memGood_ite (memGood_putGranule hs) (memGood_putGranule hs))

theorem memGood_actAtomic {f : FlowId} {w : Wire} (hs : s.memGood) : (actAtomic s f w).memGood := by
  unfold actAtomic
  dsimp only
  split
  · exact memGood_reply
      (memGood_ite (memGood_homeWrite (memGood_readMem (memGood_served hs))) (memGood_readMem (memGood_served hs)))
  · exact memGood_relay (memGood_served hs)
  · exact memGood_reply (memGood_served hs)
  · exact memGood_reply (memGood_served hs)

theorem memGood_actAnswer {a : Wire → Answer} {f : FlowId} {w : Wire} (hs : s.memGood) :
    (actAnswer a s f w).memGood := by
  unfold actAnswer
  split
  · exact memGood_takeAnswer hs
  · exact hs

theorem memGood_freeRetained {a b : Fin 4} {upTo : Option (BitVec 16)} (hs : s.memGood) :
    (freeRetained s a b upTo).memGood := by
  unfold freeRetained
  split
  · exact hs
  · exact memGood_drainBacklog (memGood_modFlow hs)

theorem memGood_actConfig {f : FlowId} {w : Wire} (hs : s.memGood) : (actConfig s f w).memGood :=
  memGood_ite (memGood_ite (memGood_declareLost hs) hs) (memGood_ite (memGood_putEntry hs) hs)

theorem memGood_actTimebase {f : FlowId} {w : Wire} (hs : s.memGood) : (actTimebase s f w).memGood := by
  refine memGood_ite hs (memGood_ite (memGood_modDie hs) (memGood_ite ?_ ?_))
  · dsimp only [State.memGood]
    exact memGood_modDie hs
  · dsimp only [State.memGood]
    exact memGood_modDie hs

/-! ### Power -/

theorem memGood_modVBank {b : Fin 8} {f : VBank → VBank} (hs : s.memGood) : (modVBank s x b f).memGood :=
  memGood_modCtx hs

theorem memGood_vBankOff {b : Fin 8} (hs : s.memGood) : (vBankOff s x b).memGood :=
  memGood_modCtx (memGood_modVBank hs)

theorem memGood_opUpdateDie {d : Fin 4} (hs : s.memGood) : (opUpdateDie s d).memGood :=
  memGood_foldl hs fun _ _ hs => memGood_opUpdate hs

theorem memGood_ceilingStep {d : Fin 4} {up : Bool} (hs : s.memGood) : (ceilingStep s d up).memGood :=
  memGood_modDie hs

theorem memGood_throttleStep {d : Fin 4} {t : Throttle} (hs : s.memGood) : (throttleStep s d t).memGood :=
  memGood_foldl (memGood_ceilingStep hs) fun _ _ hs => memGood_throttleEvent hs

theorem memGood_clearSlack {d : Fin 4} (hs : s.memGood) : (clearSlack s d).memGood :=
  memGood_foldl hs fun _ _ hs => memGood_ite hs (memGood_modCore hs)

theorem memGood_slackReported {d : Fin 4} {others : List SlackRep} (hs : s.memGood) :
    (slackReported s d others).memGood := by
  unfold slackReported
  exact memGood_ite (memGood_modDie (memGood_clearSlack hs))
    (memGood_opUpdateDie (memGood_modDie (memGood_modDie (memGood_clearSlack hs))))

/-! ### Preemption -/

theorem memGood_startDrain (hs : s.memGood) : (startDrain s x).memGood := memGood_modCtx (memGood_endRegion hs)

theorem memGood_preemptNow (hs : s.memGood) : (preemptNow s x).memGood :=
  memGood_modCtx (memGood_startSave (memGood_watchdogFirst hs))

/-! ### Task sets, self-tests and reunion -/

theorem memGood_dieFault {d : Fin 4} {reason : BitVec 16} {reports : Bool} (hs : s.memGood) :
    (dieFault s d reason reports).memGood := by
  refine memGood_ite (memGood_modDie hs) ?_
  split
  · exact memGood_declareLost (memGood_modDie hs)
  · exact memGood_modDie (memGood_sendMsg hs)

theorem memGood_endTest {d : Fin 4} {pass : Bool} (hs : s.memGood) : (endTest s d pass).memGood :=
  memGood_ite (memGood_offerAll (memGood_raiseIdle
    (memGood_changeState (memGood_resetCores (memGood_modDie hs))))) (memGood_declareLost (memGood_modDie hs))

theorem memGood_flipDuring {tid k : Nat} {i j : Fin 32} {bit : Fin 128} (hs : s.memGood) :
    (flipDuring s c tid k i j bit).memGood := by
  unfold flipDuring
  dsimp only
  split
  · exact hs
  · split
    · exact memGood_modTile hs
    · exact hs

theorem memGood_stripeError {b : Fin 34} {byte symbols : Nat} (hs : s.memGood) :
    (stripeError s c b byte symbols).memGood :=
  memGood_ite hs
    (memGood_ite (memGood_modCore (memGood_countErr hs)) (memGood_modCore (memGood_countErrs (memGood_countErr hs))))

theorem memGood_accError {tid : Nat} (hs : s.memGood) : (accError s c tid).memGood := by
  unfold accError
  dsimp only
  split
  · exact memGood_countErr hs
  · exact memGood_modTile (memGood_countErrs (memGood_countErr hs))

theorem memGood_dstoreError {d : Fin 4} {g : BitVec 20} {h : Fin 8} {row : Nat} (hs : s.memGood) :
    (dstoreError s d g h row).memGood := memGood_modGroup (memGood_countErrs (memGood_countErr hs))

theorem memGood_softEffect {y : SoftErr} (hs : s.memGood) : (softEffect s y).memGood := by
  unfold softEffect
  dsimp only
  split
  · exact memGood_flipDuring hs
  · exact memGood_modTile hs
  · exact memGood_modTile hs
  · exact memGood_modTile hs
  · exact memGood_accError hs
  · exact memGood_modCtx hs
  · exact memGood_stripeError hs
  · exact memGood_ite hs hs
  · exact memGood_ite (memGood_poisonLine (memGood_countErr hs)) (memGood_countErr hs)
  · exact memGood_ite (memGood_dstoreError hs) (memGood_countErr hs)

/-! ### Start -/

theorem memGood_reset : State.reset.memGood := rfl

theorem memGood_startCold {b : BootInput} : (startCold b s).memGood := memGood_ite memGood_reset memGood_reset

theorem memGood_wipeDie {d : Fin 4} (hs : s.memGood) : (wipeDie s d).memGood := by
  dsimp only [State.memGood, wipeDie]
  exact memWf_memKeep _ hs

theorem memGood_startWarm {d : Fin 4} {b : BootInput} (hs : s.memGood) : (startWarm d b s).memGood :=
  memGood_modDie (memGood_relink (memGood_wipeDie hs))

theorem memGood_failStart (hs : s.memGood) : (failStart s).memGood :=
  memGood_ite hs (memGood_foldl hs fun _ _ hs => memGood_modDie hs)

theorem memGood_asRoot {f : State → State} (hf : ∀ s, s.memGood → (f s).memGood) (hs : s.memGood) :
    (asRoot f s).memGood := hf _ hs

theorem memGood_grantOr {r : Except Nat (State × Word)} (hs : s.memGood) (hr : ExceptGood Prod.fst r) :
    (grantOr r s).memGood := by
  unfold grantOr
  split
  · exact hr _ rfl
  · exact hs

theorem memGood_giveCore {w : Word} (hs : s.memGood) : (giveCore w s c).memGood := by
  unfold giveCore
  split
  · exact hs
  · exact memGood_grantOr hs (exceptGood_grantCore hs)

theorem memGood_giveRange {w : Word} {r : PartRange} (hs : s.memGood) : (giveRange w s r).memGood :=
  memGood_ite hs (memGood_grantOr hs (exceptGood_grantRange hs))

theorem memGood_makePart {p : PartEntry} (hs : s.memGood) : (makePart s p).memGood := by
  unfold makePart
  dsimp only
  split
  · exact hs
  · next u id e =>
    have hu : u.memGood := exceptGood_newDomain hs _ e
    have hranges : (p.ranges.foldl (giveRange id) (p.cores.foldl (giveCore id) u)).memGood :=
      memGood_foldl (memGood_foldl hu fun _ _ hs => memGood_giveCore hs) fun _ _ hs => memGood_giveRange hs
    refine memGood_modDom (memGood_grantOr ?_ (exceptGood_grantBud ?_)) <;>
      exact memGood_foldl hranges fun _ _ hs => memGood_grantOr hs (exceptGood_grantVf hs)

theorem memGood_completeStart {parts : List PartEntry} (hs : s.memGood) : (completeStart parts s).memGood := by
  unfold completeStart
  dsimp only [State.memGood]
  exact memGood_asRoot (fun _ hs => memGood_foldl hs fun _ _ hs => memGood_makePart hs) hs

/-! ### The crossbar -/

theorem memGood_xbPutAt {o : XB} {p : PReg} {l : List Nat} (hs : s.memGood) : (State.xbPutAt s o p l).memGood :=
  memGood_setV hs

theorem memGood_xbPut {o : XB} {l : List Nat} (hs : s.memGood) : (State.xbPut s o l).memGood := memGood_xbPutAt hs

theorem memGood_xbWrite {o : XB} {f : Nat → Nat} (hs : s.memGood) : (State.xbWrite s o f).memGood :=
  memGood_xbPutAt hs

theorem memGood_scatEffect {o : XB} (hs : s.memGood) : (scatEffect o s).memGood := by
  unfold scatEffect
  dsimp only
  split
  · exact memGood_raise (memGood_xbPutAt (memGood_useV (memGood_useV hs)))
  · exact memGood_xbPutAt (memGood_useV (memGood_useV hs))

/-! ### Engines -/

theorem memGood_tsqldEffect {o : TX} (hs : s.memGood) : (tsqldEffect o s).memGood :=
  memGood_ite (memGood_tIssue hs) (memGood_raise hs)

theorem memGood_mmaEffect (hs : s.memGood) : (mmaEffect s).memGood :=
  memGood_ite (memGood_unissue (memGood_stick hs)) (memGood_tIssue hs)

/-! ### The host interface -/

theorem memGood_putVf {v : Fin 1024} {r : VfRegs} (hs : s.memGood) : (putVf s v r).memGood := hs

theorem memGood_vfError {v : Fin 1024} {code : BitVec 8} (hs : s.memGood) : (vfError s v code).memGood := by
  refine memGood_ite (memGood_putVf hs) ?_
  dsimp only [State.memGood]
  exact memGood_putVf hs

theorem memGood_putSqbase {v : Fin 1024} {w : BitVec 64} (hs : s.memGood) : (putSqbase v w s).memGood :=
  memGood_ite (memGood_vfError hs) (memGood_putVf hs)

theorem memGood_putSqcfg {v : Fin 1024} {w : BitVec 64} (hs : s.memGood) : (putSqcfg v w s).memGood :=
  memGood_ite (memGood_vfError hs)
    (memGood_ite (memGood_vfError hs) (memGood_ite (memGood_putVf hs) (memGood_putVf hs)))

theorem memGood_putSqtail {v : Fin 1024} {w : BitVec 64} (hs : s.memGood) : (putSqtail v w s).memGood :=
  memGood_ite (memGood_vfError hs) (memGood_putVf hs)

theorem memGood_putSqstat {v : Fin 1024} {w : BitVec 64} (hs : s.memGood) : (putSqstat v w s).memGood :=
  memGood_ite (memGood_putVf hs) hs

theorem optionGood_carryOut {dom : BitVec 12} {q : BitVec 512} (hs : s.memGood) :
    OptionGood ((carryOut s dom q).map Prod.fst) := by
  unfold carryOut
  dsimp only
  split
  · exact optionGood_some hs
  · split
    · split
      · exact optionGood_some hs
      · split
        · next e => exact optionGood_some (memGood_of_readRecord hs e)
        · exact optionGood_none
        · next e => exact optionGood_some (memGood_submit (memGood_of_readRecord hs e))
    · split
      · split
        · exact optionGood_some (memGood_postFlag hs)
        · exact optionGood_some hs
      · exact optionGood_some hs

theorem memGood_of_carryOut {dom : BitVec 12} {q : BitVec 512} {r : State × Nat} (hs : s.memGood)
    (e : carryOut s dom q = some r) : r.1.memGood :=
  optionGood_carryOut hs r.1 (congrArg (Option.map Prod.fst) e)

theorem memGood_takeEntry {v : Fin 1024} {code : Nat} (hs : s.memGood) : (takeEntry s v code).memGood :=
  memGood_ite (memGood_putVf hs) (memGood_vfError (memGood_putVf hs))

theorem memGood_postStatus {d : Fin 4} {dom : BitVec 12} {q : BitVec 512} {code : Nat} (hs : s.memGood) :
    (postStatus s d dom q code).memGood := memGood_ite hs hs

theorem memGood_serveEntry {v : Fin 1024} {d : Fin 4} {q : BitVec 512} (hs : s.memGood) :
    (serveEntry v d q s).memGood := by
  refine memGood_ite (memGood_takeEntry hs) (memGood_ite (memGood_takeEntry (memGood_postStatus hs)) ?_)
  dsimp only
  split
  · exact hs
  · next e =>
    have hu := memGood_of_carryOut hs e
    exact memGood_ite (memGood_putVf hu) (memGood_takeEntry (memGood_postStatus hu))

theorem memGood_putRelease {w : BitVec 64} {size : Nat} (hs : s.memGood) : (putRelease w size s).memGood :=
  memGood_ite (memGood_declareLost hs) hs

theorem memGood_putErrcnt {d : Fin 4} {k : Fin 18} {w : BitVec 32} {size : Nat} (hs : s.memGood) :
    (putErrcnt d k w size s).memGood := memGood_ite (memGood_modDie hs) hs

theorem memGood_putRegister {fn : HostFn} {off : BitVec 16} {w : BitVec 64} (hs : s.memGood) :
    (putRegister fn off w s).memGood := by
  unfold putRegister
  split
  · exact memGood_ite hs (memGood_ite (memGood_putSqbase hs) (memGood_ite (memGood_putSqcfg hs)
      (memGood_ite (memGood_putSqtail hs) (memGood_ite (memGood_putSqstat hs) hs))))
  · exact memGood_ite (memGood_putRelease hs) hs

/-! ### Predicates -/

theorem outcomeGood_predOp {i : Instr} {pd : BitVec 4} {v : State → PReg} (hs : s.memGood) :
    OutcomeGood (predOp i pd v s) := outcomeGood_asSlot (fun _ hs => memGood_setP hs) hs

/-! ### Scalar operations -/

theorem outcomeGood_scalarOp {i : Instr} {sd : BitVec 5} {v : State → Word} (hs : s.memGood) :
    OutcomeGood (scalarOp i sd v s) := outcomeGood_asSlot (fun _ hs => memGood_setS hs) hs

/-! ### Scalar floating point -/

theorem memGood_fpWrite {lat : Nat} {sl : CS} {sd : BitVec 5} {r : Res} (hs : s.memGood) :
    (fpWrite lat sl sd r s).memGood := memGood_fpDone (memGood_setS hs)

theorem memGood_fpArith {lat : Nat} {sl : CS} {o : RR} {op : Bool → Val → Val → Val → VRes} (hs : s.memGood) :
    (fpArith lat sl o op s).memGood := memGood_fpWrite hs

theorem memGood_fpPick {max : Bool} {sl : CS} {o : RR} (hs : s.memGood) : (fpPick max sl o s).memGood :=
  memGood_fpWrite hs

/-! ### Strands -/

theorem memGood_endPoint (hs : s.memGood) : (State.endPoint s).memGood := memGood_onFrame hs

theorem memGood_notReflected {k : State → State} (hs : s.memGood) (hk : ∀ s, s.memGood → (k s).memGood) :
    (State.notReflected s k).memGood := by
  unfold State.notReflected
  split
  · exact memGood_raisePermission hs
  · exact hk _ hs

theorem memGood_spawnEffect {o : SR} (hs : s.memGood) : (spawnEffect o s).memGood := by
  refine memGood_ite (memGood_raise (memGood_onFrame hs)) (memGood_readable (memGood_onFrame hs) fun s hs => ?_)
  extract_lets read
  have hread (u : State) (hu : u.memGood) : (read u).memGood :=
    memGood_readRec (memGood_drainStores hu) fun _ _ hs => memGood_readRec hs fun _ _ hs =>
      memGood_onCtx (memGood_setS (memGood_submit hs))
  exact memGood_ite (hread s hs) (memGood_afterStores (memGood_onFrame hs) hread)

theorem memGood_rclaimEffect {o : SR} (hs : s.memGood) : (rclaimEffect o s).memGood := by
  unfold rclaimEffect
  dsimp only
  split
  · exact memGood_setS (memGood_closeChunks (memGood_onFrame hs))
  · split
    · exact memGood_setS (memGood_closeChunks (memGood_onFrame hs))
    · refine memGood_ite (memGood_setS (memGood_closeChunks (memGood_onFrame hs))) ?_
      split
      · exact memGood_askFor (memGood_closeChunks (memGood_onFrame hs)) fun _ _ hs => hs
      · split <;> exact memGood_setS (memGood_modLaunch (memGood_closeChunks (memGood_onFrame hs)))

/-! ### Vector operations -/

theorem memGood_veDone {sl : SlotId} {lat : Nat} {o : VE} {w n : Nat} {p : PReg} {r : ElemsRes} (hs : s.memGood) :
    (State.veDone s sl lat o w n p r).memGood := memGood_fpDone (memGood_setV hs)

theorem memGood_veMap {sl : SlotId} {lat : Nat} {o : VE} {f : Nat → Res} (hs : s.memGood) :
    (State.veMap s sl lat o f).memGood := memGood_veDone hs

theorem memGood_useA {sl : SlotId} {o : VE} (hs : s.memGood) : (State.useA s sl o).memGood :=
  memGood_killV (memGood_useV hs)

theorem memGood_useAB {sl : SlotId} {o : VE} (hs : s.memGood) : (State.useAB s sl o).memGood :=
  memGood_killV (memGood_useV (memGood_useA hs))

theorem memGood_veBinary {lat : Nat} {sl : VW} {o : VE} {f : State → Nat → Nat → Res} (hs : s.memGood) :
    (veBinary lat sl o f s).memGood := memGood_veMap (memGood_useAB hs)

theorem memGood_veUnary {lat : Nat} {sl : VW} {o : VE} {f : State → Nat → Res} (hs : s.memGood) :
    (veUnary lat sl o f s).memGood := memGood_veMap (memGood_useA hs)

theorem memGood_veTernary {lat : Nat} {sl : VW} {o : VE} {f : State → Nat → Nat → Nat → Res} (hs : s.memGood) :
    (veTernary lat sl o f s).memGood := memGood_veMap (memGood_useV (memGood_useAB hs))

theorem memGood_vcmpEffect {sl : VW} {o : VE} (hs : s.memGood) : (vcmpEffect sl o s).memGood :=
  memGood_fpDone (memGood_setP (memGood_useAB hs))

theorem memGood_vselEffect {sl : VW} {o : VE} (hs : s.memGood) : (vselEffect sl o s).memGood :=
  memGood_veDone (memGood_useAB hs)

theorem memGood_vcvtEffect {sl : VW} {o : VE} (hs : s.memGood) : (vcvtEffect sl o s).memGood :=
  memGood_veDone (memGood_useA hs)

theorem memGood_veReduce {sl : VW} {o : VE} {op : RedOp} (hs : s.memGood) : (veReduce sl o op s).memGood :=
  memGood_veDone (memGood_useA hs)

theorem memGood_veScan {sl : VW} {o : VE} {op : RedOp} (hs : s.memGood) : (veScan sl o op s).memGood :=
  memGood_veDone (memGood_useA hs)

/-! ### Issue of a bundle -/

theorem memGood_passTurn (hs : s.memGood) : (passTurn s).memGood := by
  unfold passTurn
  dsimp only
  split
  · dsimp only [State.memGood]
    exact memGood_focusOn hs
  · exact hs

theorem memGood_enterCycle {ew : Nat} (hs : s.memGood) : (enterCycle ew s).memGood := by
  refine memGood_onCtx (memGood_modDie ?_)
  dsimp only
  split
  · exact memGood_modCore (memGood_pushEw (memGood_endCycle hs))
  · exact memGood_onCtx (memGood_modCore hs)

theorem memGood_dropCycle (hs : s.memGood) : (dropCycle s).memGood := memGood_ite hs (memGood_onCtx hs)

theorem memGood_withCounters {u : State} (hs : s.memGood) : (withCounters u s c).memGood :=
  memGood_foldl (memGood_modCore (memGood_modDie hs)) fun _ _ hs => memGood_modCtx hs

theorem memGood_leaveCycle {u : State} (hs : s.memGood) : (leaveCycle u s).memGood := by
  refine memGood_ite hs (memGood_ite ?_ (memGood_onCtx (memGood_withCounters hs)))
  dsimp only [State.memGood]
  exact memGood_withCounters hs

theorem outcomeGood_runSlots {run : Instr → State → Host.Outcome State Fault Refusal} {l : List Instr}
    (hrun : ∀ i s, s.memGood → OutcomeGood (run i s)) (hs : s.memGood) : OutcomeGood (runSlots run l s) := by
  induction l generalizing s with
  | nil => exact outcomeGood_next hs
  | cons i l ih =>
    unfold runSlots
    split
    · next e => exact ih (hrun _ _ hs _ e)
    · exact outcomeGood_fault
    · exact outcomeGood_refused

theorem memGood_markRegion {h : Header} (hs : s.memGood) : (markRegion h s).memGood :=
  memGood_ite (memGood_endRegion hs) hs

/-- The meaning `run` of an instruction is an argument of the issue operations; `outcomeGood_exec` below gives what they assume of it. -/
theorem outcomeGood_runBundle {run : Instr → State → Host.Outcome State Fault Refusal} {w : BitVec 320}
    (hrun : ∀ i s, s.memGood → OutcomeGood (run i s)) (hs : s.memGood) : OutcomeGood (runBundle run w s) := by
  unfold runBundle
  dsimp only
  split
  · exact outcomeGood_next (memGood_passTurn (memGood_bundleTrap (memGood_enterCycle hs)))
  · have hv {h : Header} : (markRegion h (enterCycle (bundleEw (some w)) s)).memGood :=
      memGood_markRegion (memGood_enterCycle hs)
    split
    · next e =>
      exact outcomeGood_next (memGood_passTurn (memGood_leaveCycle (memGood_closeBundle hv
        (outcomeGood_runSlots hrun (memGood_openBundle hv) _ e))))
    · exact outcomeGood_fault
    · exact outcomeGood_refused

theorem memGood_beforeBundle (hs : s.memGood) : (beforeBundle s).memGood :=
  memGood_noteWatchdog (memGood_noteMisses hs)

theorem memGood_askFetch {p : Place} {va : BitVec 48} {n : Nat} (hs : s.memGood) : (askFetch p va n s).memGood :=
  memGood_onCtx (memGood_sendAsk hs)

theorem outcomeGood_tryBundle {run : Instr → State → Host.Outcome State Fault Refusal}
    (hrun : ∀ i s, s.memGood → OutcomeGood (run i s)) (hs : s.memGood) : OutcomeGood (tryBundle run s) := by
  have hb : (beforeBundle s).memGood := memGood_beforeBundle hs
  refine outcomeGood_ite (outcomeGood_next (memGood_passTurn (memGood_dropCycle hb))) ?_
  split
  · exact outcomeGood_runBundle hrun hb
  · split
    · exact outcomeGood_next (memGood_passTurn (memGood_bundleTrap (memGood_enterCycle hb)))
    · split
      · next e => exact outcomeGood_next (memGood_passTurn (memGood_dropCycle (memGood_onCtx (memGood_of_fetchBundle hb e))))
      · next e =>
        have ht := memGood_of_fetchBundle hb e
        exact outcomeGood_next (memGood_passTurn (memGood_bundleTrap (memGood_enterCycle ht)))
      · next e =>
        have ht := memGood_of_fetchBundle hb e
        exact outcomeGood_next (memGood_passTurn (memGood_dropCycle (memGood_askFetch ht)))
      · next e => exact outcomeGood_runBundle hrun (memGood_of_fetchBundle hb e)

theorem outcomeGood_issueBundle {run : Instr → State → Host.Outcome State Fault Refusal}
    (hrun : ∀ i s, s.memGood → OutcomeGood (run i s)) (hs : s.memGood) : OutcomeGood (issueBundle run s) := by
  unfold issueBundle
  split
  · exact outcomeGood_tryBundle hrun (by exact hs)
  · exact outcomeGood_tryBundle hrun hs

theorem memGood_advance {ns cyc : Nat} (hs : s.memGood) : (advance ns cyc s).memGood :=
  memGood_ite hs (memGood_foldl hs fun _ _ hs => memGood_modCore hs)

theorem memGood_tick (hs : s.memGood) : (tick s).memGood := memGood_advance hs

/-! ### The dispatch -/

theorem outcomeGood_sysOp {i : Instr} {k : State → State} (hk : ∀ s, s.memGood → (k s).memGood) (hs : s.memGood) :
    OutcomeGood (asSlot i (sysEffect k) s) := outcomeGood_asSlot (fun _ hs => memGood_sysEffect hk hs) hs

theorem outcomeGood_execDnew {o : SY} (hs : s.memGood) : OutcomeGood (execDnew o s) := by
  refine outcomeGood_asSlot (fun _ hs => ?_) hs
  exact memGood_privileged hs fun _ hs => memGood_descriptor hs fun _ _ hs => memGood_answer hs
    (exceptGood_newDomain hs)

theorem outcomeGood_execDgrantRange {o : SY} (hs : s.memGood) : OutcomeGood (execDgrantRange o s) := by
  refine outcomeGood_asSlot (fun _ hs => ?_) hs
  exact memGood_privileged hs fun _ hs => memGood_descriptor hs fun _ _ hs => memGood_answer hs
    (exceptGood_grantRange hs)

theorem outcomeGood_execDrevokeRange {o : SY} (hs : s.memGood) : OutcomeGood (execDrevokeRange o s) := by
  refine outcomeGood_asSlot (fun _ hs => ?_) hs
  exact memGood_privileged hs fun _ hs => memGood_descriptor hs fun _ _ hs => memGood_revoked hs
    (exceptGood_revokeRange hs)

theorem outcomeGood_execDkill {o : SY} (hs : s.memGood) : OutcomeGood (execDkill o s) := by
  refine outcomeGood_sysOp (fun _ hs => ?_) hs
  split
  · exact memGood_setS hs
  · exact memGood_drainFor (memGood_setS (memGood_killDomain hs))

theorem outcomeGood_execTlbinvDom {o : SY} (hs : s.memGood) : OutcomeGood (execTlbinvDom o s) := by
  refine outcomeGood_sysOp (fun _ hs => ?_) hs
  split
  · exact memGood_setS hs
  · exact memGood_tlbinv hs

theorem outcomeGood_execRtload {o : SY} (hs : s.memGood) : OutcomeGood (execRtload o s) := by
  refine outcomeGood_asSlot (fun _ hs => ?_) hs
  refine memGood_privileged hs fun _ hs => ?_
  refine memGood_ite (memGood_raise hs) ?_
  exact memGood_descriptor hs fun _ _ hs => memGood_readWords hs fun _ _ hs => memGood_answer hs
    (exceptGood_loadRules hs)

theorem outcomeGood_execPgstateBegin {o : SY} (hs : s.memGood) : OutcomeGood (execPgstateBegin o s) := by
  refine outcomeGood_sysOp (fun _ hs => ?_) hs
  split
  · exact memGood_setS hs
  · next e => exact memGood_drainFor (memGood_setS (exceptGood_beginMove hs _ e))

theorem outcomeGood_execPgstateEnd {o : SY} (hs : s.memGood) : OutcomeGood (execPgstateEnd o s) := by
  refine outcomeGood_sysOp (fun _ hs => ?_) hs
  dsimp only
  split
  · exact memGood_setS hs
  · exact memGood_onCtx hs

theorem outcomeGood_execVldt {o : VT} (hs : s.memGood) : OutcomeGood (execVldt o s) := by
  refine outcomeGood_asSlot (fun _ hs => ?_) hs
  exact memGood_onTile hs fun _ _ _ hs => memGood_rowAccess hs fun _ hs => memGood_readRows (memGood_setV hs)

theorem outcomeGood_execVstt {o : VT} (hs : s.memGood) : OutcomeGood (execVstt o s) := by
  refine outcomeGood_asSlot (fun _ hs => ?_) hs
  refine memGood_firstV hs fun _ hs => ?_
  exact memGood_onTile hs fun _ _ _ hs => memGood_rowAccess hs fun _ hs => memGood_onFrame
    (memGood_killV (memGood_modRef hs))

theorem outcomeGood_execVgtht {o : VT} (hs : s.memGood) : OutcomeGood (execVgtht o s) :=
  outcomeGood_asSlot (fun _ hs => memGood_onTile hs fun _ _ _ hs => memGood_ite (memGood_raiseTile hs)
    (memGood_ite (memGood_readRows (memGood_setV hs)) (memGood_setV hs))) hs

theorem outcomeGood_execFpost {o : YF} (hs : s.memGood) : OutcomeGood (execFpost o s) :=
  outcomeGood_asSlot (fun _ hs => memGood_onFlag (memGood_progress (memGood_syncPoint hs))
    (fun _ _ hs => hs) fun _ _ hs => memGood_postFlag hs) hs

theorem outcomeGood_execFpostr {o : YF} (hs : s.memGood) : OutcomeGood (execFpostr o s) :=
  outcomeGood_asSlot (fun _ hs => memGood_postOn (memGood_scoped (memGood_progress (memGood_syncPoint hs)))
    (fun _ _ hs => hs) fun _ _ hs => memGood_ite (memGood_postFlag hs) (memGood_onCtx hs)) hs

theorem outcomeGood_execFset {o : YF} (hs : s.memGood) : OutcomeGood (execFset o s) :=
  outcomeGood_asSlot (fun _ hs => memGood_onFlag (memGood_progress (memGood_syncPoint hs))
    (fun _ _ hs => hs) fun _ _ hs => memGood_setFlag hs) hs

theorem outcomeGood_execFrd {o : YF} (hs : s.memGood) : OutcomeGood (execFrd o s) :=
  outcomeGood_asSlot (fun _ hs => memGood_onFlag hs (fun _ _ hs => memGood_setS hs) fun _ _ hs => memGood_setS hs) hs

theorem outcomeGood_execBar {o : YF} (hs : s.memGood) : OutcomeGood (execBar o s) := by
  refine outcomeGood_asSlot (fun _ hs => ?_) hs
  dsimp only
  split
  · exact memGood_raisePermission hs
  · exact memGood_afterWindow (memGood_syncPoint hs) fun _ hs => memGood_ite (memGood_onCtx hs) (memGood_arrive hs)

theorem outcomeGood_execFence {o : YF} (hs : s.memGood) : OutcomeGood (execFence o s) :=
  outcomeGood_asSlot (fun _ hs => memGood_afterWindow
    (memGood_scoped (memGood_syncPoint hs)) fun _ hs => memGood_ite (memGood_onCtx hs) hs) hs

theorem outcomeGood_execFwaitPoll (hs : s.memGood) : OutcomeGood (execFwaitPoll x s) := by
  refine outcomeGood_whenOk (fun _ hs => ?_) hs
  split
  · exact memGood_ite (memGood_endWait hs) hs
  · exact hs

theorem outcomeGood_execMigrationCopyComplete {n : Nat} (hs : s.memGood) :
    OutcomeGood (execMigrationCopyComplete n s) := by
  unfold execMigrationCopyComplete
  split
  · exact outcomeGood_next (memGood_dueAll (memGood_finishMove hs))
  · exact outcomeGood_next hs

theorem outcomeGood_execMirrorCopyComplete {d : Fin 4} (hs : s.memGood) :
    OutcomeGood (execMirrorCopyComplete d s) := by
  refine outcomeGood_whenOk (fun _ hs => memGood_modDie ?_) hs
  split
  · exact memGood_copyMirrored hs
  · exact hs

theorem outcomeGood_execBankFailed {b : Fin 34} (hs : s.memGood) : OutcomeGood (execBankFailed c b s) :=
  outcomeGood_whenOk
    (fun _ hs => memGood_ite (memGood_modCore (memGood_removeCore (memGood_modCore hs))) (memGood_modCore hs)) hs

theorem outcomeGood_execPreemptEscalation (hs : s.memGood) : OutcomeGood (execPreemptEscalation x s) := by
  refine outcomeGood_whenOk (fun _ hs => ?_) hs
  split
  · exact memGood_ite (memGood_startDrain hs) (memGood_preemptNow hs)
  · exact hs

theorem outcomeGood_execContextSaveComplete (hs : s.memGood) : OutcomeGood (execContextSaveComplete x s) :=
  outcomeGood_whenOk (fun _ hs => memGood_ite
    (memGood_holdDomain (memGood_spillStrands (memGood_completeSave hs))) (memGood_completeSave hs)) hs

theorem outcomeGood_execRestore (hs : s.memGood) : OutcomeGood (execRestore x s) := by
  refine outcomeGood_whenOk (fun _ hs => ?_) hs
  split
  · exact memGood_restoreStrand hs
  · exact hs

theorem outcomeGood_execOpSettleDone (hs : s.memGood) : OutcomeGood (execOpSettleDone c s) := by
  unfold execOpSettleDone
  dsimp only
  split
  · exact outcomeGood_next (memGood_opUpdate (memGood_modCore hs))
  · exact outcomeGood_next hs

theorem outcomeGood_execThermalThrottleStep {d : Fin 4} {h : Heat} (hs : s.memGood) :
    OutcomeGood (execThermalThrottleStep d h s) := by
  refine outcomeGood_whenOk (fun _ hs => memGood_opUpdateDie ?_) hs
  split
  · exact memGood_throttleStep hs
  · exact memGood_throttleStep hs
  · exact memGood_ceilingStep hs

theorem outcomeGood_execSlackReport {d : Fin 4} {r : SlackOp} (hs : s.memGood) :
    OutcomeGood (execSlackReport d r s) := by
  unfold execSlackReport
  split
  · exact outcomeGood_next hs
  · exact outcomeGood_whenOk (fun _ hs => memGood_slackReported hs) hs

theorem outcomeGood_execMsgForwardedAccess {f : FlowId} (hs : s.memGood) : OutcomeGood (execMsgForwardedAccess f s) :=
  outcomeGood_messageEvent
    (fun _ _ _ hs => memGood_ite (memGood_actRead hs) (memGood_ite (memGood_actAtomic hs) (memGood_actWrite hs))) hs

theorem outcomeGood_execTimebaseExchange {d : Fin 4} (hs : s.memGood) : OutcomeGood (execTimebaseExchange d s) := by
  refine outcomeGood_whenOk (fun _ hs => ?_) hs
  refine memGood_foldl (memGood_ite ?_ (memGood_modDie hs)) fun _ _ hs => memGood_sendMsg hs
  split <;> exact memGood_sendMsg (memGood_modDie hs)

theorem outcomeGood_execReunion {d : Fin 4} (hs : s.memGood) : OutcomeGood (execReunion d s) :=
  outcomeGood_whenOk (fun _ hs => memGood_rejoin
    (memGood_clearDie (memGood_foldl (memGood_joinRing hs) fun _ _ hs => memGood_killGroup hs))) hs

theorem outcomeGood_execRebuild {d : Fin 4} (hs : s.memGood) : OutcomeGood (execRebuild d s) := by
  refine outcomeGood_whenOk (fun _ hs => memGood_rejoin ?_) hs
  dsimp only [State.memGood]
  exact memGood_modDie (memGood_joinRing hs)

theorem outcomeGood_execSelfTestStart (hs : s.memGood) : OutcomeGood (execSelfTestStart s) := by
  unfold execSelfTestStart
  dsimp only
  split
  · exact outcomeGood_next hs
  · refine outcomeGood_whenOk (fun _ hs => ?_) hs
    refine memGood_offerAll (memGood_unqueue (memGood_changeState (memGood_modDie ?_)))
    dsimp only [State.memGood]
    exact memGood_foldl hs fun _ _ hs => memGood_chooseLevel hs

theorem outcomeGood_execFrameCheckpoint {ts : Nat} (hs : s.memGood) : OutcomeGood (execFrameCheckpoint ts s) := by
  unfold execFrameCheckpoint
  dsimp only
  split
  · exact outcomeGood_next hs
  · refine outcomeGood_whenOk (fun _ hs => ?_) hs
    split
    · exact memGood_ite (memGood_chooseLevel (memGood_modSet (memGood_checkpoint hs)))
        (memGood_startFrame (memGood_chooseLevel (memGood_modSet (memGood_checkpoint hs))))
    · exact memGood_chooseLevel (memGood_modSet (memGood_checkpoint hs))

theorem outcomeGood_execEarlyCheckpoint {ts : Nat} (hs : s.memGood) : OutcomeGood (execEarlyCheckpoint ts s) := by
  unfold execEarlyCheckpoint
  split
  · exact outcomeGood_next hs
  · exact outcomeGood_whenOk (fun _ hs => memGood_checkpoint hs) hs

theorem outcomeGood_execLinkTraining {d : Fin 4} (hs : s.memGood) : OutcomeGood (execLinkTraining d s) := by
  refine outcomeGood_whenOk (fun _ hs => memGood_relink ?_) hs
  dsimp only [State.memGood]
  exact memGood_modDie hs

theorem outcomeGood_execSubmissionService {v : Fin 1024} {q : BitVec 512} (hs : s.memGood) :
    OutcomeGood (execSubmissionService v q s) := by
  unfold execSubmissionService
  split
  · exact outcomeGood_next hs
  · exact outcomeGood_whenOk (fun _ hs => memGood_serveEntry hs) hs

theorem outcomeGood_execHostCompletion {tag : Nat} {err : Bool} {data : BitVec 512} (hs : s.memGood) :
    OutcomeGood (execHostCompletion tag err data s) := by
  unfold execHostCompletion
  split
  · exact outcomeGood_whenOk (fun _ hs => memGood_takeAnswer hs) hs
  · exact outcomeGood_next hs

theorem outcomeGood_execRelaunchRetry (hs : s.memGood) : OutcomeGood (execRelaunchRetry s) :=
  outcomeGood_whenOk
    (fun _ hs => memGood_foldl hs fun _ _ hs => memGood_foldl hs fun _ _ hs => memGood_submitLaunch hs) hs

theorem outcomeGood_execSelfTestReinitialisationDone {d : Fin 4} (hs : s.memGood) :
    OutcomeGood (execSelfTestReinitialisationDone d s) :=
  outcomeGood_whenOk (fun _ hs => memGood_offerAll
    (memGood_raiseIdle (memGood_changeState (memGood_modDie (memGood_resetCores hs))))) hs

/-- The dispatch, arm by arm: instructions and events of one shape share a case. -/
theorem outcomeGood_exec {i : Instr} (hs : s.memGood) : OutcomeGood (exec i s) := by
  cases i with dsimp only [exec]
  | br | jmp | ret => exact outcomeGood_asSlot (fun _ hs => memGood_jumpTo hs) hs
  | brc => exact outcomeGood_asSlot (fun _ hs => memGood_ite (memGood_jumpTo hs) (memGood_jumpTo hs)) hs
  | call | callr => exact outcomeGood_asSlot (fun _ hs => memGood_jumpTo (memGood_linkNext hs)) hs
  | loopi => exact outcomeGood_asSlot (fun _ hs => memGood_escalateDrain (memGood_onCtx hs)) hs
  | loop => exact outcomeGood_asSlot (fun _ hs => memGood_loopEffect hs) hs
  | suspend | yield =>
    exact outcomeGood_asSlot (fun _ hs => memGood_notReflected hs fun _ hs => memGood_follow (memGood_endPoint hs)) hs
  | spawn => exact outcomeGood_asSlot (fun _ hs => memGood_spawnEffect hs) hs
  | rclaim => exact outcomeGood_asSlot (fun _ hs => memGood_notReflected hs fun _ hs => memGood_rclaimEffect hs) hs
  | halt => exact outcomeGood_asSlot (fun _ hs => memGood_follow (memGood_endPoint hs)) hs
  | trap | tret => exact outcomeGood_asSlot (fun _ hs => memGood_onFrame hs) hs
  | csrr | pcnt | pfirst => exact outcomeGood_asSlot (fun _ hs => memGood_setS hs) hs
  | csrw | csrsb | csrcb => exact outcomeGood_asSlot (fun _ hs => memGood_csrWrite hs) hs
  | dnew => exact outcomeGood_execDnew hs
  | dgrantRange => exact outcomeGood_execDgrantRange hs
  | dgrantCore => exact outcomeGood_sysOp (fun _ hs => memGood_answer hs (exceptGood_grantCore hs)) hs
  | dgrantVf => exact outcomeGood_sysOp (fun _ hs => memGood_answer hs (exceptGood_grantVf hs)) hs
  | dgrantBud => exact outcomeGood_sysOp (fun _ hs => memGood_answer hs (exceptGood_grantBud hs)) hs
  | drevokeRange => exact outcomeGood_execDrevokeRange hs
  | drevokeCore => exact outcomeGood_sysOp (fun _ hs => memGood_revoked hs (exceptGood_revokeCore hs)) hs
  | drevokeVf => exact outcomeGood_sysOp (fun _ hs => memGood_revoked hs (exceptGood_revokeVf hs)) hs
  | dkill => exact outcomeGood_execDkill hs
  | dpolicyTrap => exact outcomeGood_sysOp (fun _ hs => memGood_policy hs fun _ _ hs => exceptGood_policyTrap hs) hs
  | dpolicyFlags => exact outcomeGood_sysOp (fun _ hs => memGood_policy hs fun _ _ hs => exceptGood_policyFlags hs) hs
  | dpolicyEvq => exact outcomeGood_sysOp (fun _ hs => memGood_policy hs fun _ _ hs => exceptGood_policyEvq hs) hs
  | dpolicyDlog => exact outcomeGood_sysOp (fun _ hs => memGood_policy hs fun _ _ hs => exceptGood_policyDlog hs) hs
  | dpolicyScope => exact outcomeGood_sysOp (fun _ hs => memGood_policy hs fun _ _ hs => exceptGood_policyScope hs) hs
  | dpolicyTbofs => exact outcomeGood_sysOp (fun _ hs => memGood_policy hs fun _ _ hs => exceptGood_policyTbofs hs) hs
  | dpolicySpill => exact outcomeGood_sysOp (fun _ hs => memGood_policy hs fun _ _ hs => exceptGood_policySpill hs) hs
  | dquery => exact outcomeGood_sysOp (fun _ hs => memGood_setS hs) hs
  | tlbinvAll | tlbinvVa => exact outcomeGood_sysOp (fun _ hs => memGood_tlbinv hs) hs
  | tlbinvDom => exact outcomeGood_execTlbinvDom hs
  | rtload => exact outcomeGood_execRtload hs
  | rtloadClr => exact outcomeGood_sysOp (fun _ hs => memGood_answer hs (exceptGood_clearRules hs)) hs
  | evpostOwn | evpostPar | evpostChild => exact outcomeGood_asSlot (fun _ hs => memGood_postEvent hs) hs
  | pgstateBegin => exact outcomeGood_execPgstateBegin hs
  | pgstateEnd => exact outcomeGood_execPgstateEnd hs
  | pand | por | pxor | pnot | psetn => exact outcomeGood_predOp hs
  | add | addi | sub | mul | mulh | mulhu | div | divu | rem | remu | and | andi | or | ori | xor | xori | shl
  | shli | shr | shri | sar | sari | ror | min | minu | max | maxu | clz | ctz | popc | slt | sltu | sel | movi
  | movk | sext => exact outcomeGood_scalarOp hs
  | sfadd | sfsub | sfmul | sffma => exact outcomeGood_asSlot (fun _ hs => memGood_fpArith hs) hs
  | sfmin | sfmax => exact outcomeGood_asSlot (fun _ hs => memGood_fpPick hs) hs
  | sfcmp | sfcvt => exact outcomeGood_asSlot (fun _ hs => memGood_fpWrite hs) hs
  | ldB | ldBu | ldH | ldHu | ldW | ldWu | ldD => exact outcomeGood_asSlot (fun _ hs => memGood_loadEffect hs) hs
  | stB | stH | stW | stD => exact outcomeGood_asSlot (fun _ hs => memGood_storeEffect hs) hs
  | ataddW | ataddD | atminW | atminD | atmaxW | atmaxD | atandW | atandD | atorW | atorD | atxorW | atxorD
  | atswpW | atswpD | atcasW | atcasD => exact outcomeGood_asSlot (fun _ hs => memGood_atomicEffect hs) hs
  | vldt => exact outcomeGood_execVldt hs
  | vstt => exact outcomeGood_execVstt hs
  | vldts =>
    exact outcomeGood_asSlot (fun _ hs => memGood_onTile hs fun _ _ _ hs => memGood_readRows (memGood_setV hs)) hs
  | vgtht => exact outcomeGood_execVgtht hs
  | vins => exact outcomeGood_asSlot (fun _ hs => memGood_setV (memGood_useV hs)) hs
  | vext => exact outcomeGood_asSlot (fun _ hs => memGood_killV (memGood_setS (memGood_useV hs))) hs
  | vadd | vsub | vmul | vmin | vmax | vand | vor | vxor | vshl | vshr | vsar | vclmp =>
    exact outcomeGood_asSlot (fun _ hs => memGood_veBinary hs) hs
  | vfma | vfms => exact outcomeGood_asSlot (fun _ hs => memGood_veTernary hs) hs
  | vabs | vneg | vnot | vmov | vrcp | vrsq | vsqrt | vexp2 | vlog2 | vtanh =>
    exact outcomeGood_asSlot (fun _ hs => memGood_veUnary hs) hs
  | vcmp => exact outcomeGood_asSlot (fun _ hs => memGood_vcmpEffect hs) hs
  | vsel => exact outcomeGood_asSlot (fun _ hs => memGood_vselEffect hs) hs
  | vcvt => exact outcomeGood_asSlot (fun _ hs => memGood_vcvtEffect hs) hs
  | vsplat | vsplati | viota => exact outcomeGood_asSlot (fun _ hs => memGood_veMap hs) hs
  | vreds | vredm => exact outcomeGood_asSlot (fun _ hs => memGood_veReduce hs) hs
  | vscan => exact outcomeGood_asSlot (fun _ hs => memGood_veScan hs) hs
  | xperm | xzip | xunzip =>
    exact outcomeGood_asSlot (fun _ hs => memGood_xbWrite (memGood_useV (memGood_useV hs))) hs
  | xpermScat => exact outcomeGood_asSlot (fun _ hs => memGood_scatEffect hs) hs
  | xrot | xbcst => exact outcomeGood_asSlot (fun _ hs => memGood_xbWrite (memGood_useV hs)) hs
  | xcmpr | xexpd => exact outcomeGood_asSlot (fun _ hs => memGood_xbPut (memGood_useV hs)) hs
  | talloc => exact outcomeGood_asSlot (fun _ hs => memGood_tallocEffect hs) hs
  | tfree => exact outcomeGood_asSlot (fun _ hs => memGood_checkT hs fun _ hs => memGood_issueT hs) hs
  | tpark | twake | tfill | tcopy | ttrans | tcvt | tplane | tscale | tscaleBs | tscaleNobs | aclr | asetq | acvt
  | aaddt | achk | afix => exact outcomeGood_asSlot (fun _ hs => memGood_tIssue hs) hs
  | tload | tstore | tckpt => exact outcomeGood_asSlot (fun _ hs => memGood_transferEffect hs) hs
  | tsqld => exact outcomeGood_asSlot (fun _ hs => memGood_tsqldEffect hs) hs
  | mma => exact outcomeGood_asSlot (fun _ hs => memGood_mmaEffect hs) hs
  | fwait => exact outcomeGood_asSlot (fun _ hs => memGood_fwaitEffect hs) hs
  | fpost => exact outcomeGood_execFpost hs
  | fpostr => exact outcomeGood_execFpostr hs
  | fset => exact outcomeGood_execFset hs
  | frd => exact outcomeGood_execFrd hs
  | bar => exact outcomeGood_execBar hs
  | fence => exact outcomeGood_execFence hs
  | tmwait | tmwaitRel => exact outcomeGood_asSlot (fun _ hs => memGood_waitUntil hs) hs
  | issueChoice => exact outcomeGood_whenOk (fun _ hs => memGood_chooseIssue hs) hs
  | trapDelivery => exact outcomeGood_whenOk (fun _ hs => memGood_deliverDue hs) hs
  | watchdog => exact outcomeGood_next (memGood_noteWatchdog hs)
  | suspendRecordWrite => exact outcomeGood_whenOk (fun _ hs => memGood_holdDomain (memGood_writeRecord hs)) hs
  | strandDone => exact outcomeGood_whenOk (fun _ hs => memGood_finishStrand (memGood_duePosts hs)) hs
  | gangAdmission => exact outcomeGood_whenOk (fun _ hs => memGood_gangAdmit hs) hs
  | continuationTakeUp => exact outcomeGood_whenOk (fun _ hs => memGood_takeUp hs) hs
  | entryStart => exact outcomeGood_whenOk (fun _ hs => memGood_onEntry hs fun _ => memGood_startOrResume hs) hs
  | tileEntryComplete =>
    exact outcomeGood_whenOk (fun _ hs => memGood_onEntry hs fun _ => memGood_completeEntry hs) hs
  | mmaComplete => exact outcomeGood_whenOk (fun _ hs => memGood_onEntry hs fun _ => memGood_finishMma hs) hs
  | holdRelease => exact outcomeGood_whenOk (fun _ hs => memGood_modEntry hs) hs
  | copyStep => exact outcomeGood_whenOk (fun _ hs => memGood_copyEngineStep hs) hs
  | energyRefill => exact outcomeGood_whenOk (fun _ hs => memGood_foldl hs fun _ _ hs => memGood_putCtx hs) hs
  | bandwidthRefill =>
    exact outcomeGood_whenOk (fun _ hs => memGood_foldl (memGood_modDie hs) fun _ _ hs => memGood_unparkBudget hs) hs
  | deadlineMiss =>
    exact outcomeGood_whenOk (fun _ hs => memGood_onEntry hs fun _ => memGood_modCtx (memGood_modEntry hs)) hs
  | fwaitSatisfied | tmwaitExpiry => exact outcomeGood_whenOk (fun _ hs => memGood_endWait hs) hs
  | fwaitPoll => exact outcomeGood_execFwaitPoll hs
  | fenceComplete => exact outcomeGood_whenOk (fun _ hs => memGood_fenceComplete hs) hs
  | pageWalk => exact outcomeGood_whenOk (fun _ hs => memGood_pageWalk hs) hs
  | migrationCopyComplete => exact outcomeGood_execMigrationCopyComplete hs
  | mirrorCopyComplete => exact outcomeGood_execMirrorCopyComplete hs
  | scrub => exact outcomeGood_whenOk (fun _ hs => memGood_meetLatent hs) hs
  | bankIdleOff | bankKillOff => exact outcomeGood_whenOk (fun _ hs => memGood_vBankOff hs) hs
  | bankRetention | bankWakeDone => exact outcomeGood_whenOk (fun _ hs => memGood_modVBank hs) hs
  | spadClearDone | spadWakeDone => exact outcomeGood_whenOk (fun _ hs => memGood_modCore hs) hs
  | bankFailed => exact outcomeGood_execBankFailed hs
  | suspensionRequest => exact outcomeGood_whenOk (fun _ hs => memGood_modCtx hs) hs
  | loopDrain => exact outcomeGood_whenOk (fun _ hs => memGood_startDrain hs) hs
  | immediatePreemption => exact outcomeGood_whenOk (fun _ hs => memGood_preemptNow hs) hs
  | preemptEscalation => exact outcomeGood_execPreemptEscalation hs
  | contextSaveComplete => exact outcomeGood_execContextSaveComplete hs
  | restore => exact outcomeGood_execRestore hs
  | opSettleDone => exact outcomeGood_execOpSettleDone hs
  | thermalThrottleStep => exact outcomeGood_execThermalThrottleStep hs
  | slackReport => exact outcomeGood_execSlackReport hs
  | msgRead => exact outcomeGood_messageEvent (fun _ _ _ hs => memGood_actRead hs) hs
  | msgWrite => exact outcomeGood_messageEvent (fun _ _ _ hs => memGood_actWrite hs) hs
  | msgAtomic => exact outcomeGood_messageEvent (fun _ _ _ hs => memGood_actAtomic hs) hs
  | msgFlagPost => exact outcomeGood_messageEvent (fun _ _ _ hs => memGood_postFlag hs) hs
  | msgForwardedAccess => exact outcomeGood_execMsgForwardedAccess hs
  | msgMovedMarker | msgServiceLevel => exact outcomeGood_messageEvent (fun _ _ _ hs => hs) hs
  | msgRangeSteal => exact outcomeGood_messageEvent (fun _ _ _ hs => memGood_reply (memGood_modLaunch hs)) hs
  | msgReadData | msgWriteDone | msgAtomicResult | msgLostOrError =>
    exact outcomeGood_messageEvent (fun _ _ _ hs => memGood_actAnswer hs) hs
  | msgMirrorWrite =>
    exact outcomeGood_messageEvent (fun _ _ _ hs => memGood_writeMem _ _ _ _ (memGood_meetWrite hs)) hs
  | msgCheckpointEpoch => exact outcomeGood_messageEvent (fun _ _ _ hs => memGood_freeRetained (memGood_modDie hs)) hs
  | msgHeartbeat => exact outcomeGood_messageEvent (fun _ _ _ hs => memGood_modDie hs) hs
  | msgConfiguration => exact outcomeGood_messageEvent (fun _ _ _ hs => memGood_actConfig hs) hs
  | msgTimebase => exact outcomeGood_messageEvent (fun _ _ _ hs => memGood_actTimebase hs) hs
  | ackTimeout => exact outcomeGood_whenOk (fun _ hs => memGood_sendAck hs) hs
  | replayTimeout => exact outcomeGood_whenOk (fun _ hs => memGood_retryFlow hs) hs
  | timebaseExchange => exact outcomeGood_execTimebaseExchange hs
  | heartbeatSend =>
    exact outcomeGood_whenOk (fun _ hs => memGood_foldl (memGood_modDie hs) fun _ _ hs => memGood_sendMsg hs) hs
  | heartbeatLoss => exact outcomeGood_whenOk (fun _ hs => memGood_declareLost hs) hs
  | railFault | clockFault | junctionOvertemp => exact outcomeGood_whenOk (fun _ hs => memGood_dieFault hs) hs
  | lockstepMismatch => exact outcomeGood_whenOk (fun _ hs => memGood_dieFault (memGood_countErr hs)) hs
  | restoreAndRelaunch =>
    exact outcomeGood_whenOk (fun _ hs => memGood_foldl hs fun _ _ hs => memGood_relaunchSet hs) hs
  | reunion => exact outcomeGood_execReunion hs
  | rebuild => exact outcomeGood_execRebuild hs
  | selfTestStart => exact outcomeGood_execSelfTestStart hs
  | selfTestEnd | selfTestTimeout => exact outcomeGood_whenOk (fun _ hs => memGood_endTest hs) hs
  | frameCheckpoint => exact outcomeGood_execFrameCheckpoint hs
  | earlyCheckpoint => exact outcomeGood_execEarlyCheckpoint hs
  | coldStart => exact outcomeGood_next memGood_startCold
  | warmReset => exact outcomeGood_whenOk (fun _ hs => memGood_startWarm hs) hs
  | bootTimeout => exact outcomeGood_whenOk (fun _ hs => memGood_failStart hs) hs
  | startComplete => exact outcomeGood_whenOk (fun _ hs => memGood_completeStart hs) hs
  | linkTraining => exact outcomeGood_execLinkTraining hs
  | sqbaseWrite => exact outcomeGood_whenOk (fun _ hs => memGood_putSqbase hs) hs
  | sqcfgWrite => exact outcomeGood_whenOk (fun _ hs => memGood_putSqcfg hs) hs
  | sqtailWrite => exact outcomeGood_whenOk (fun _ hs => memGood_putSqtail hs) hs
  | sqstatWrite => exact outcomeGood_whenOk (fun _ hs => memGood_putSqstat hs) hs
  | submissionService => exact outcomeGood_execSubmissionService hs
  | releaseWrite => exact outcomeGood_whenOk (fun _ hs => memGood_putRelease hs) hs
  | errcntWrite => exact outcomeGood_whenOk (fun _ hs => memGood_putErrcnt hs) hs
  | registerWrite => exact outcomeGood_next (memGood_putRegister hs)
  | unsupportedRequest => exact outcomeGood_next hs
  | hostCompletion => exact outcomeGood_execHostCompletion hs
  | softError => exact outcomeGood_next (memGood_softEffect hs)
  | relaunchRetry => exact outcomeGood_execRelaunchRetry hs
  | selfTestReinitialisationDone => exact outcomeGood_execSelfTestReinitialisationDone hs
  | taskSetRegistration =>
    exact outcomeGood_whenOk (fun _ hs => memGood_startFrame (memGood_event (memGood_modSet hs))) hs
  | failedLane => exact outcomeGood_whenOk (fun _ hs => memGood_relink (memGood_modDie (memGood_countErr hs))) hs

/-! ### One step -/

/-- The event that an own event of the package is. -/
noncomputable def Own.instr : Own → Instr
  | .watchdog x => .watchdog x | .trapDelivery x => .trapDelivery x | .suspendRecordWrite x => .suspendRecordWrite x
  | .strandDone x => .strandDone x | .fwaitSatisfied x => .fwaitSatisfied x | .fwaitPoll x => .fwaitPoll x
  | .tmwaitExpiry x => .tmwaitExpiry x | .fenceComplete x => .fenceComplete x
  | .preemptEscalation x => .preemptEscalation x | .contextSaveComplete x => .contextSaveComplete x
  | .continuationTakeUp x => .continuationTakeUp x | .restore x => .restore x | .entryStart x n => .entryStart x n
  | .tileEntryComplete x n => .tileEntryComplete x n | .mmaComplete x n => .mmaComplete x n
  | .holdRelease x n => .holdRelease x n | .deadlineMiss x n => .deadlineMiss x n
  | .bankIdleOff x b => .bankIdleOff x b | .bankRetention x b => .bankRetention x b
  | .bankKillOff x b => .bankKillOff x b | .bankWakeDone x b => .bankWakeDone x b | .issueChoice c => .issueChoice c
  | .copyStep c => .copyStep c | .opSettleDone c => .opSettleDone c | .spadClearDone c b => .spadClearDone c b
  | .spadWakeDone c b => .spadWakeDone c b | .bankFailed c b => .bankFailed c b
  | .gangAdmission d => .gangAdmission d | .bandwidthRefill d => .bandwidthRefill d
  | .heartbeatSend d => .heartbeatSend d | .timebaseExchange d => .timebaseExchange d
  | .mirrorCopyComplete d => .mirrorCopyComplete d | .selfTestTimeout d => .selfTestTimeout d
  | .selfTestReinitialisationDone d => .selfTestReinitialisationDone d | .heartbeatLoss d i => .heartbeatLoss d i
  | .scrub d line => .scrub d line | .msgRead f => .msgRead f | .msgWrite f => .msgWrite f
  | .msgAtomic f => .msgAtomic f | .msgFlagPost f => .msgFlagPost f | .msgForwardedAccess f => .msgForwardedAccess f
  | .msgMovedMarker f => .msgMovedMarker f | .msgRangeSteal f => .msgRangeSteal f | .msgReadData f => .msgReadData f
  | .msgWriteDone f => .msgWriteDone f | .msgAtomicResult f => .msgAtomicResult f
  | .msgLostOrError f => .msgLostOrError f | .msgMirrorWrite f => .msgMirrorWrite f
  | .msgCheckpointEpoch f => .msgCheckpointEpoch f | .msgHeartbeat f => .msgHeartbeat f
  | .msgConfiguration f => .msgConfiguration f | .msgServiceLevel f => .msgServiceLevel f
  | .msgTimebase f => .msgTimebase f | .ackTimeout f => .ackTimeout f | .replayTimeout f => .replayTimeout f
  | .energyRefill => .energyRefill | .restoreAndRelaunch => .restoreAndRelaunch | .relaunchRetry => .relaunchRetry
  | .selfTestStart => .selfTestStart | .bootTimeout => .bootTimeout
  | .migrationCopyComplete n => .migrationCopyComplete n | .frameCheckpoint ts => .frameCheckpoint ts
  | .earlyCheckpoint ts => .earlyCheckpoint ts

theorem Own.run_eq_exec (e : Own) : e.run s = exec e.instr s := by
  cases e <;> rfl

theorem outcomeGood_takeOutside {i : Instr} (hs : s.memGood) : OutcomeGood (takeOutside i s) :=
  outcomeGood_ite (outcomeGood_next hs) (outcomeGood_exec hs)

theorem outcomeGood_takeInside (hs : s.memGood) : OutcomeGood (takeInside s) := by
  unfold takeInside
  split
  · next e _ =>
    rw [Own.run_eq_exec]
    exact outcomeGood_exec hs
  · exact outcomeGood_ite outcomeGood_fault (outcomeGood_next hs)

theorem outcomeGood_ticked {o : Host.Outcome State Fault Refusal} (ho : OutcomeGood o) : OutcomeGood (ticked o) := by
  cases o with
  | next t => exact outcomeGood_next (memGood_tick (ho t rfl))
  | fault r => exact outcomeGood_fault
  | refused r => exact outcomeGood_refused

theorem outcomeGood_step (hs : s.memGood) : OutcomeGood (step s) := by
  unfold step
  split
  · exact outcomeGood_ticked (outcomeGood_takeOutside hs)
  · refine outcomeGood_ite (outcomeGood_ticked ?_) (outcomeGood_ticked (outcomeGood_takeInside hs))
    exact outcomeGood_issueBundle (fun _ _ hs => outcomeGood_exec hs) hs

end Sys2Proof.Machine

open Sys2Proof.Machine in
/-- Settles O57: a step is the dispatch of an instruction or event (alone or within a bundle) and a tick of the clock, and each of their operations
keeps the canonical form of device memory. -/
theorem stepKeepsMemory : Obligations.StepKeepsMemory := by
  intro s t hs ht
  exact outcomeGood_step hs t ht
end

section
/-! PROOF. The state at reset (R7, R16, R17, R103, R117 to R119, R277, R343, R347, R425; log entries 1, 2 and 53): what each of its parts reads as. -/

namespace Sys2Proof.Machine

/-! ### Accessors at reset -/

/-- p0 to p7 do not rotate (R104). -/
theorem physP_of_lt_eight {prb : BitVec 3} {n : BitVec 4} (h : n.toNat < 8) : physP prb n = n := if_pos h

/-- p0 does not rotate and needs no live bit (R103, R104, R108). -/
@[simp] theorem Ctx.p_zero (c : Ctx) : c.p 0 = BitVec.allOnes 128 := by
  have h : physP c.prb 0 = 0 := physP_of_lt_eight (by decide)
  simp only [Ctx.p, h, if_true]

/-- No core stands in the table, so each reads as the core that an absent entry stands for. -/
@[simp] theorem coreAt_reset (k : CoreId) : coreAt State.reset k = Core.reset := rfl

@[simp] theorem dieAt_reset (d : Fin 4) : dieAt State.reset d = Die.reset := by
  simp [dieAt, State.reset]

/-! ### The vectors of a context, a core and a die at reset -/

@[simp] theorem hmap_reset (h : Fin 24) : Ctx.reset.hmap[h.val] = none := by
  simp [Ctx.reset]

@[simp] theorem flags_reset (f : Fin 32) : Core.reset.flags[f.val] = 0 := by
  simp [Core.reset]

@[simp] theorem sbank_failed_reset (b : Fin 32) : (Core.reset.sbank[b.val]).failed = false := by
  simp [Core.reset]

@[simp] theorem regions_reset (i : Fin 4) : Die.reset.regions[i.val] = RegionEntry.reset := by
  simp [Die.reset]

/-- A die that is live and not the keyholder, without a reason, a generation or a time (R343). -/
@[simp] theorem regionEntry_bits_reset : RegionEntry.reset.bits = 0 := by
  decide

@[simp] theorem err_reset (k : Fin 18) : Die.reset.err[k.val] = 0 := by
  simp [Die.reset]

@[simp] theorem req_reset (k : Fin 4) : Die.reset.req[k.val] = 0 := by
  simp [Die.reset]

@[simp] theorem stc_reset (k : Fin 5) : Die.reset.stc[k.val] = 0 := by
  simp [Die.reset]

end Sys2Proof.Machine

open Sys2Proof.Machine in
/-- Settles O58, part by part: the package, the focused context, the cores, the dies and the tables. -/
theorem resetState : Obligations.ResetState := by
  unfold Obligations.ResetState
  refine ⟨memGood_reset, rfl, rfl, rfl, rfl, rfl, ?csrs, ?contextQueues, ?cores, ?dies, rfl, rfl, rfl, rfl⟩
  case csrs => exact ⟨rfl, rfl, rfl, rfl, rfl, rfl, rfl, rfl, rfl, rfl, rfl, rfl, rfl, rfl, rfl, rfl, rfl, Ctx.p_zero _, rfl, rfl⟩
  case contextQueues => exact ⟨rfl, rfl, hmap_reset, rfl⟩
  case cores =>
    intro k
    rw [coreAt_reset]
    exact ⟨flags_reset, rfl, rfl, rfl, rfl, sbank_failed_reset⟩
  case dies =>
    intro d
    rw [dieAt_reset]
    have regions (i : Fin 4) : (Die.reset.regions[i.val]).bits = 0 := by
      rw [regions_reset, regionEntry_bits_reset]
    exact ⟨regions, err_reset, req_reset, stc_reset, rfl, rfl, rfl, rfl, rfl⟩
end
